-- ==== Sys2Proof/Word.lean ====
section
/-! DEFINITION. The word types of the BXP-4860 (spec/11_encoding.md: words of 64 bits; spec/00_scope.md R4) and the
one shape of every sparse table of the model: a list of (key, value) pairs. -/

-- One declaration after the other: the package as one text then fits in memory.
set_option Elab.async false

namespace Sys2Proof

/-- A 64-bit register or memory word. -/
abbrev Word := BitVec 64

/-- One byte, the unit of a location (spec/07_ordering.md R83). -/
abbrev Byte := BitVec 8

/-- A set of the 32 lanes of a gang: bit i is lane i (spec/01_work.md R14). -/
abbrev Mask := BitVec 32

/-- A sparse table: keys with values; a key that is not listed holds the default value of its type. -/
abbrev Tab (α : Type) := List (Nat × α)

end Sys2Proof
end

