-- ==== Sys2Proof/Syntax.lean ====
section
/-! DEFINITION. The steps of the BXP-4860: one constructor of Instr for each row of spec/opcode_table.json. An instruction
word keeps the fields of its format (spec/11_encoding.md R116, R120, R125, R126); a step that no word encodes carries what
the outside or the choosing agent supplies. -/

namespace Sys2Proof

/-- A full-format word without FMT and OP (R116). The opcode is the constructor of Instr. -/
structure FullWord where
  /-- H [62]: the run continues into the next word. -/
  h   : Bool
  /-- GP [53:51]: guard predicate. -/
  gp  : BitVec 3
  /-- GI [50]: guard invert. -/
  gi  : Bool
  /-- NW [49]: the result goes to the latches only. -/
  nw  : Bool
  /-- DST [48:42]. -/
  dst : BitVec 7
  /-- SA [41:34]. -/
  sa  : BitVec 8
  /-- SB [33:26]. -/
  sb  : BitVec 8
  /-- SC [25:18]. -/
  sc  : BitVec 8
  /-- MOD [17:0]. -/
  mod : BitVec 18
  deriving DecidableEq, Repr, Inhabited

/-- One half of a pair word (R126). -/
structure Half where
  /-- HOP [30:24]: half-opcode. -/
  hop  : BitVec 7
  /-- GP [23:22]: guard predicate p0 to p3. -/
  gp   : BitVec 2
  /-- DF [21:15]: destination and first source. -/
  df   : BitVec 7
  /-- SRC [14:7]. -/
  src  : BitVec 8
  /-- HMOD [6:0]. -/
  hmod : BitVec 7
  deriving DecidableEq, Repr, Inhabited

/-- A pair word without FMT (R125). -/
structure PairWord where
  /-- H [62]. -/
  h : Bool
  /-- HALFA [61:31]. -/
  a : Half
  /-- HALFB [30:0]. -/
  b : Half
  deriving DecidableEq, Repr, Inhabited

/-- The path classes of R82 (spec/07_ordering.md). -/
inductive PathClass where
  | thread | copy | matrix | reflect | host
  deriving DecidableEq, Repr, Inhabited

/-- A scope instance (R81): of a lane, a gang, a workgroup, a cluster, a die, a device (virtual interface) or a fabric
(the context whose receive windows it spans). -/
inductive Inst where
  | lane (wg gang i : Nat)
  | gang (wg gang : Nat)
  | wg (wg : Nat)
  | clus (c : Nat)
  | die (d : Nat)
  | dev (vif : Nat)
  | fab (ctx : Nat)
  deriving DecidableEq, Repr, Inhabited

/-- The queue a fault report went to: the context's (guest stage, ROUTE) or the interface's (host stage)
(spec/27_control.md R298, R299). -/
inductive FaultQueue where
  | guest (ctx : Nat)
  | host (vif : Nat)
  deriving DecidableEq, Repr, Inhabited

/-- The stores whose errors are counted (spec/05_memory.md R77, spec/29_system.md R330). -/
inductive Store where
  | core | cluster | die | acc | scale | hbm
  deriving DecidableEq, Repr, Inhabited

/-- Where an uncorrectable scratch error strikes (R77): a region of a workgroup, a die-store word, or bytes no region holds. -/
inductive EccSite where
  | region (s : Store) (wg : Nat)
  | dieWord (die offset : Nat)
  | unheld (s : Store)
  deriving DecidableEq, Repr, Inhabited

/-- A claim handshake as the serving window unit receives it (spec/21_claims.md R238, spec/23_fabric.md R259 HAND). -/
structure Handshake where
  /-- The asking package. -/
  pkg     : BitVec 9
  /-- The sender context. -/
  sctx    : BitVec 32
  rwin    : BitVec 12
  /-- WOFF and LEN of the claim's span. -/
  woff    : BitVec 32
  len     : BitVec 25
  /-- KC [0]: the credit is released. -/
  release : Bool
  /-- KD: the number under which the sender asks (log 75). -/
  ask     : BitVec 64
  deriving DecidableEq, Repr, Inhabited

/-- A reflection queue RQ(s, p, w) (R83): sender context, path, and receive window w of a package. -/
structure QueueKey where
  sctx : BitVec 32
  path : BitVec 2
  pod  : BitVec 7
  pkg  : BitVec 9
  rwin : BitVec 12
  deriving DecidableEq, Repr, Inhabited

/-- A slot preamble as received (spec/23_fabric.md R252). -/
structure Preamble where
  txlit    : BitVec 16
  firstSeq : BitVec 12
  ack      : BitVec 12
  /-- Free relay bytes of classes 0 to 3. -/
  free     : List Nat
  /-- The 512-bit reachability vector. -/
  reach    : BitVec 512
  /-- Wavelengths of the receiver of this preamble whose loss its sender has detected (R262). -/
  loss     : BitVec 16
  /-- CRC-16 over the record. -/
  crc      : BitVec 16
  deriving DecidableEq, Repr, Inhabited

/-- A signed firmware or provisioning image (spec/29_system.md R327, R329). -/
structure Image where
  bytes     : List Byte
  signature : List Byte
  version   : Nat
  deriving DecidableEq, Repr, Inhabited

/-- The sources of security alarms (R329). -/
inductive Alarm where
  | voltage | clock | temperature | tamper | keyMisuse | fabricTag
  deriving DecidableEq, Repr, Inhabited

/-- A host access to device memory over CXL.mem (R321): a read of n bytes, or a write. -/
inductive HostAccess where
  | read (n : Nat)
  | write (bytes : List Byte)
  deriving DecidableEq, Repr, Inhabited

/-- Every step of spec/opcode_table.json, in the table's order, those without operands last. -/
inductive Instr where
  /-- NOP (R122). Does nothing; the all-zero word, used as padding. -/
  | nop (w : FullWord)
  /-- BRA (R141). Sends every active lane to the target; the run ends. -/
  | bra (w : FullWord)
  /-- BRC (R141). Sends the lanes whose predicate, possibly inverted, holds to the target and the rest to PC + 8, splitting the split. -/
  | brc (w : FullWord)
  /-- BRX (R138). Reads a bounded jump table, checks the index bound and the landing pads, then branches each lane to its target. -/
  | brx (w : FullWord)
  /-- LPAD (R137). Carries a landing label; performs nothing unless it is reached through a table. -/
  | lpad (w : FullWord)
  /-- CALL (R142). Checks the return stack depths, pushes PC + 8 for each lane and branches. -/
  | call (w : FullWord)
  /-- CALLX (R142). Performs the table checks of BRX and the depth check, then pushes and branches each lane to its table target. -/
  | callx (w : FullWord)
  /-- RET (R142). Checks for empty stacks, then pops each lane's return address and branches. -/
  | ret (w : FullWord)
  /-- EXIT (R143). Moves the active threads to EXITED and clears their lanes from the rejoin masks; in trap mode it exits the whole gang. -/
  | exit (w : FullWord)
  /-- YIELD (R144). Ends the run and does nothing else. -/
  | yield (w : FullWord)
  /-- JOIN (R145). Puts the lanes that are in kN into JOINWAIT and re-evaluates the release. -/
  | join (w : FullWord)
  /-- JOIN_RELEASE (R20). Once every lane of kN has arrived or exited, moves the waiting threads to EXEC as one split. -/
  | joinRelease (wg gang k : Nat)
  /-- KOP_SET (R146). Sets kD to the set of lanes whose guard holds. -/
  | kopSet (w : FullWord)
  /-- KOP_OR (R146). Sets kD to kA OR the active set. -/
  | kopOr (w : FullWord)
  /-- KOP_AND (R146). Sets kD to kA AND the active set. -/
  | kopAnd (w : FullWord)
  /-- KOP_ANDN (R146). Sets kD to kA AND NOT the active set. -/
  | kopAndn (w : FullWord)
  /-- KOP_COPY (R146). Copies kA into kD, less the exited lanes. -/
  | kopCopy (w : FullWord)
  /-- KOP_LOAD (R146). Loads kD from bits [31:0] of a, read from the lowest active lane. -/
  | kopLoad (w : FullWord)
  /-- KRD (R147). Writes the value of kN into vD. -/
  | krd (w : FullWord)
  /-- CMP (R148). Compares two integers and writes or combines the result into a predicate. -/
  | cmp (w : FullWord)
  /-- PLOP (R149). Combines two predicates with a logical operation. -/
  | plop (w : FullWord)
  /-- PMOV (R150). Copies one predicate into another. -/
  | pmov (w : FullWord)
  /-- PMOV_SAVE (R150). Packs p0 to p7 into a v register. -/
  | pmovSave (w : FullWord)
  /-- PMOV_LOAD (R150). Loads p1 to p7 from the bits of a register. -/
  | pmovLoad (w : FullWord)
  /-- PMOV_NZ (R150). Sets a predicate when a register is nonzero. -/
  | pmovNz (w : FullWord)
  /-- CSRD (R151). Reads a control register into vD. -/
  | csrd (w : FullWord)
  /-- RSTACK_POP (R152). CSRD of rstack pops the top return stack entry and traps on an empty stack. -/
  | rstackPop (w : FullWord)
  /-- CSWR (R151). Writes a control register lane by lane, in ascending lane order. -/
  | cswr (w : FullWord)
  /-- RSTACK_PUSH (R152). CSWR of rstack pushes an entry onto the return stack and traps on a full stack. -/
  | rstackPush (w : FullWord)
  /-- CSOR (R151). ORs a value into a control register lane by lane. -/
  | csor (w : FullWord)
  /-- CSANDN (R151). Clears bits of a control register lane by lane. -/
  | csandn (w : FullWord)
  /-- MOV (R156). Copies a 64-bit value. -/
  | mov (w : FullWord)
  /-- MOVI (R162). Writes a sign-extended, zero-extended or high-half 32-bit immediate. -/
  | movi (w : FullWord)
  /-- ADD (R156). Adds two 64-bit integers, wrapping or saturating. -/
  | add (w : FullWord)
  /-- ADDC (R157). Adds with a carry held in a predicate and writes the carry out. -/
  | addc (w : FullWord)
  /-- SUB (R156). Subtracts two 64-bit integers. -/
  | sub (w : FullWord)
  /-- SUBB (R157). Subtracts with a borrow held in a predicate. -/
  | subb (w : FullWord)
  /-- MUL (R156). Multiplies and keeps the low 64 bits, or saturates. -/
  | mul (w : FullWord)
  /-- MULH (R156). Keeps the high 64 bits of the 128-bit product. -/
  | mulh (w : FullWord)
  /-- MAD (R156). Computes a × b + c. -/
  | mad (w : FullWord)
  /-- DIV (R158). Divides, truncating toward zero; division by zero gives all ones and sets DIVZ. -/
  | div (w : FullWord)
  /-- REM (R158). Gives the remainder of a truncating division. -/
  | rem (w : FullWord)
  /-- MIN (R156). Gives the lesser of two integers. -/
  | min (w : FullWord)
  /-- MAX (R156). Gives the greater of two integers. -/
  | max (w : FullWord)
  /-- ABS (R156). Gives the absolute value of an integer. -/
  | abs (w : FullWord)
  /-- NEG (R156). Negates an integer. -/
  | neg (w : FullWord)
  /-- AND (R159). Bitwise AND. -/
  | and (w : FullWord)
  /-- OR (R159). Bitwise OR. -/
  | or (w : FullWord)
  /-- XOR (R159). Bitwise XOR. -/
  | xor (w : FullWord)
  /-- ANDN (R159). Computes a AND NOT b. -/
  | andn (w : FullWord)
  /-- NOT (R159). Bitwise NOT. -/
  | not (w : FullWord)
  /-- SHL (R159). Shifts left by b mod 64. -/
  | shl (w : FullWord)
  /-- SHR (R159). Shifts right, logically. -/
  | shr (w : FullWord)
  /-- SAR (R159). Shifts right, arithmetically. -/
  | sar (w : FullWord)
  /-- ROT (R159). Rotates left. -/
  | rot (w : FullWord)
  /-- FSHF (R159). Performs a funnel shift of the 128-bit pair a:b, to the right or to the left. -/
  | fshf (w : FullWord)
  /-- POPC (R159). Counts the 1 bits. -/
  | popc (w : FullWord)
  /-- CLZ (R159). Counts the leading zero bits. -/
  | clz (w : FullWord)
  /-- CTZ (R159). Counts the trailing zero bits. -/
  | ctz (w : FullWord)
  /-- BREV (R159). Reverses the order of the bits. -/
  | brev (w : FullWord)
  /-- BFE (R160). Extracts a bit field, with sign or zero extension. -/
  | bfe (w : FullWord)
  /-- BFI (R160). Inserts a bit field into a base value. -/
  | bfi (w : FullWord)
  /-- SEL (R161). Selects a or b by a predicate. -/
  | sel (w : FullWord)
  /-- SEXT (R161). Sign-extends the low 8, 16 or 32 bits. -/
  | sext (w : FullWord)
  /-- ZEXT (R161). Zero-extends the low 8, 16 or 32 bits. -/
  | zext (w : FullWord)
  /-- ADDR (R161). Computes a + b × 2^XA + c. -/
  | addr (w : FullWord)
  /-- VADD (R193). Adds packed integers. -/
  | vadd (w : FullWord)
  /-- VSUB (R193). Subtracts packed integers. -/
  | vsub (w : FullWord)
  /-- VMUL (R193). Multiplies packed integers. -/
  | vmul (w : FullWord)
  /-- VMULH (R193). Gives the high half of each packed product. -/
  | vmulh (w : FullWord)
  /-- VMAD (R193). Packed multiply-add. -/
  | vmad (w : FullWord)
  /-- VDOT (R194). Packed dot product into 32-bit or 64-bit accumulators. -/
  | vdot (w : FullWord)
  /-- VMIN (R193). Packed minimum. -/
  | vmin (w : FullWord)
  /-- VMAX (R193). Packed maximum. -/
  | vmax (w : FullWord)
  /-- VABS (R193). Packed absolute value. -/
  | vabs (w : FullWord)
  /-- VAVG (R193). Packed average, rounded up or truncated. -/
  | vavg (w : FullWord)
  /-- VSAD (R194). Adds the sum of absolute differences to c. -/
  | vsad (w : FullWord)
  /-- VSHL (R193). Packed shift left. -/
  | vshl (w : FullWord)
  /-- VSHR (R193). Packed logical shift right. -/
  | vshr (w : FullWord)
  /-- VSAR (R193). Packed arithmetic shift right. -/
  | vsar (w : FullWord)
  /-- VCMP (R195). Packed compare giving a mask of all ones or zeros per sub-element. -/
  | vcmp (w : FullWord)
  /-- VSEL (R195). Bitwise select by a mask. -/
  | vsel (w : FullWord)
  /-- VPACK (R196). Narrows two registers into one, optionally saturating. -/
  | vpack (w : FullWord)
  /-- VUNPK (R196). Widens the low or the high half of a register. -/
  | vunpk (w : FullWord)
  /-- VPERM (R197). Permutes sub-elements of two registers by a selector register. -/
  | vperm (w : FullWord)
  /-- VTBL (R197). Looks up bytes or nibbles in a 16-byte table held in two registers. -/
  | vtbl (w : FullWord)
  /-- VSWZ (R197). Swizzles sub-elements by an immediate. -/
  | vswz (w : FullWord)
  /-- FADD (R199). Floating add, rounded once. -/
  | fadd (w : FullWord)
  /-- FSUB (R199). Floating subtract. -/
  | fsub (w : FullWord)
  /-- FMUL (R199). Floating multiply. -/
  | fmul (w : FullWord)
  /-- FMA (R199). Fused multiply-add with one rounding. -/
  | fma (w : FullWord)
  /-- FMIN (R200). minimumNumber of two floating values. -/
  | fmin (w : FullWord)
  /-- FMAX (R200). maximumNumber of two floating values. -/
  | fmax (w : FullWord)
  /-- FABS (R200). Clears the sign bit of each sub-element. -/
  | fabs (w : FullWord)
  /-- FNEG (R200). Inverts the sign bit of each sub-element. -/
  | fneg (w : FullWord)
  /-- FCMP (R201). Floating compare into a mask or a predicate. -/
  | fcmp (w : FullWord)
  /-- FCLS (R202). Writes the one-hot class of each value. -/
  | fcls (w : FullWord)
  /-- FRND (R203). Rounds each value to an integral value. -/
  | frnd (w : FullWord)
  /-- FCVT (R204). Converts between floating types by part, including stochastic rounding. -/
  | fcvt (w : FullWord)
  /-- ICVT (R204). Converts between integer and floating types by part. -/
  | icvt (w : FullWord)
  /-- FSCL (R199). Scales by a power of two with one rounding. -/
  | fscl (w : FullWord)
  /-- RCP (R205). Computes the reciprocal. -/
  | rcp (w : FullWord)
  /-- RSQ (R205). Computes the reciprocal square root. -/
  | rsq (w : FullWord)
  /-- SQRT (R205). Computes the correctly rounded square root. -/
  | sqrt (w : FullWord)
  /-- EXP2 (R205). Computes 2^x. -/
  | exp2 (w : FullWord)
  /-- LOG2 (R205). Computes log2 x. -/
  | log2 (w : FullWord)
  /-- SINP (R205). Computes sin(πx). -/
  | sinp (w : FullWord)
  /-- COSP (R205). Computes cos(πx). -/
  | cosp (w : FullWord)
  /-- TANH (R205). Computes tanh x. -/
  | tanh (w : FullWord)
  /-- SHF (R212). Gathers sub-elements from other lanes by per-byte selectors. -/
  | shf (w : FullWord)
  /-- SHFI (R212). Moves whole registers between lanes by an immediate mode up, down, xor or rot. -/
  | shfi (w : FullWord)
  /-- VOTE (R213). Summarises a predicate across the contributors as some, every, same, mask, count or below. -/
  | vote (w : FullWord)
  /-- RED (R214). Reduces across the contributors by a fixed tree. -/
  | red (w : FullWord)
  /-- SCAN (R214). Forms inclusive or exclusive prefixes across the contributors. -/
  | scan (w : FullWord)
  /-- BCAST (R212). Broadcasts a register from a selected lane. -/
  | bcast (w : FullWord)
  /-- MATCH (R213). Writes the mask of contributors whose value equals the lane's own. -/
  | matchLanes (w : FullWord)
  /-- ELECT (R213). Sets a predicate in the lowest contributor, or in the lowest lane with pS set. -/
  | elect (w : FullWord)
  /-- MEMBER_FORM_PERFORM (R210). Once every member of kN has arrived or exited, performs the cross-lane instruction once and releases the members as one split. -/
  | memberFormPerform (wg gang park : Nat)
  /-- PAIR (R128). Issues two restricted half instructions together, with all sources read before either half writes. -/
  | pair (w : PairWord)
  /-- DLD (R170). Loads a 32-byte buffer record into a d register, with its checks. -/
  | dld (w : FullWord)
  /-- DMOD (R171). Copies a record, changing one field, and checks the result. -/
  | dmod (w : FullWord)
  /-- LDB (R172). Loads through a buffer record per lane. -/
  | ldb (w : FullWord)
  /-- STB (R172). Stores through a buffer record per lane, posted on the host path for host kinds. -/
  | stb (w : FullWord)
  /-- STB_WINDOW (R275). STB through a transmit-window record appends one reflected store per lane to a reflection queue. -/
  | stbWindow (w : FullWord)
  /-- LDS (R173). Loads from a scratch address. -/
  | lds (w : FullWord)
  /-- STS (R173). Stores to a scratch address. -/
  | sts (w : FullWord)
  /-- LDC (R174). Reads the launch's constant copy of its argument block. -/
  | ldc (w : FullWord)
  /-- TMOV (R176). Checks a tile descriptor and submits a 2-D scratch copy on the copy path. -/
  | tmov (w : FullWord)
  /-- TMOV_COMPLETE (R176). When every byte of a tile move is written, adds 1 to its sequence cell. -/
  | tmovComplete (wg i : Nat)
  /-- ATOM (R177). Performs an atomic read-modify-write per lane by the selected operation. -/
  | atom (w : FullWord)
  /-- CAS (R178). Compares and swaps atomically per lane. -/
  | cas (w : FullWord)
  /-- ATOMF (R179). Floating atomic add, min or max. -/
  | atomf (w : FullWord)
  /-- FENCE (R182). A release followed by an acquire at a scope. -/
  | fence (w : FullWord)
  /-- FENCEX (R89). Pushes and joins the views of the named path classes at a scope. -/
  | fencex (w : FullWord)
  /-- PERSIST (R101). Waits until the thread's earlier persistent stores are durable and returns its refusal count. -/
  | persist (w : FullWord)
  /-- BARW (R184). Arrives at a wired barrier and parks until its phase completes or breaks. -/
  | barw (w : FullWord)
  /-- WIRED_BARRIER_COMPLETE (R28). When every participant of a phase has arrived or exited, releases the waiters and opens a new phase. -/
  | wiredBarrierComplete (inst : Nat)
  /-- BINIT (R185). Initialises a memory barrier object. -/
  | binit (w : FullWord)
  /-- BARV (R185). Arrives at a memory barrier object, as a release at clus. -/
  | barv (w : FullWord)
  /-- BEXP (R185). Adds pending bytes to a memory barrier object. -/
  | bexp (w : FullWord)
  /-- BWAIT (R185). Waits while PHASE equals a value, with a timeout. -/
  | bwait (w : FullWord)
  /-- BWAIT_WAKE (R185). A parked BWAIT wakes with pD = 1 and an acquire when PHASE differs, or with pD = 0 when the object is freed. -/
  | bwaitWake (wg gang park : Nat)
  /-- BTRY (R185). Tests once whether PHASE differs from a value. -/
  | btry (w : FullWord)
  /-- WSEQ (R186). Waits until a sequence cell reaches a value, then takes the FENCEX of the named classes. -/
  | wseq (w : FullWord)
  /-- WSEQ_WAKE (R186). A parked WSEQ resumes with pD = 1 and its FENCEX when the cell reaches the value. -/
  | wseqWake (wg gang park : Nat)
  /-- WMEM (R187). Waits for a condition on one scratch word per lane. -/
  | wmem (w : FullWord)
  /-- WMEM_RECHECK (R187). A parked WMEM re-reads its words after a write to them or every 1,024 cycles and resumes when every lane holds. -/
  | wmemRecheck (wg gang park : Nat)
  /-- WAIT_TIMEOUT (R188). The timeout of a BWAIT, WSEQ or WMEM expires and the wait resumes with no acquire. -/
  | waitTimeout (wg gang park : Nat)
  /-- MENQ (R226). Checks a task record held in eight registers and appends it to the workgroup's Dahlia chain. -/
  | menq (w : FullWord)
  /-- MTAIL (R226). Reads and checks a list of task records from scratch, following MLINK records, and appends them in one step. -/
  | mtail (w : FullWord)
  /-- TASK_START (R225). Dahlia starts the head of the next ready chain, after its wait is met, taking the FENCEX at WSCOPE when WAIT = 1. -/
  | taskStart (clus : Nat)
  /-- MMA (R222). A task that accumulates A × B into the accumulator by K-steps, with multicast copies. -/
  | mma (clus : Nat)
  /-- MZERO (R223). A task that writes accumulator elements to zero. -/
  | mzero (clus : Nat)
  /-- MLOAD (R223). A task that loads accumulator elements from scratch, widening them. -/
  | mload (clus : Nat)
  /-- MDRAIN (R223). A task that converts accumulator elements and writes them to scratch. -/
  | mdrain (clus : Nat)
  /-- MWAIT (R224). A task that only waits and signals. -/
  | mwait (clus : Nat)
  /-- TASK_COMPLETE (R225). When every write of a task is performed, adds SINC to its completion cell when SIG = 1. -/
  | taskComplete (clus : Nat)
  /-- DAHLIA_RESET (R247). Primrose resets a Dahlia that completes no K-step for 1 ms or reports an internal error, killing the workgroups with tasks. -/
  | dahliaReset (clus : Nat)
  /-- CLAIM (R231). Checks its operands, copies the records, waits for the slot's earlier flows and moves the slot to WALKING. -/
  | claim (w : FullWord)
  /-- CLAIM_WALK (R237). The walk translates and pins pages, checks permissions, logs dirty pages, binds staging and hands off remotely, ending in LIVE. -/
  | claimWalk (wg slot : Nat)
  /-- CLAIM_HANDSHAKE (R238). The serving window unit receives a HAND packet, checks the mapping and permission, and reserves a reassembly credit. -/
  | claimHandshake (hand : Handshake)
  /-- HANDSHAKE_RESPONSE (R238). The walk receives the HANDRSP answer to its handshake. -/
  | handshakeResponse (wg slot pkg : Nat) (code : BitVec 8)
  /-- HANDSHAKE_TIMEOUT (R239). No answer within 10 µs parks the walk with ROUTE and reports it. -/
  | handshakeTimeout (wg slot : Nat)
  /-- FLOW (R232). Appends a flow on a LIVE claim to the Iris chain, or returns pD = 0. -/
  | flow (w : FullWord)
  /-- FLOW_START (R240). Iris starts the next flow of a chain, with at most 4 in progress. -/
  | flowStart (wg i : Nat)
  /-- FLOW_COMPLETE (R233). A completed flow increments its cell and decrements the linked barrier object's PEND in one step. -/
  | flowComplete (wg i : Nat)
  /-- FLOW_SEVERED (R243). A flow whose destination package becomes unreachable ends SEVERED, lapsing the claim and writing an error record. -/
  | flowSevered (wg i : Nat)
  /-- CLREL (R234). Releases a claim; the slot becomes FREE when its flows are done. -/
  | clrel (w : FullWord)
  /-- CLQRY (R235). Reads the slot's state word. -/
  | clqry (w : FullWord)
  /-- RFENCE (R277). Waits until the instance's earlier reflected stores are acknowledged and returns the failure accumulator. -/
  | rfence (w : FullWord)
  /-- RFENCE_Q (R277). Query form: returns the gang's outstanding counts per path without waiting. -/
  | rfenceQ (w : FullWord)
  /-- PULL (R276). Sends a 64-byte pull record as one reflected store. -/
  | pull (w : FullWord)
  /-- PULL_SERVE (R269). The peer's window unit checks a delivered pull record against its grant and answers with a reflect flow and an ordered completion value. -/
  | pullServe (die : Nat)
  /-- UINT (R278). Sends a user interrupt vector and payload to a context, as a release at dev. -/
  | uint (w : FullWord)
  /-- UINT_ARRIVE (R305). An interrupt reaching the target is checked against the permission table and made pending or coalesced. -/
  | uintArrive (sender target : BitVec 32) (vec : BitVec 6) (payload : Word) (host : Bool)
  /-- UI_DELIVER (R306). A deliverable vector is delivered to the handler gang's UIWAIT or diverts the gang at its next run boundary. -/
  | uiDeliver (ctx : Nat)
  /-- UIWAIT (R279). The handler gang waits for the delivery of a user interrupt. -/
  | uiwait (w : FullWord)
  /-- UIRET (R280). Ends a diversion and restores the saved splits. -/
  | uiret (w : FullWord)
  /-- UICLR (R281). Clears the pending vectors named in a. -/
  | uiclr (w : FullWord)
  /-- TRAP (R282). Traps with cause TRAP and an 18-bit code. -/
  | trap (w : FullWord)
  /-- BKPT (R282). Traps with cause BKPT and an 18-bit code. -/
  | bkpt (w : FullWord)
  /-- TRET (R283). Ends trap mode and restores the bank, the latches and the splits. -/
  | tret (w : FullWord)
  /-- LAUNCH (R284). Reads and checks a launch header, takes the argument copy and enqueues the launch. -/
  | launch (w : FullWord)
  /-- SYSRD (R287). Reads a system register, subject to privilege. -/
  | sysrd (w : FullWord)
  /-- SYSWR (R287). Writes a system register that has no row of its own, subject to privilege. -/
  | syswr (w : FullWord)
  /-- TLBI (R288). Drops cached translations, lapses the claims that pin covered pages and waits for them. -/
  | tlbi (w : FullWord)
  /-- DLTAIL_WRITE (R76). Advancing the dirty log tail replays the parked writers in park order. -/
  | dltailWrite (vif : Nat) (v : Word)
  /-- FAULT_ANSWER_RETRY (R73). A RETRY answer written to a fault answer register replays the parked instruction's unfinished lanes. -/
  | faultAnswerRetry (q : FaultQueue) (token : BitVec 32)
  /-- FAULT_ANSWER_ABORT (R73). An ABORT answer makes the parked split trap with PAGE_FAULT. -/
  | faultAnswerAbort (q : FaultQueue) (token : BitVec 32)
  /-- PARK_CLEAR (R17). A thread whose parking condition clears returns to EXEC, replaying or continuing. -/
  | parkClear (wg gang park : Nat)
  /-- ECC_CORRECTED (R77). A single-bit error is corrected in place and counted. -/
  | eccCorrected (kind : Store)
  /-- ECC_UNCORRECTABLE (R77). An uncorrectable scratch error kills the owning workgroup or poisons a die-store word. -/
  | eccUncorrectable (site : EccSite)
  /-- HBM_POISON (R78). An uncorrectable HBM error poisons its 64-byte line. -/
  | hbmPoison (line : Nat)
  /-- POSTED_STORE_REFUSED (R80). A posted host-path store refused by the far device is dropped and reported by an error record. -/
  | postedStoreRefused (i : Nat)
  /-- PENDING_ADMIT (R292). A cluster admits the head of its pending queue as soon as it fits. -/
  | pendingAdmit (clus : Nat)
  /-- LOAD_BALANCE_EXCHANGE (R293). Every 1 µs neighbouring clusters exchange pending depths and may move one entry. -/
  | loadBalanceExchange (clus : Nat)
  /-- WORKGROUP_RETIRE (R31). A workgroup whose threads, tasks and flows are done retires and returns its reservation. -/
  | workgroupRetire (wg : Nat)
  /-- WORKGROUP_RELAUNCH (R32). A killed idempotent workgroup rejoins dispatch with the same WIDs in the initial state. -/
  | workgroupRelaunch (wg : Nat)
  /-- PREEMPT_REQUEST (R300). Primrose asks to vacate a context's workgroups on a core set. -/
  | preemptRequest (ctx : Nat) (cores : List Nat)
  /-- PREEMPT_SAVE (R301). A vacated workgroup stops, lapses claims, stops Dahlia, orders and saves its state and returns its reservation. -/
  | preemptSave (wg : Nat)
  /-- WORKGROUP_RESUME (R302). A saved workgroup is placed again, restores its state, re-evaluates its waits and takes an acquire at dev. -/
  | workgroupResume (wg : Nat)
  /-- CONTEXT_TEARDOWN (R309). Stops every gang of a context, discards its queues, releases claims, frees regions and writes an execution record. -/
  | contextTeardown (ctx : Nat) (reason : BitVec 8)
  /-- SLOT_PREAMBLE (R252). At each 150 ns slot a port sends its preamble and starts filling flits from its queues. -/
  | slotPreamble (port : Nat) (rx : Option Preamble)
  /-- FLIT_RECEIVE (R257). A received flit is accepted when its CRC and sequence hold; otherwise NAK is sent. -/
  | flitReceive (port : Nat) (flit : BitVec 768)
  /-- NAK_REPLAY (R257). On NAK the sender replays every later flit in order. -/
  | nakReplay (peer : Nat) (lack : BitVec 12)
  /-- PACKET_VERIFY (R260). A packet whose last flit has arrived is held until its tag verifies, or discarded with a security alarm. -/
  | packetVerify (i : Nat)
  /-- REFLECT_DELIVER (R95). The window unit delivers the head entry of a reflection queue as reflect-class writes and acknowledges it. -/
  | reflectDeliver (q : QueueKey)
  /-- ORDERED_FLAG_DELIVER (R96). An ordered flag is delivered after every earlier entry of its sender, joining reflect into thread at dev. -/
  | orderedFlagDeliver (q : QueueKey)
  /-- ACK_RECEIVE (R261). An acknowledgement decrements the sender's outstanding counts and records any failure code. -/
  | ackReceive (peer : Nat) (q : QueueKey) (first last : BitVec 16) (status : BitVec 8)
  /-- RESEND_TIMEOUT (R261). After 3 cycles without acknowledgement a packet is resent by another route, or failed when unreachable. -/
  | resendTimeout (i : Nat)
  /-- LOSS_OF_LIGHT (R262). A detected loss of light marks the wavelength LOST, narrows the stripe from the next preamble and writes an event. -/
  | lossOfLight (port : Nat) (waves : BitVec 16)
  /-- LOST_CLEAR (R262). Primrose clears LOST bits after verifying the module, with a RESTORE event. -/
  | lostClear (port : Nat) (waves : BitVec 16)
  /-- PORT_PARK (R263). An empty transmit queue for IDLE µs parks the port at P8 or P4. -/
  | portPark (port : Nat)
  /-- PORT_WAKE (R263). Queued bytes at WAKEQ or a lower PARK setting start waking the port. -/
  | portWake (port : Nat)
  /-- WAKE_COMPLETE (R263). Every woken wavelength trains within 3 µs and the port returns to FULL. -/
  | wakeComplete (port : Nat)
  /-- WAKE_TIMEOUT (R263). A woken wavelength that fails within 3 µs is marked lost and the port goes to FULL. -/
  | wakeTimeout (port : Nat) (failed : BitVec 16)
  /-- CALENDAR_LOAD (R251). Primrose loads the slot calendars when the package joins the pod. -/
  | calendarLoad (pod : BitVec 7) (pkg : BitVec 9) (entries : List (BitVec 16))
  /-- RX_WINDOW_VALIDATE (R265). Setting V in a receive window entry translates and pins the whole window. -/
  | rxWindowValidate (rwin : Nat) (entry : BitVec 256)
  /-- RX_WINDOW_CLEAR (R265). Clearing V waits for deliveries under way and lapses the claims into the window. -/
  | rxWindowClear (rwin : Nat)
  /-- SPAWN_RECORD (R322). A 64-byte spawn record from the host reads a header and enqueues a launch, writing a status word. -/
  | spawnRecord (vif : Nat) (rec : BitVec 512)
  /-- JOIN_COUNTER_INCREMENT (R323). When a spawned launch retires or fails, the host port adds 1 to its join counter. -/
  | joinCounterIncrement (launch : Nat)
  /-- INTERRUPT_RECORD (R333). A 16-byte record at the interrupt port acts as a UINT from the host. -/
  | interruptRecord (vif : Nat) (rec : BitVec 128)
  /-- HOST_MEM_ACCESS (R321). A host access over CXL.mem to device HBM, as a thread-class access at dev. -/
  | hostMemAccess (vif addr : Nat) (access : HostAccess)
  /-- BIND_RECORD_WRITE (R291). Primrose replaces one bind record, affecting later placements. -/
  | bindRecordWrite (i : Nat) (rec : BitVec 128)
  /-- DSREG_WRITE (R318). A write to a die-store grant register makes, resizes or refuses a grant. -/
  | dsregWrite (ctx die : Nat) (v : Word)
  /-- CTX_BASE_WRITE (R318). A write to a context base register translates and pins the structure, or leaves the register unchanged. -/
  | ctxBaseWrite (ctx idx : Nat) (v : Word)
  /-- CTXPRIV_WRITE (R285). A level-2 write sets the context's privilege level, ignoring 3. -/
  | ctxprivWrite (ctx : Nat) (v : Word)
  /-- LAYOUT_STAGE (R315). Primrose writes the shadow layout, firewalls and interface map. -/
  | layoutStage (code : BitVec 3) (map : List (Nat × Nat))
  /-- SPAWN_TRIGGER (R324). A store to the service pair's trigger register sends its spawn buffer to an interface's spawn port. -/
  | spawnTrigger (die vif : Nat)
  /-- HEARTBEAT (R324). The leader pair writes its heartbeat to Primrose's mailbox. -/
  | heartbeat (die : Nat)
  /-- HEARTBEAT_LAPSE (R325). A leader silent for 10 ms is held in reset and a standby pair takes over. -/
  | heartbeatLapse (die : Nat)
  /-- LOCKSTEP_MISMATCH (R324). A lock-step mismatch halts the service pair at once. -/
  | lockstepMismatch (die : Nat)
  /-- BOOT (R327). Primrose verifies and measures the firmware image from ROM and starts it. -/
  | boot (image : Image)
  /-- RECOVERY_IMAGE (R327). A host-supplied image in the recovery mailbox is verified and measured. -/
  | recoveryImage (image : Image)
  /-- ATTESTATION_REQUEST (R328). A level-2 request with a nonce returns a report signed with the identity key. -/
  | attestationRequest (ctx : Nat) (nonce : BitVec 256)
  /-- SECURITY_ALARM_LOWER (R329). A lower-level sensor or protocol event is counted and reported to the host. -/
  | securityAlarmLower (source : Alarm)
  /-- SECURITY_ALARM_HIGHER (R329). A higher-level event zeroises the key store, ends all workgroups, darkens the ports and locks the device. -/
  | securityAlarmHigher (source : Alarm)
  /-- POWER_SAMPLE (R331). Every 10 µs the power manager compares the estimate with PLIM and throttles or unthrottles. -/
  | powerSample (estimate : Nat)
  /-- SUPPLY_DROOP (R331). A supply droop holds the die's issue for up to 64 cycles. -/
  | supplyDroop (die : Nat)
  /-- FREE_PUSH (R84). The ordering machine pushes a view position for a location from an instance to its parent instance, at any time. -/
  | freePush (i : Inst) (c : PathClass) (loc : Nat)
  /-- FREE_PULL (R84). The ordering machine pulls a view position for a location from a parent instance down to an instance, at any time. -/
  | freePull (i : Inst) (c : PathClass) (loc : Nat)
  /-- STORE_DURABLE (R101). A CXL type-3 device reports an earlier persistent store durable, so a waiting PERSIST may complete. -/
  | storeDurable (i : Nat)
  /-- PROVISIONING (R329). The device is provisioned or re-provisioned with a signed provisioning image, deriving the identity key and lifting the lock. -/
  | provisioning (image : Image)
  /-- PLIM_SET (R331). PLIM is set through the mailbox to a value between 1,200 W and 3,200 W. -/
  | plimSet (watts : Nat)
  /-- CONTEXT_CREATE (R285). A context is created, with ctxid assigned and ctxpriv and its registers at their reset values. -/
  | contextCreate (vif ctx : Nat)
  /-- WORKGROUP_PLACE (R292). Dispatch checks a launch and places its workgroups whole on the first admitting core, binding wired barrier tags. -/
  | workgroupPlace
  /-- GLOBAL_PERSISTENT_FLUSH (R326). On a CXL Global Persistent Flush each host port forwards every accepted posted store. -/
  | globalPersistentFlush
  /-- LAYOUT_ABORT (R315). Discards the shadow layout. -/
  | layoutAbort
  /-- LAYOUT_COMMIT (R315). Stops dispatch onto affected dies and pre-empts their workgroups, or refuses. -/
  | layoutCommit
  /-- LAYOUT_SWAP (R315). When affected dies are empty, activates the shadow tables and raises the version. -/
  | layoutSwap
  /-- QUIESCE_TIMEOUT (R315). After 10 ms in QUIESCE, returns to the old layout with an event. -/
  | quiesceTimeout
  /-- LIFETIME_RECORD_WRITE (R330). Primrose writes the lifetime records at least every 10 minutes and at shutdown. -/
  | lifetimeRecordWrite
  deriving DecidableEq, Repr, Inhabited

end Sys2Proof
end

