-- ==== Sys2Proof/Machine/Forms.lean ====
section
/-! DEFINITION. The fields of an instruction word and what each opcode does with them: spec/11_encoding.md R116 to R132 and
the encoding tables R140, R154, R166, R192, R198, R205, R211, R216, R274.  Opcodes and codes are numbers as the tables print
them. -/

namespace Sys2Proof

/-- Bits [lo+n-1:lo] of a number. -/
def fld (x lo n : Nat) : Nat := x / 2 ^ lo % 2 ^ n

/-! ## The MOD layouts (R120) -/

def FullWord.modN (w : FullWord) : Nat := w.mod.toNat
def FullWord.type (w : FullWord) : Nat := fld w.modN 13 5
def FullWord.rnd (w : FullWord) : Nat := fld w.modN 10 3
def FullWord.sat (w : FullWord) : Bool := fld w.modN 9 1 == 1
def FullWord.ftz (w : FullWord) : Bool := fld w.modN 8 1 == 1
def FullWord.sop (w : FullWord) : Nat := fld w.modN 4 4
def FullWord.ib (w : FullWord) : Bool := fld w.modN 3 1 == 1
def FullWord.ic (w : FullWord) : Bool := fld w.modN 2 1 == 1
def FullWord.xa (w : FullWord) : Nat := fld w.modN 0 2
def FullWord.scope (w : FullWord) : Nat := fld w.modN 10 3
def FullWord.ord (w : FullWord) : Nat := fld w.modN 8 2
def FullWord.xb (w : FullWord) : Nat := fld w.modN 0 8
def FullWord.m2 (w : FullWord) : Nat := fld w.modN 0 2

/-- imm32, bits [33:2] (R119). -/
def FullWord.imm32 (w : FullWord) : BitVec 32 :=
  BitVec.ofNat 32 (w.sb.toNat * 2 ^ 24 + w.sc.toNat * 2 ^ 16 + w.modN / 4)

/-- imm16, bits [33:18] (R166). -/
def FullWord.imm16 (w : FullWord) : BitVec 16 := BitVec.ofNat 16 (w.sb.toNat * 2 ^ 8 + w.sc.toNat)

/-- Element size of a TYPE or EFMT code below 0x14 (R62). -/
def esize (ty : Nat) : Nat :=
  if ty < 12 then 2 ^ (ty % 4) else if ty < 14 then 2 else if ty = 14 then 4 else if ty = 15 then 8 else 1

/-- Sub-element width in bits of a TYPE code. -/
def ewidth (ty : Nat) : Nat := 8 * esize ty

/-! ## Forms -/

inductive Layout where
  | a | b | imm18 | imm32 | imm16 | none
  deriving DecidableEq, Repr, Inhabited

/-- How an instruction reads a source field (R117): not at all; a register or latch; n consecutive registers and no latch; the
number of a p, k, d, q or c in the low bits; an address field AF (R165), buffer mode only or any mode; a plain number. -/
inductive SrcUse where
  | unused
  | reg
  | run (n : Nat)
  | name (bits : Nat)
  | af (any : Bool)
  | raw
  deriving DecidableEq, Repr, Inhabited

/-- How an instruction uses DST and NW (R118). -/
inductive DstUse where
  | unused
  | v
  /-- A v register with NW = 1 illegal. -/
  | vOnly
  /-- A v register that is read (STS). -/
  | vRead
  | name (bits : Nat)
  deriving DecidableEq, Repr, Inhabited

/-- A modifier bit: unused field, used, ignored with warns.IGN, illegal, or required. -/
inductive Bit where
  | unused | yes | ign | bad | must
  deriving DecidableEq, Repr, Inhabited

/-- RND (R132): unused field, ignored (never rounds), read, read with override 5 (narrowing FCVT). -/
inductive RndUse where
  | unused | ign | reads | readsSr
  deriving DecidableEq, Repr, Inhabited

/-- ORD (R181). -/
inductive OrdUse where
  | none | read | write | both
  deriving DecidableEq, Repr, Inhabited

/-- SCOPE (R181): never read, read when ORD ≠ 0, always read; with the widest scope it permits. -/
inductive ScopeUse where
  | never
  | withOrd (max : Nat)
  | always (max : Nat)
  deriving DecidableEq, Repr, Inhabited

/-- What one word's opcode does with its fields. -/
structure Form where
  layout : Layout := .a
  dst    : DstUse := .v
  sa     : SrcUse := .unused
  sb     : SrcUse := .unused
  sc     : SrcUse := .unused
  /-- TYPE codes accepted; none: untyped. -/
  types  : Option (List Nat) := none
  /-- Number of SOP codes accepted; none: SOP unused. -/
  sop    : Option Nat := none
  sat    : Bit := .ign
  rnd    : RndUse := .ign
  ftz    : Bool := false
  ib     : Bit := .unused
  ic     : Bit := .unused
  /-- Bits of XA, XB, M2 or MOD (imm18) that the instruction reads. -/
  mask   : Nat := 0
  ord    : OrdUse := .none
  scope  : ScopeUse := .never
  /-- A further value that its description declares illegal. -/
  bad    : Bool := false
  /-- Its result depends on signedness (R33). -/
  signed : Bool := false
  deriving DecidableEq, Repr, Inhabited

/-- I, F and the 64-bit integer codes (R154, R190). -/
def tyI : List Nat := [0, 1, 2, 3, 4, 5, 6, 7, 8, 9, 10, 11]
def tyF : List Nat := [12, 13, 14, 15]
def ty64 : List Nat := [3, 7, 11]
def tyDot : List Nat := [0, 1, 2, 4, 5, 6, 8, 9, 10]
def tyMem : List Nat := List.range 20

/-- Control register indices (R152) and those that are read-only. -/
def cregs : List Nat :=
  [0, 1, 2, 3, 4, 5, 6, 0x10, 0x11, 0x12, 0x20, 0x21, 0x22, 0x23, 0x24, 0x25, 0x30, 0x31, 0x32, 0x33, 0x34]
def cregsRO : List Nat := [0, 1, 2, 3, 4, 5, 0x25, 0x31, 0x33, 0x34]

/-- System register indices (R286, R317, R318). -/
def isSreg (i : Nat) : Bool :=
  i < 3 || (0x100 ≤ i && i < 0x120) || (0x200 ≤ i && i < 0x20C) || (0x300 ≤ i && i < 0x311)

/-- Form of a 64-bit integer instruction (R154). -/
def formInt (sb sc : SrcUse) (sat ib ic : Bit) (mask : Nat) (sop : Option Nat) (bad signed : Bool) : Form :=
  { sa := .reg, sb := sb, sc := sc, types := some ty64, sat := sat, ib := ib, ic := ic, mask := mask, sop := sop,
    bad := bad, signed := signed }

/-- Form of a packed instruction (R192). -/
def formPk (types : Option (List Nat)) (sb sc : SrcUse) (sat ib ic : Bit) (mask : Nat) (signed : Bool) : Form :=
  { sa := .reg, sb := sb, sc := sc, types := types, sat := sat, ib := ib, ic := ic, mask := mask, signed := signed }

/-- Form of a floating instruction (R198). -/
def formF (sb sc : SrcUse) (rnd : RndUse) (ftz : Bool) : Form :=
  { sa := .reg, sb := sb, sc := sc, types := some tyF, rnd := rnd, ftz := ftz, ib := .bad, ic := .bad }

/-- SC of a cross-lane word: kN in the member form (R211). -/
def memberSc (w : FullWord) : SrcUse := if w.xa % 2 = 1 then .name 3 else .unused

/-- The type code 0x12 or 0x13 acts as 0x10 or 0x11 (R39, R198). -/
def plainType (t : Nat) : Nat := if t = 18 ∨ t = 19 then t - 2 else t

/-- Source code of FCVT (R198): the codes f16, bf16, f32, f64, e4m3, e5m2. -/
def fcvtSrc (w : FullWord) : Nat := w.sop + 12

/-- Source code of ICVT (R198). -/
def icvtSrc (w : FullWord) : Nat := w.sop + 4

/-- The part of FCVT and ICVT (R198). -/
def cvtPart (w : FullWord) : Nat := if w.ib then w.sb.toNat else 0

/-- Number of parts between two types (R204). -/
def cvtParts (s d : Nat) : Nat := if ewidth s ≥ ewidth d then ewidth s / ewidth d else ewidth d / ewidth s

/-- FCVT narrows or converts between equal widths (R198, R204). -/
def fcvtNarrow (w : FullWord) : Bool := ewidth (plainType w.type) ≤ ewidth (fcvtSrc w)

/-- The form of each opcode (R122, R123); none for an opcode that is not allocated. PATH counts as used also where PN = 0 (R120, log 98). -/
def form (op : Nat) (w : FullWord) : Option Form :=
  match op with
  | 0x00 | 0x07 | 0x08 | 0x09 => some { layout := .none, dst := .unused }
  | 0xF2 => some { layout := .none, dst := .unused, bad := w.h }
  | 0x01 | 0x05 => some { layout := .imm32, dst := .unused }
  | 0x02 => some { layout := .imm32, dst := .name 3, mask := 1 }
  | 0x03 | 0x06 => some { layout := .imm32, dst := .unused, sa := .reg }
  | 0x04 => some { layout := .imm18, dst := .unused, mask := 0xFFFF }
  | 0x0A => some { dst := .unused, sa := .name 3, sat := .unused, rnd := .unused }
  | 0x0B => some { dst := .name 3, sa := if w.sop = 5 then .reg else .unused,
                   sb := if w.sop = 0 ∨ w.sop = 5 then .unused else .name 3, sop := some 6, sat := .unused, rnd := .unused }
  | 0x0C => some { sa := .name 3, sat := .unused, rnd := .unused }
  | 0x10 => some { dst := .name 3, sa := .reg, sb := .reg, types := some ty64, sop := some 6, ib := .yes, mask := 3,
                   signed := 2 ≤ w.sop }
  | 0x11 => some { dst := .name 3, sa := .name 3, sb := .name 3, sop := some 7, sat := .unused, rnd := .unused }
  | 0x12 => some { dst := if w.xa = 1 then .v else if w.xa = 2 then .unused else .name 3,
                   sa := if w.xa = 0 then .name 3 else if w.xa = 1 then .unused else .reg,
                   mask := 3, sat := .unused, rnd := .unused }
  | 0x13 => some { layout := .imm18, mask := 0xFFF, bad := !cregs.contains (fld w.modN 0 12) }
  | 0x14 => some { layout := .imm18, dst := .unused, sa := .reg, mask := 0xFFF,
                   bad := !cregs.contains (fld w.modN 0 12) || cregsRO.contains (fld w.modN 0 12) }
  | 0x15 | 0x16 => some { layout := .imm18, dst := .unused, sa := .reg, mask := 0xFFF,
                          bad := !cregs.contains (fld w.modN 0 12) || cregsRO.contains (fld w.modN 0 12) ||
                            (fld w.modN 0 12 == 6) }
  | 0x20 => some (formInt .unused .unused .ign .unused .unused 0 none false false)
  | 0x21 => some { layout := .imm32, mask := 3, bad := w.m2 == 3 }
  | 0x22 | 0x24 | 0x26 => some (formInt .reg .unused .yes .yes .unused 0 none false w.sat)
  | 0x23 | 0x25 => some (formInt .reg (.name 3) .unused .yes .unused 0 none false false)
  | 0x27 | 0x2A => some (formInt .reg .unused .unused .yes .unused 0 none false true)
  | 0x28 => some (formInt .reg .reg .yes .yes .yes 0 none false w.sat)
  | 0x29 => some (formInt .reg .unused .yes .yes .unused 0 none false true)
  | 0x2B => some (formInt .reg .unused .unused .yes .unused 0 (some 2) false true)
  | 0x2C => some (formInt .unused .unused .yes .unused .unused 0 (some 2) false (w.sop == 0 || w.sat))
  | 0x2D | 0x2E | 0x2F | 0x30 | 0x32 | 0x33 | 0x34 | 0x35 =>
      some (formInt .reg .unused .ign .yes .unused 0 none false false)
  | 0x31 => some (formInt .unused .unused .ign .unused .unused 0 none false false)
  | 0x36 => some (formInt .reg .reg .ign .unused .yes 3 none (2 ≤ w.xa) false)
  | 0x37 => some (formInt .unused .unused .ign .unused .unused 0 (some 4) false false)
  | 0x38 => some (formInt .reg .reg .ign .yes .yes 0 none false true)
  | 0x39 => some (formInt .reg .reg .ign .bad .yes 0 none false false)
  | 0x3A => some (formInt .reg (.name 3) .ign .yes .unused 1 none false false)
  | 0x3B => some { formInt .unused .unused .ign .unused .unused 0 (some 2) false false with types := some tyDot }
  | 0x3C => some (formInt .reg .reg .ign .yes .yes 3 none false false)
  | 0x40 | 0x41 | 0x42 => some (formPk (some tyI) .reg .unused .yes .yes .unused 0 w.sat)
  | 0x43 => some (formPk (some tyI) .reg .unused .unused .yes .unused 0 true)
  | 0x44 => some (formPk (some tyI) .reg .reg .yes .yes .yes 0 w.sat)
  | 0x45 => some (formPk (some tyDot) .reg .reg .yes .yes .unused 1 true)
  | 0x46 | 0x47 => some (formPk (some tyI) .reg .unused .ign .yes .unused 0 true)
  | 0x48 => some (formPk (some tyI) .unused .unused .yes .unused .unused 0 true)
  | 0x49 => some (formPk (some tyI) .reg .unused .ign .yes .unused 1 true)
  | 0x4A => some (formPk (some tyDot) .reg .reg .yes .yes .unused 0 true)
  | 0x4B => some (formPk (some tyI) .reg .unused .yes .yes .unused 0 w.sat)
  | 0x4C | 0x4D => some (formPk (some tyI) .reg .unused .ign .yes .unused 0 false)
  | 0x4E => some { formPk (some tyI) .reg .unused .ign .yes .unused 0 (2 ≤ w.sop) with sop := some 6 }
  | 0x4F => some (formPk none .reg .reg .ign .unused .unused 0 false)
  | 0x50 => some (formPk (some [1, 2, 3, 5, 6, 7, 9, 10, 11]) .reg .unused .yes .unused .unused 1 w.sat)
  | 0x51 => some (formPk (some tyDot) .unused .unused .ign .unused .unused 1 true)
  | 0x52 => some (formPk (some [0, 1, 2]) .reg .reg .ign .unused .unused 0 false)
  | 0x53 => some { formPk none .reg .reg .ign .unused .unused 3 false with bad := w.xa == 3 }
  | 0x54 => some (formPk (some [0, 1, 2]) .raw .unused .ign .must .unused 0 false)
  | 0x60 | 0x61 | 0x62 => some (formF .reg .unused .reads true)
  | 0x63 => some (formF .reg .reg .reads true)
  | 0x64 | 0x65 => some (formF .reg .unused .ign true)
  | 0x66 | 0x67 | 0x69 => some (formF .unused .unused .ign false)
  | 0x68 => some { formF .reg .unused .ign false with dst := if w.xa = 0 then .v else .name 3, sop := some 8, mask := 3 }
  | 0x6A => some { formF .unused .unused .reads false with mask := 1 }
  | 0x6B =>
      some { dst := .v, sa := .reg, sb := if w.ib then .raw else .unused,
             sc := if w.rnd = 5 then .reg else .unused,
             types := some [12, 13, 14, 15, 16, 17, 18, 19], sop := some 6, sat := if fcvtNarrow w then .yes else .ign,
             rnd := if fcvtNarrow w then .readsSr else .ign, ftz := true, ib := .yes, ic := .bad,
             bad := plainType w.type == fcvtSrc w || cvtParts (fcvtSrc w) (plainType w.type) ≤ cvtPart w }
  | 0x6C =>
      some { dst := .v, sa := .reg, sb := if w.ib then .raw else .unused, types := some tyMem, sop := some 12,
             sat := if 12 ≤ icvtSrc w ∨ ewidth (icvtSrc w) < ewidth (plainType w.type) then .ign else .yes, rnd := .reads, ib := .yes, ic := .bad,
             bad := decide (12 ≤ icvtSrc w ↔ 12 ≤ w.type) || cvtParts (icvtSrc w) (plainType w.type) ≤ cvtPart w,
             signed := true }
  | 0x6D => some { formF .reg .unused .reads false with ib := .yes }
  | 0x80 | 0x81 => some (formF .unused .unused .ign false)
  | 0x82 => some (formF .unused .unused .reads false)
  | 0x83 | 0x84 | 0x85 | 0x86 | 0x87 => some { formF .unused .unused .ign false with types := some [12, 13, 14] }
  | 0x90 => some { sa := .reg, sb := .reg, sc := memberSc w, types := some (tyI ++ tyF), ib := .bad, mask := 1 }
  | 0x91 => some { sa := .reg, sb := .raw, sc := memberSc w, sop := some 4, ib := .must, mask := 1,
                   bad := 6 ≤ w.sb.toNat / 32 }
  | 0x92 => some { dst := if w.sop < 3 then .name 3 else .v, sa := .name 3, sc := memberSc w, sop := some 6, mask := 1 }
  | 0x93 | 0x94 =>
      some { sa := .reg, sc := memberSc w, types := some (tyI ++ tyF), sop := some 6,
             sat := if w.sop = 0 ∧ w.type < 12 then .yes else .ign, rnd := if 12 ≤ w.type then .reads else .ign,
             mask := if op = 0x94 then 3 else 1, bad := decide (3 ≤ w.sop ∧ 12 ≤ w.type),
             signed := w.sop == 1 || w.sop == 2 || (w.sop == 0 && w.sat) }
  | 0x95 => some { sa := .reg, sb := .reg, sc := memberSc w, ib := .yes, mask := 1 }
  | 0x96 => some { sa := .reg, sc := memberSc w, types := some (tyI ++ tyF), mask := 1 }
  | 0x97 => some { dst := .name 3, sa := if w.sop = 1 then .name 3 else .unused, sc := memberSc w, sop := some 2, mask := 1 }
  | 0xA0 => some { layout := .b, dst := .name 4, sa := .reg, sc := .af false, ord := .read, scope := .withOrd 6 }
  | 0xA1 => some { layout := .b, dst := .name 4, sa := .reg, sb := .name 4, mask := 0xF, bad := 12 ≤ w.xb % 16 }
  | 0xA2 => some { layout := .b, sa := .reg, sc := .af false, types := some tyMem, ord := .read, scope := .withOrd 6 }
  | 0xA3 => some { layout := .b, dst := .unused, sa := .reg, sb := .reg, sc := .af false, types := some tyMem, mask := 0xF0,
                   ord := .write, scope := .withOrd 6 }
  | 0xA4 => some { layout := .imm16, sa := .reg, types := some tyMem, mask := 3, ord := .read, scope := .withOrd 6,
                   bad := w.xb % 4 == 0 }
  | 0xA5 => some { layout := .imm16, dst := .vRead, sa := .reg, types := some tyMem, mask := 3, ord := .write,
                   scope := .withOrd 6, bad := w.xb % 4 == 0 }
  | 0xA6 => some { layout := .imm16, sa := .reg, types := some tyMem }
  | 0xA7 => some { layout := .b, dst := .name 5, sa := .run 4 }
  | 0xA8 => some { layout := .b, sa := .reg, sb := .reg, sc := .af true, types := some [2, 3, 6, 7, 10, 11, 18, 19],
                   mask := 0xFF, ord := .both, scope := .withOrd 6,
                   bad := 10 ≤ w.xb % 16 || decide (18 ≤ w.type ∧ (w.xb % 16 ≠ 0 ∨ 64 ≤ w.sc.toNat)),
                   signed := w.xb % 16 == 6 || w.xb % 16 == 7 }
  | 0xA9 => some { layout := .b, dst := .vOnly, sa := .reg, sb := .reg, sc := .af true,
                   types := some [2, 3, 6, 7, 10, 11, 18, 19], mask := 0xF0, ord := .both, scope := .withOrd 6,
                   bad := decide (18 ≤ w.type ∧ 64 ≤ w.sc.toNat) }
  | 0xAA => some { layout := .b, sa := .reg, sb := .reg, sc := .af true, types := some tyF, mask := 0xFF, ord := .both,
                   scope := .withOrd 6, bad := 3 ≤ w.xb % 16 }
  | 0xC0 => some { layout := .b, dst := .unused, scope := .always 6 }
  | 0xC1 => some { layout := .b, dst := .unused, mask := 0xF8, scope := .always 6, bad := w.xb / 8 == 0 }
  | 0xC2 => some { layout := .b }
  | 0xC3 => some { layout := .b, dst := .unused, mask := 7, scope := .always 6 }
  | 0xC4 => some { layout := .b, dst := .unused, sa := .reg, sb := .reg, sc := .reg, mask := 0xFF }
  | 0xC5 => some { layout := .b, dst := .unused, sa := .reg, mask := 0xFF }
  | 0xC6 => some { layout := .b, dst := .unused, sa := .reg, sb := .reg, mask := 0xFF }
  | 0xC7 => some { layout := .b, dst := .name 3, sa := .reg, sb := .reg, sc := .reg, mask := 0xFF }
  | 0xC8 => some { layout := .b, dst := .name 3, sa := .reg, sb := .reg, mask := 0xFF }
  | 0xC9 => some { layout := .b, dst := .name 3, sa := .name 5, sb := .reg, sc := .reg, mask := 0xF8, scope := .always 5 }
  | 0xCA => some { layout := .b, dst := .name 3, sa := .reg, sb := .reg, sc := .reg, types := some [2, 3, 6, 7, 10, 11],
                   mask := 0xF, ord := .read, scope := .withOrd 5, bad := w.xb % 4 == 0, signed := 8 ≤ w.xb % 16 }
  | 0xD0 => some { layout := .b, dst := .unused, sa := .run 8 }
  | 0xD1 => some { layout := .b, dst := .unused, sa := .run 1, sb := .reg, mask := 3,
                   bad := w.xb % 4 == 0 || w.xb % 4 == 3 }
  | 0xD2 => some { layout := .b, dst := .name 6, sa := .name 4, sb := if w.xb % 8 = 2 then .reg else .name 4, sc := .reg,
                   mask := if w.xb % 8 = 2 ∨ w.xb % 8 = 5 then 0x1F else 7 }
  | 0xD3 => some { layout := .b, dst := .name 3, sa := .name 6, sb := .reg, sc := .reg, mask := 0x3F }
  | 0xD4 => some { layout := .b, dst := .name 6 }
  | 0xD5 => some { layout := .b, sa := .name 6 }
  | 0xE0 => some { layout := .b, mask := 1, scope := if w.xb % 2 = 1 then .never else .always 5,
                   bad := decide (w.xb % 2 = 0 ∧ (w.scope = 0 ∨ w.scope = 3 ∨ w.scope = 4)) }
  | 0xE1 => some { layout := .b, dst := .unused, sa := .reg, sb := .run 8, sc := .af false, mask := 0xF0, ord := .write,
                   scope := .withOrd 6, bad := w.ord % 2 == 1 }
  | 0xE2 => some { layout := .b, dst := .unused, sa := .reg, sb := .reg, sc := .reg }
  | 0xE3 => some { layout := .b, dst := .vOnly, sa := .run 1 }
  | 0xE4 => some { layout := .b, dst := .unused, bad := w.h }
  | 0xE5 => some { layout := .b, dst := .unused, sa := .reg }
  | 0xF0 | 0xF1 => some { layout := .imm18, dst := .unused, mask := 0x3FFFF }
  | 0xF3 => some { layout := .b, sa := .reg, sb := .reg, mask := 0x3F }
  | 0xF4 => some { layout := .imm18, mask := 0xFFF, bad := !isSreg (fld w.modN 0 12) }
  | 0xF5 => some { layout := .imm18, dst := .unused, sa := .reg, mask := 0xFFF, bad := !isSreg (fld w.modN 0 12) }
  | 0xF6 => some { layout := .b, dst := .unused, sa := .reg, sb := .reg, sc := .reg, mask := 0x1F, bad := w.xb / 2 % 4 == 3 }
  | _ => none

/-! ## Check 2 of R124 -/

/-- A source field holds a legal register or latch (R117); SHARE apart. -/
def srcOk (f : BitVec 8) : Bool := f.toNat < 132

/-- SHARE (R117). -/
def share : BitVec 8 := 0x84#8

/-- The field is illegal under its use (R117, R139, R165). -/
def SrcUse.bad (u : SrcUse) (f : BitVec 8) : Bool :=
  match u with
  | .reg => !srcOk f
  | .run _ => 128 ≤ f.toNat
  | .name _ => 128 ≤ f.toNat
  | .af any => !any && 64 ≤ f.toNat
  | .unused | .raw => false

/-- A source that IB or IC turns into an imm8 is no register field (R119). -/
def immUse (b : Bit) (set : Bool) (u : SrcUse) : SrcUse :=
  match b with
  | .yes | .must => if set then (match u with | .unused => .unused | _ => .raw) else u
  | .unused | .ign | .bad => u

def Bit.illegal (b : Bit) (set : Bool) : Bool :=
  match b with
  | .bad => set
  | .must => !set
  | .unused | .yes | .ign => false

/-- SB and SC as the word uses them. -/
def Form.useB (f : Form) (w : FullWord) : SrcUse :=
  match f.layout with
  | .a => immUse f.ib w.ib f.sb
  | .imm32 | .imm16 => .raw
  | .b | .imm18 | .none => f.sb

def Form.useC (f : Form) (w : FullWord) : SrcUse :=
  match f.layout with
  | .a => immUse f.ic w.ic f.sc
  | .imm32 | .imm16 => .raw
  | .b | .imm18 | .none => f.sc

/-- Check 2 of R124 fails. -/
def Form.illegal (f : Form) (w : FullWord) : Bool :=
  f.bad || f.sa.bad w.sa || (f.useB w).bad w.sb || (f.useC w).bad w.sc ||
  (match f.types with | some l => !l.contains w.type | none => false) ||
  (match f.dst with | .vOnly => w.nw | .unused | .v | .vRead | .name _ => false) ||
  (match f.layout with
   | .a => (match f.sop with | some n => n ≤ w.sop | none => false) || f.ib.illegal w.ib || f.ic.illegal w.ic
   | .b | .imm16 => w.scope == 7
   | .imm18 | .imm32 | .none => false)

/-! ## Check 4 of R124 -/

/-- The v registers a source field names. -/
def SrcUse.regs (u : SrcUse) (f : BitVec 8) : List Nat :=
  match u with
  | .reg => if f.toNat < 128 then [f.toNat] else []
  | .run n => (List.range n).map (fun j => f.toNat % 128 + j)
  | .unused | .name _ | .af _ | .raw => []

/-- The v registers the word names (R118, R124). -/
def Form.regs (f : Form) (w : FullWord) : List Nat :=
  (match f.dst with
   | .v => if w.nw then [] else [w.dst.toNat]
   | .vOnly | .vRead => [w.dst.toNat]
   | .unused | .name _ => []) ++ f.sa.regs w.sa ++ (f.useB w).regs w.sb ++ (f.useC w).regs w.sc

/-! ## Fallbacks that depend on the word alone (R132) -/

/-- Bits of warns (R133). -/
def wBOUND : Nat := 1
def wDIVZ : Nat := 2
def wFIELD : Nat := 4
def wIGN : Nat := 8
def wSUBST : Nat := 16
def wSCOPE : Nat := 32
def wUNIF : Nat := 64

/-- A nonzero unused bit of a source field (R132, R139, R164). -/
def SrcUse.stray (u : SrcUse) (f : BitVec 8) : Bool :=
  match u with
  | .unused => f != 0#8
  | .name n => 2 ^ n ≤ f.toNat % 128
  | .af _ => f.toNat / 64 == 0 && f.toNat / 16 != 0
  | .reg | .run _ | .raw => false

def DstUse.stray (u : DstUse) (w : FullWord) : Bool :=
  match u with
  | .unused => w.nw || w.dst != 0#7
  | .v => w.nw && w.dst != 0#7
  | .vOnly => false
  | .vRead => w.nw
  | .name n => w.nw || decide (2 ^ n ≤ w.dst.toNat)

/-- Bits of a number outside a mask. -/
def strayBits (x mask : Nat) : Bool := Nat.land x mask != x

/-- A nonzero unused field (FIELD). -/
def Form.stray (f : Form) (w : FullWord) : Bool :=
  f.dst.stray w || f.sa.stray w.sa || (f.useB w).stray w.sb || (f.useC w).stray w.sc ||
  (match f.layout with
   | .a => (f.types.isNone && w.type != 0) || (f.sop.isNone && w.sop != 0) || strayBits w.xa f.mask ||
           (f.sat == .unused && w.sat) || (f.ib == .unused && w.ib) || (f.ic == .unused && w.ic) ||
           (f.rnd == .unused && w.rnd != 0)
   | .b | .imm16 => (f.types.isNone && w.type != 0) || strayBits w.xb f.mask
   | .imm18 => strayBits w.modN f.mask
   | .imm32 => strayBits w.m2 f.mask
   | .none => w.modN != 0)

/-- FTZ is honoured (R40). -/
def ftzOk (op : Nat) (w : FullWord) : Bool :=
  [12, 13, 14].contains (plainType w.type) || (op == 0x6B && [12, 13, 14].contains (fcvtSrc w))

/-- ORD after its fallback (R132, R181). -/
def Form.ordEff (f : Form) (w : FullWord) : Nat :=
  match f.ord with
  | .none => 0
  | .read => w.ord % 2
  | .write => w.ord / 2 * 2
  | .both => w.ord

/-- The classes that CLS names, as bits 0 thread to 4 host (R120). -/
def clsOf (w : FullWord) : Nat :=
  fld w.xb 7 1 + 2 * fld w.xb 6 1 + 4 * fld w.xb 5 1 + 8 * fld w.xb 4 1 + 16 * fld w.xb 3 1

/-- The narrowest scope at which every named class has an instance (R89). -/
def clsFloor (cls : Nat) : Nat :=
  if 16 ≤ cls then 5 else if 8 ≤ cls then 4 else if 2 ≤ cls then 3 else 0

/-- SCOPE after its fallbacks: ignored, clamped (R181) or raised (R89, FENCEX and WSEQ). -/
def Form.scopeEff (op : Nat) (f : Form) (w : FullWord) : Nat :=
  let clamp (m : Nat) : Nat := if w.scope ≤ m then w.scope else m
  match f.scope with
  | .never => 0
  | .withOrd m => if f.ordEff w = 0 then 0 else clamp m
  | .always m =>
      if op = 0xC1 ∨ op = 0xC9 then Nat.max (clamp m) (clsFloor (clsOf w)) else clamp m

def Form.readsScope (f : Form) (w : FullWord) : Bool :=
  match f.scope with
  | .never => false
  | .withOrd _ => f.ordEff w != 0
  | .always _ => true

/-- A .bN type acts as .nN (R33, R132). -/
def Form.bSubst (f : Form) (w : FullWord) : Bool :=
  f.signed && f.types.isSome && w.type < 4

/-- TYPE after its fallback. -/
def Form.typeEff (f : Form) (w : FullWord) : Nat := if f.bSubst w then w.type + 8 else w.type

/-- SAT after its fallback. -/
def Form.satEff (f : Form) (w : FullWord) : Bool := w.sat && f.sat == .yes

/-- FTZ after its fallback. -/
def Form.ftzEff (op : Nat) (f : Form) (w : FullWord) : Bool := w.ftz && f.ftz && ftzOk op w

/-- RND after its fallback: the override of R43. -/
def Form.rndEff (f : Form) (w : FullWord) : Nat :=
  match f.rnd with
  | .unused | .ign => 0
  | .reads => if w.rnd = 5 then 1 else if 6 ≤ w.rnd then 0 else w.rnd
  | .readsSr => if 6 ≤ w.rnd then 0 else w.rnd

/-- warns bits of the fallbacks that depend on the word alone. NOP sets none (R122). -/
def Form.warns (op : Nat) (f : Form) (w : FullWord) : Nat :=
  if op = 0 then 0
  else
    let field := if f.stray w then wFIELD else 0
    let a : Nat :=
      match f.layout with
      | .a =>
          let ign := (f.sat == .ign && w.sat) || (w.ftz && !f.ftzEff op w) || (f.rnd == .ign && w.rnd != 0) ||
                     (op == 0x50 && !w.sat && w.xa % 2 == 1)
          let subst := (f.rnd == .reads && 5 ≤ w.rnd) || (f.rnd == .readsSr && 6 ≤ w.rnd)
          Nat.lor (if ign then wIGN else 0) (if subst then wSUBST else 0)
      | .b | .imm16 =>
          let ign := (w.ord != f.ordEff w) || (!f.readsScope w && w.scope != 0) ||
                     ((op == 0xA8 || op == 0xA9 || op == 0xAA) && 64 ≤ w.xb)
          let sc := f.readsScope w && op != 0xC3 && w.scope != f.scopeEff op w
          Nat.lor (if ign then wIGN else 0) (if sc then wSCOPE else 0)
      | .imm18 | .imm32 | .none => 0
    Nat.lor (Nat.lor field a) (if f.bSubst w then wSUBST else 0)

/-! ## Pair halves (R126 to R130) -/

/-- Classes of halves (R127). -/
inductive HalfCls where
  | nop | a | m | l | v | s | p | x
  deriving DecidableEq, Repr, Inhabited

/-- What a half's third field is. -/
inductive HalfSrc where
  | none | reg | imm | count | pred
  deriving DecidableEq, Repr, Inhabited

/-- A half-opcode (R127): class, source, reads DF counted, writes v, writes p, the bits of HMOD it uses, and the full-format
instruction it performs as: opcode and the MOD field that names its type and form. -/
structure HalfForm where
  cls    : HalfCls
  src    : HalfSrc
  readD  : Bool := false
  writeV : Bool := true
  writeP : Bool := false
  hmod   : Nat := 0
  op     : Nat
  mod    : Nat := 0xE000
  deriving DecidableEq, Repr, Inhabited

/-- MOD of layout A with TYPE t and SOP s. -/
def modA (t s : Nat) : Nat := t * 8192 + s * 16

/-- The half-opcode table (R127); none: reserved. -/
def halfForm (hop : Nat) : Option HalfForm :=
  match hop with
  | 0x00 => some { cls := .nop, src := .none, writeV := false, op := 0, mod := 0 }
  | 0x01 => some { cls := .v, src := .reg, op := 0x20, mod := modA 3 0 }
  | 0x02 => some { cls := .v, src := .imm, hmod := 0x7F, op := 0x21, mod := 0 }
  | 0x04 => some { cls := .a, src := .reg, op := 0x22, mod := modA 7 0 }
  | 0x05 => some { cls := .a, src := .imm, hmod := 0x7F, op := 0x22, mod := modA 7 0 }
  | 0x06 => some { cls := .a, src := .reg, op := 0x24, mod := modA 7 0 }
  | 0x07 => some { cls := .a, src := .imm, hmod := 0x7F, op := 0x24, mod := modA 7 0 }
  | 0x08 => some { cls := .a, src := .reg, op := 0x2B, mod := modA 7 0 }
  | 0x09 => some { cls := .a, src := .reg, op := 0x2B, mod := modA 7 1 }
  | 0x0A => some { cls := .a, src := .reg, op := 0x2B, mod := modA 11 0 }
  | 0x0B => some { cls := .a, src := .reg, op := 0x2B, mod := modA 11 1 }
  | 0x0C => some { cls := .a, src := .reg, op := 0x2C, mod := modA 7 0 }
  | 0x0D => some { cls := .a, src := .reg, op := 0x2C, mod := modA 7 1 }
  | 0x0E => some { cls := .m, src := .reg, op := 0x26, mod := modA 7 0 }
  | 0x10 => some { cls := .l, src := .reg, op := 0x2D, mod := modA 3 0 }
  | 0x11 => some { cls := .l, src := .imm, hmod := 0x7F, op := 0x2D, mod := modA 3 0 }
  | 0x12 => some { cls := .l, src := .reg, op := 0x2E, mod := modA 3 0 }
  | 0x13 => some { cls := .l, src := .imm, hmod := 0x7F, op := 0x2E, mod := modA 3 0 }
  | 0x14 => some { cls := .l, src := .reg, op := 0x2F, mod := modA 3 0 }
  | 0x15 => some { cls := .l, src := .imm, hmod := 0x7F, op := 0x2F, mod := modA 3 0 }
  | 0x16 => some { cls := .l, src := .reg, op := 0x30, mod := modA 3 0 }
  | 0x17 => some { cls := .l, src := .reg, op := 0x31, mod := modA 3 0 }
  | 0x18 => some { cls := .l, src := .reg, op := 0x32, mod := modA 3 0 }
  | 0x19 => some { cls := .l, src := .count, hmod := 0x3F, op := 0x32, mod := modA 3 0 }
  | 0x1A => some { cls := .l, src := .reg, op := 0x33, mod := modA 11 0 }
  | 0x1B => some { cls := .l, src := .count, hmod := 0x3F, op := 0x33, mod := modA 11 0 }
  | 0x1C => some { cls := .l, src := .reg, op := 0x34, mod := modA 7 0 }
  | 0x1D => some { cls := .l, src := .count, hmod := 0x3F, op := 0x34, mod := modA 7 0 }
  | 0x1E => some { cls := .l, src := .reg, op := 0x35, mod := modA 3 0 }
  | 0x1F => some { cls := .l, src := .count, hmod := 0x3F, op := 0x35, mod := modA 3 0 }
  | 0x20 => some { cls := .l, src := .reg, op := 0x37, mod := modA 3 0 }
  | 0x21 => some { cls := .l, src := .reg, op := 0x37, mod := modA 3 1 }
  | 0x22 => some { cls := .l, src := .reg, op := 0x37, mod := modA 3 2 }
  | 0x28 => some { cls := .s, src := .reg, hmod := 0xF, op := 0x3A, mod := modA 3 0 }
  | 0x30 => some { cls := .p, src := .reg, readD := true, writeV := false, writeP := true, hmod := 7, op := 0x10, mod := modA 3 0 }
  | 0x31 => some { cls := .p, src := .reg, readD := true, writeV := false, writeP := true, hmod := 7, op := 0x10, mod := modA 3 1 }
  | 0x32 => some { cls := .p, src := .reg, readD := true, writeV := false, writeP := true, hmod := 7, op := 0x10, mod := modA 7 2 }
  | 0x33 => some { cls := .p, src := .reg, readD := true, writeV := false, writeP := true, hmod := 7, op := 0x10, mod := modA 7 3 }
  | 0x34 => some { cls := .p, src := .reg, readD := true, writeV := false, writeP := true, hmod := 7, op := 0x10, mod := modA 7 4 }
  | 0x35 => some { cls := .p, src := .reg, readD := true, writeV := false, writeP := true, hmod := 7, op := 0x10, mod := modA 7 5 }
  | 0x36 => some { cls := .p, src := .reg, readD := true, writeV := false, writeP := true, hmod := 7, op := 0x10, mod := modA 11 2 }
  | 0x37 => some { cls := .p, src := .reg, readD := true, writeV := false, writeP := true, hmod := 7, op := 0x10, mod := modA 11 3 }
  | 0x38 => some { cls := .p, src := .reg, readD := true, writeV := false, writeP := true, hmod := 7, op := 0x10, mod := modA 11 4 }
  | 0x39 => some { cls := .p, src := .reg, readD := true, writeV := false, writeP := true, hmod := 7, op := 0x10, mod := modA 11 5 }
  | 0x3C => some { cls := .p, src := .pred, writeV := false, writeP := true, hmod := 3, op := 0x11, mod := 0 }
  | 0x3D => some { cls := .p, src := .pred, writeV := false, writeP := true, op := 0x12, mod := 0 }
  | 0x40 => some { cls := .x, src := .reg, hmod := 0x7F, op := 0xA4, mod := modA 3 0 + 1 }
  | 0x41 => some { cls := .x, src := .reg, hmod := 0x7F, op := 0xA4, mod := modA 3 0 + 2 }
  | 0x42 => some { cls := .x, src := .reg, hmod := 0x7F, op := 0xA4, mod := modA 3 0 + 3 }
  | 0x44 => some { cls := .x, src := .reg, hmod := 0x7F, op := 0xA4, mod := modA 10 0 + 1 }
  | 0x45 => some { cls := .x, src := .reg, hmod := 0x7F, op := 0xA4, mod := modA 10 0 + 2 }
  | 0x46 => some { cls := .x, src := .reg, hmod := 0x7F, op := 0xA4, mod := modA 10 0 + 3 }
  | 0x48 => some { cls := .x, src := .reg, readD := true, writeV := false, hmod := 0x7F, op := 0xA5, mod := modA 3 0 + 1 }
  | 0x49 => some { cls := .x, src := .reg, readD := true, writeV := false, hmod := 0x7F, op := 0xA5, mod := modA 3 0 + 2 }
  | 0x4A => some { cls := .x, src := .reg, readD := true, writeV := false, hmod := 0x7F, op := 0xA5, mod := modA 3 0 + 3 }
  | 0x4C => some { cls := .x, src := .reg, readD := true, writeV := false, hmod := 0x7F, op := 0xA5, mod := modA 2 0 + 1 }
  | 0x4D => some { cls := .x, src := .reg, readD := true, writeV := false, hmod := 0x7F, op := 0xA5, mod := modA 2 0 + 2 }
  | 0x4E => some { cls := .x, src := .reg, readD := true, writeV := false, hmod := 0x7F, op := 0xA5, mod := modA 2 0 + 3 }
  | _ => none

/-- HMOD as a signed 7-bit immediate, extended to 8 bits, and as an unsigned 6-bit count (R127). -/
def imm7 (h : Half) : BitVec 8 := h.hmod.signExtend 8
def count6 (h : Half) : BitVec 8 := BitVec.ofNat 8 (h.hmod.toNat % 64)

/-- The full-format word that a half performs as (R128), with src standing for its SRC operand. -/
def HalfForm.word (f : HalfForm) (h : Half) (src : BitVec 8) : FullWord :=
  let df : BitVec 8 := h.df.zeroExtend 8
  let base : FullWord :=
    { h := false, gp := h.gp.zeroExtend 3, gi := false, nw := false, dst := h.df, sa := df, sb := src, sc := 0#8,
      mod := BitVec.ofNat 18 f.mod }
  match f.op with
  | 0 => { base with dst := 0#7, sa := 0#8, sb := 0#8 }
  | 0x20 | 0x2C | 0x31 | 0x37 => { base with sa := src, sb := 0#8 }
  | 0x21 =>
      let v : BitVec 32 := h.hmod.signExtend 32
      { base with sa := 0#8, sb := BitVec.ofNat 8 (v.toNat / 2 ^ 24), sc := BitVec.ofNat 8 (v.toNat / 2 ^ 16),
                  mod := BitVec.ofNat 18 (v.toNat * 4) }
  | 0x3A => { base with sc := BitVec.ofNat 8 (h.hmod.toNat % 8), mod := BitVec.ofNat 18 (f.mod + h.hmod.toNat / 8 % 2) }
  | 0x10 => { base with dst := BitVec.ofNat 7 (h.hmod.toNat % 8) }
  | 0x11 =>
      { base with dst := BitVec.ofNat 7 (h.df.toNat % 8), sa := BitVec.ofNat 8 (h.df.toNat % 8),
                  sb := BitVec.ofNat 8 (h.src.toNat % 8), mod := BitVec.ofNat 18 (h.hmod.toNat % 4 * 16) }
  | 0x12 =>
      { base with dst := BitVec.ofNat 7 (h.df.toNat % 8), sa := BitVec.ofNat 8 (h.src.toNat % 8), sb := 0#8 }
  | 0xA4 | 0xA5 =>
      let off := h.hmod.toNat * (if f.mod / 8192 = 3 then 8 else 4)
      { base with sa := src, sb := BitVec.ofNat 8 (off / 256), sc := BitVec.ofNat 8 (off % 256) }
  | _ =>
      match f.src with
      | .imm => { base with sb := imm7 h, mod := BitVec.ofNat 18 (f.mod + 8) }
      | .count => { base with sb := count6 h, mod := BitVec.ofNat 18 (f.mod + 8) }
      | .none | .reg | .pred => base

/-- The SRC operand of each half, with SHARE resolved (R126). -/
def PairWord.srcA (w : PairWord) : BitVec 8 := w.a.src
def PairWord.srcB (w : PairWord) : BitVec 8 := if w.b.src = share then w.a.src else w.b.src

/-- Check 2 of a half: an illegal source field (R117). SHARE is left to check 3 in half B. -/
def HalfForm.badSrc (f : HalfForm) (h : Half) (isB : Bool) : Bool :=
  match f.src with
  | .reg => !(srcOk h.src) && !(isB && h.src == share)
  | .pred => 128 ≤ h.src.toNat
  | .none | .imm | .count => false

/-- A nonzero unused bit of a half (R127). -/
def HalfForm.stray (f : HalfForm) (h : Half) : Bool :=
  strayBits h.hmod.toNat f.hmod ||
  (match f.src with
   | .none => h.df != 0#7 || h.src != 0#8
   | .imm | .count => h.src != 0#8
   | .pred => 8 ≤ h.src.toNat || 8 ≤ h.df.toNat
   | .reg => false)

/-- Predicate and v register a half writes (R129). -/
def HalfForm.predOf (f : HalfForm) (h : Half) : Option Nat :=
  if f.writeP then some (if f.op = 0x10 then h.hmod.toNat % 8 else h.df.toNat % 8) else none

/-- Counted reads of a half (R129 rule 5). -/
def HalfForm.counted (f : HalfForm) (h : Half) : List Nat :=
  (if f.src = .reg ∧ h.src.toNat < 128 then [h.src.toNat] else []) ++ (if f.readD then [h.df.toNat] else [])

/-- Two numbers modulo 4 are equal somewhere in the list: two reads in one bank. -/
def sameBank : List Nat → Bool
  | [] => false
  | x :: l => l.any (fun y => x % 4 == y % 4) || sameBank l

/-- R129 and R130: the pair word breaks a rule (check 3). -/
def pairBroken (fa fb : HalfForm) (w : PairWord) : Bool :=
  (fa.cls == .x && fb.cls == .x) || (fa.cls == .m && fb.cls == .m) ||
  (fa.writeV && fb.writeV && w.a.df.toNat % 4 == w.b.df.toNat % 4) ||
  (fa.writeP && fb.writeP && fa.predOf w.a == fb.predOf w.b) ||
  (let reads := fa.counted w.a ++ fb.counted w.b
   decide (3 < reads.length) || sameBank reads) ||
  (fb.src == .reg && w.b.src == share && fa.src != .reg)

/-- v registers a half names (R124 check 4). -/
def HalfForm.regs (f : HalfForm) (h : Half) : List Nat :=
  (if f.writeV || f.readD then [h.df.toNat] else []) ++
  (if f.src = .reg ∧ h.src.toNat < 128 then [h.src.toNat] else [])

/-! ## The word of an instruction -/

/-- The opcode and the word of a full-format instruction (R123). -/
def Instr.word : Instr → Option (Nat × FullWord)
  | .nop w => some (0x00, w)
  | .bra w => some (0x01, w)
  | .brc w => some (0x02, w)
  | .brx w => some (0x03, w)
  | .lpad w => some (0x04, w)
  | .call w => some (0x05, w)
  | .callx w => some (0x06, w)
  | .ret w => some (0x07, w)
  | .exit w => some (0x08, w)
  | .yield w => some (0x09, w)
  | .join w => some (0x0A, w)
  | .kopSet w => some (0x0B, w)
  | .kopOr w => some (0x0B, w)
  | .kopAnd w => some (0x0B, w)
  | .kopAndn w => some (0x0B, w)
  | .kopCopy w => some (0x0B, w)
  | .kopLoad w => some (0x0B, w)
  | .krd w => some (0x0C, w)
  | .cmp w => some (0x10, w)
  | .plop w => some (0x11, w)
  | .pmov w => some (0x12, w)
  | .pmovSave w => some (0x12, w)
  | .pmovLoad w => some (0x12, w)
  | .pmovNz w => some (0x12, w)
  | .csrd w => some (0x13, w)
  | .rstackPop w => some (0x13, w)
  | .cswr w => some (0x14, w)
  | .rstackPush w => some (0x14, w)
  | .csor w => some (0x15, w)
  | .csandn w => some (0x16, w)
  | .mov w => some (0x20, w)
  | .movi w => some (0x21, w)
  | .add w => some (0x22, w)
  | .addc w => some (0x23, w)
  | .sub w => some (0x24, w)
  | .subb w => some (0x25, w)
  | .mul w => some (0x26, w)
  | .mulh w => some (0x27, w)
  | .mad w => some (0x28, w)
  | .div w => some (0x29, w)
  | .rem w => some (0x2A, w)
  | .min w => some (0x2B, w)
  | .max w => some (0x2B, w)
  | .abs w => some (0x2C, w)
  | .neg w => some (0x2C, w)
  | .and w => some (0x2D, w)
  | .or w => some (0x2E, w)
  | .xor w => some (0x2F, w)
  | .andn w => some (0x30, w)
  | .not w => some (0x31, w)
  | .shl w => some (0x32, w)
  | .shr w => some (0x33, w)
  | .sar w => some (0x34, w)
  | .rot w => some (0x35, w)
  | .fshf w => some (0x36, w)
  | .popc w => some (0x37, w)
  | .clz w => some (0x37, w)
  | .ctz w => some (0x37, w)
  | .brev w => some (0x37, w)
  | .bfe w => some (0x38, w)
  | .bfi w => some (0x39, w)
  | .sel w => some (0x3A, w)
  | .sext w => some (0x3B, w)
  | .zext w => some (0x3B, w)
  | .addr w => some (0x3C, w)
  | .vadd w => some (0x40, w)
  | .vsub w => some (0x41, w)
  | .vmul w => some (0x42, w)
  | .vmulh w => some (0x43, w)
  | .vmad w => some (0x44, w)
  | .vdot w => some (0x45, w)
  | .vmin w => some (0x46, w)
  | .vmax w => some (0x47, w)
  | .vabs w => some (0x48, w)
  | .vavg w => some (0x49, w)
  | .vsad w => some (0x4A, w)
  | .vshl w => some (0x4B, w)
  | .vshr w => some (0x4C, w)
  | .vsar w => some (0x4D, w)
  | .vcmp w => some (0x4E, w)
  | .vsel w => some (0x4F, w)
  | .vpack w => some (0x50, w)
  | .vunpk w => some (0x51, w)
  | .vperm w => some (0x52, w)
  | .vtbl w => some (0x53, w)
  | .vswz w => some (0x54, w)
  | .fadd w => some (0x60, w)
  | .fsub w => some (0x61, w)
  | .fmul w => some (0x62, w)
  | .fma w => some (0x63, w)
  | .fmin w => some (0x64, w)
  | .fmax w => some (0x65, w)
  | .fabs w => some (0x66, w)
  | .fneg w => some (0x67, w)
  | .fcmp w => some (0x68, w)
  | .fcls w => some (0x69, w)
  | .frnd w => some (0x6A, w)
  | .fcvt w => some (0x6B, w)
  | .icvt w => some (0x6C, w)
  | .fscl w => some (0x6D, w)
  | .rcp w => some (0x80, w)
  | .rsq w => some (0x81, w)
  | .sqrt w => some (0x82, w)
  | .exp2 w => some (0x83, w)
  | .log2 w => some (0x84, w)
  | .sinp w => some (0x85, w)
  | .cosp w => some (0x86, w)
  | .tanh w => some (0x87, w)
  | .shf w => some (0x90, w)
  | .shfi w => some (0x91, w)
  | .vote w => some (0x92, w)
  | .red w => some (0x93, w)
  | .scan w => some (0x94, w)
  | .bcast w => some (0x95, w)
  | .matchLanes w => some (0x96, w)
  | .elect w => some (0x97, w)
  | .dld w => some (0xA0, w)
  | .dmod w => some (0xA1, w)
  | .ldb w => some (0xA2, w)
  | .stb w => some (0xA3, w)
  | .lds w => some (0xA4, w)
  | .sts w => some (0xA5, w)
  | .ldc w => some (0xA6, w)
  | .tmov w => some (0xA7, w)
  | .atom w => some (0xA8, w)
  | .cas w => some (0xA9, w)
  | .atomf w => some (0xAA, w)
  | .fence w => some (0xC0, w)
  | .fencex w => some (0xC1, w)
  | .persist w => some (0xC2, w)
  | .barw w => some (0xC3, w)
  | .binit w => some (0xC4, w)
  | .barv w => some (0xC5, w)
  | .bexp w => some (0xC6, w)
  | .bwait w => some (0xC7, w)
  | .btry w => some (0xC8, w)
  | .wseq w => some (0xC9, w)
  | .wmem w => some (0xCA, w)
  | .menq w => some (0xD0, w)
  | .mtail w => some (0xD1, w)
  | .claim w => some (0xD2, w)
  | .flow w => some (0xD3, w)
  | .clrel w => some (0xD4, w)
  | .clqry w => some (0xD5, w)
  | .rfence w => some (0xE0, w)
  | .rfenceQ w => some (0xE0, w)
  | .pull w => some (0xE1, w)
  | .uint w => some (0xE2, w)
  | .uiwait w => some (0xE3, w)
  | .uiret w => some (0xE4, w)
  | .uiclr w => some (0xE5, w)
  | .trap w => some (0xF0, w)
  | .bkpt w => some (0xF1, w)
  | .tret w => some (0xF2, w)
  | .launch w => some (0xF3, w)
  | .sysrd w => some (0xF4, w)
  | .syswr w => some (0xF5, w)
  | .tlbi w => some (0xF6, w)
  | .stbWindow w => some (0xA3, w)
  | .pair _ => none
  | .joinRelease _ _ _ | .memberFormPerform _ _ _ | .tmovComplete _ _ | .wiredBarrierComplete _ | .bwaitWake _ _ _
  | .wseqWake _ _ _ | .wmemRecheck _ _ _ | .waitTimeout _ _ _ | .taskStart _ | .mma _ | .mzero _ | .mload _ | .mdrain _
  | .mwait _ | .taskComplete _ | .dahliaReset _ | .claimWalk _ _ | .claimHandshake _ | .handshakeResponse _ _ _ _
  | .handshakeTimeout _ _ | .flowStart _ _ | .flowComplete _ _ | .flowSevered _ _ | .pullServe _ | .uintArrive _ _ _ _ _
  | .uiDeliver _ | .dltailWrite _ _ | .faultAnswerRetry _ _ | .faultAnswerAbort _ _ | .parkClear _ _ _ | .eccCorrected _
  | .eccUncorrectable _ | .hbmPoison _ | .postedStoreRefused _ | .workgroupPlace | .pendingAdmit _
  | .loadBalanceExchange _ | .workgroupRetire _ | .workgroupRelaunch _ | .preemptRequest _ _ | .preemptSave _
  | .workgroupResume _ | .contextTeardown _ _ | .slotPreamble _ _ | .flitReceive _ _ | .nakReplay _ _ | .packetVerify _
  | .reflectDeliver _ | .orderedFlagDeliver _ | .ackReceive _ _ _ _ _ | .resendTimeout _ | .lossOfLight _ _
  | .lostClear _ _ | .portPark _ | .portWake _ | .wakeComplete _ | .wakeTimeout _ _ | .calendarLoad _ _ _
  | .rxWindowValidate _ _ | .rxWindowClear _ | .spawnRecord _ _ | .joinCounterIncrement _ | .interruptRecord _ _
  | .hostMemAccess _ _ _ | .globalPersistentFlush | .bindRecordWrite _ _ | .dsregWrite _ _ _ | .ctxBaseWrite _ _ _
  | .ctxprivWrite _ _ | .layoutStage _ _ | .layoutAbort | .layoutCommit | .layoutSwap | .quiesceTimeout
  | .spawnTrigger _ _ | .heartbeat _ | .heartbeatLapse _ | .lockstepMismatch _ | .boot _ | .recoveryImage _
  | .attestationRequest _ _ | .securityAlarmLower _ | .securityAlarmHigher _ | .lifetimeRecordWrite | .powerSample _
  | .supplyDroop _ | .freePush _ _ _ | .freePull _ _ _ | .storeDurable _ | .provisioning _ | .plimSet _
  | .contextCreate _ _ => none

/-- The selector fields of the word (R121, R146, R150, R152, R277) name this instruction and no other of its opcode. -/
def Instr.selects : Instr → Bool
  | .kopSet w => decide (w.sop = 0)
  | .kopOr w => decide (w.sop = 1)
  | .kopAnd w => decide (w.sop = 2)
  | .kopAndn w => decide (w.sop = 3)
  | .kopCopy w => decide (w.sop = 4)
  | .kopLoad w => decide (w.sop = 5)
  | .pmov w => decide (w.xa = 0)
  | .pmovSave w => decide (w.xa = 1)
  | .pmovLoad w => decide (w.xa = 2)
  | .pmovNz w => decide (w.xa = 3)
  | .csrd w => decide (fld w.modN 0 12 ≠ 6)
  | .rstackPop w => decide (fld w.modN 0 12 = 6)
  | .cswr w => decide (fld w.modN 0 12 ≠ 6)
  | .rstackPush w => decide (fld w.modN 0 12 = 6)
  | .min w => decide (w.sop = 0)
  | .max w => decide (w.sop = 1)
  | .abs w => decide (w.sop = 0)
  | .neg w => decide (w.sop = 1)
  | .popc w => decide (w.sop = 0)
  | .clz w => decide (w.sop = 1)
  | .ctz w => decide (w.sop = 2)
  | .brev w => decide (w.sop = 3)
  | .sext w => decide (w.sop = 0)
  | .zext w => decide (w.sop = 1)
  | .rfence w => decide (w.xb % 2 = 0)
  | .rfenceQ w => decide (w.xb % 2 = 1)
  | _ => true

/-- The word passes checks 1 and 2 of R124. -/
def fullLegal (op : Nat) (w : FullWord) : Bool :=
  match form op w with
  | some f => !f.illegal w
  | none => false

/-- The pair word passes checks 1 to 3 of R124. -/
def pairLegal (w : PairWord) : Bool :=
  match halfForm w.a.hop.toNat, halfForm w.b.hop.toNat with
  | some fa, some fb => !fa.badSrc w.a false && !fb.badSrc w.b true && !pairBroken fa fb w
  | _, _ => false

end Sys2Proof
end

