-- ==== Sys2Proof/WellFormed.lean ====
section
/-! DEFINITION. Which instructions the encoding admits: checks 1 to 3 of spec/11_encoding.md R124, and the bounds of the
numbers that the steps without a word carry. -/

namespace Sys2Proof

/-- Mask, lane, vector, port, cluster and die numbers of a step lie in the ranges of spec/00_scope.md R1. -/
def Instr.inRange : Instr → Bool
  | .joinRelease _ _ k => decide (k < 8)
  | .taskStart c | .mma c | .mzero c | .mload c | .mdrain c | .mwait c | .taskComplete c | .dahliaReset c
  | .pendingAdmit c | .loadBalanceExchange c => decide (c < 48)
  | .pullServe d | .spawnTrigger d _ | .heartbeat d | .heartbeatLapse d | .lockstepMismatch d | .supplyDroop d =>
      decide (d < 4)
  | .slotPreamble p _ | .flitReceive p _ | .lossOfLight p _ | .lostClear p _ | .portPark p | .portWake p
  | .wakeComplete p | .wakeTimeout p _ => decide (p < 16)
  | .bindRecordWrite i _ => decide (i < 256)
  | .rxWindowValidate w _ | .rxWindowClear w => decide (w < 4096)
  | .dltailWrite v _ | .spawnRecord v _ | .interruptRecord v _ | .hostMemAccess v _ _ => decide (v < 64)
  | .contextCreate v c => decide (v < 64 ∧ c < 1024)
  | .dsregWrite _ d _ => decide (d < 4)
  | .ctxBaseWrite _ i _ => [0x305, 0x309, 0x30C, 0x30D, 0x30E].contains i
  | .plimSet w => decide (1200 ≤ w ∧ w ≤ 3200)
  | _ => true

/-- The encoding admits the instruction. STB through a transmit window is a form of STB (R123), which the decoder gives as
stb: stbWindow is no word of its own. -/
def Instr.wellFormed (i : Instr) : Bool :=
  match i with
  | .pair w => pairLegal w
  | .stbWindow _ => false
  | i =>
    match i.word with
    | some (op, w) => fullLegal op w && i.selects
    | none => i.inRange

end Sys2Proof
end

