-- ==== Sys2Proof/Decode.lean ====
section
/-! DEFINITION. Reading an instruction word and writing one: spec/11_encoding.md R116 to R130.  Decoding is total on any
bytes and rejects by the number of the failing check of R124. -/

namespace Sys2Proof

/-- The check of R124 that a word fails. -/
inductive Reject where
  | opcode | fields | pairing
  deriving DecidableEq, Repr, Inhabited

/-- tinfo of the ILLEGAL_INSN trap (spec/13_isa_control.md R163). -/
def Reject.number : Reject → Nat
  | .opcode => 1
  | .fields => 2
  | .pairing => 3

/-- The fields of a full-format word below OP, from the low end up (R116). -/
def unpackFull (h : Bool) (n : Nat) : FullWord :=
  let n1 := n / 262144
  let n2 := n1 / 256
  let n3 := n2 / 256
  let n4 := n3 / 256
  let n5 := n4 / 128
  let n6 := n5 / 2
  let n7 := n6 / 2
  { h := h, gp := BitVec.ofNat 3 n7, gi := n6 % 2 == 1, nw := n5 % 2 == 1, dst := BitVec.ofNat 7 n4, sa := BitVec.ofNat 8 n3,
    sb := BitVec.ofNat 8 n2, sc := BitVec.ofNat 8 n1, mod := BitVec.ofNat 18 n }

/-- The fields of a half (R126). -/
def unpackHalf (n : Nat) : Half :=
  let n1 := n / 128
  let n2 := n1 / 256
  let n3 := n2 / 128
  let n4 := n3 / 4
  { hop := BitVec.ofNat 7 n4, gp := BitVec.ofNat 2 n3, df := BitVec.ofNat 7 n2, src := BitVec.ofNat 8 n1,
    hmod := BitVec.ofNat 7 n }

/-- The instruction of an opcode (R121, R123). -/
def opInstr (op : Nat) (w : FullWord) : Instr :=
  match op with
  | 0x00 => .nop w
  | 0x01 => .bra w
  | 0x02 => .brc w
  | 0x03 => .brx w
  | 0x04 => .lpad w
  | 0x05 => .call w
  | 0x06 => .callx w
  | 0x07 => .ret w
  | 0x08 => .exit w
  | 0x09 => .yield w
  | 0x0A => .join w
  | 0x0B => if w.sop = 0 then .kopSet w else if w.sop = 1 then .kopOr w else if w.sop = 2 then .kopAnd w else if w.sop = 3 then .kopAndn w else if w.sop = 4 then .kopCopy w else .kopLoad w
  | 0x0C => .krd w
  | 0x10 => .cmp w
  | 0x11 => .plop w
  | 0x12 => if w.xa = 0 then .pmov w else if w.xa = 1 then .pmovSave w else if w.xa = 2 then .pmovLoad w else .pmovNz w
  | 0x13 => if fld w.modN 0 12 ≠ 6 then .csrd w else .rstackPop w
  | 0x14 => if fld w.modN 0 12 ≠ 6 then .cswr w else .rstackPush w
  | 0x15 => .csor w
  | 0x16 => .csandn w
  | 0x20 => .mov w
  | 0x21 => .movi w
  | 0x22 => .add w
  | 0x23 => .addc w
  | 0x24 => .sub w
  | 0x25 => .subb w
  | 0x26 => .mul w
  | 0x27 => .mulh w
  | 0x28 => .mad w
  | 0x29 => .div w
  | 0x2A => .rem w
  | 0x2B => if w.sop = 0 then .min w else .max w
  | 0x2C => if w.sop = 0 then .abs w else .neg w
  | 0x2D => .and w
  | 0x2E => .or w
  | 0x2F => .xor w
  | 0x30 => .andn w
  | 0x31 => .not w
  | 0x32 => .shl w
  | 0x33 => .shr w
  | 0x34 => .sar w
  | 0x35 => .rot w
  | 0x36 => .fshf w
  | 0x37 => if w.sop = 0 then .popc w else if w.sop = 1 then .clz w else if w.sop = 2 then .ctz w else .brev w
  | 0x38 => .bfe w
  | 0x39 => .bfi w
  | 0x3A => .sel w
  | 0x3B => if w.sop = 0 then .sext w else .zext w
  | 0x3C => .addr w
  | 0x40 => .vadd w
  | 0x41 => .vsub w
  | 0x42 => .vmul w
  | 0x43 => .vmulh w
  | 0x44 => .vmad w
  | 0x45 => .vdot w
  | 0x46 => .vmin w
  | 0x47 => .vmax w
  | 0x48 => .vabs w
  | 0x49 => .vavg w
  | 0x4A => .vsad w
  | 0x4B => .vshl w
  | 0x4C => .vshr w
  | 0x4D => .vsar w
  | 0x4E => .vcmp w
  | 0x4F => .vsel w
  | 0x50 => .vpack w
  | 0x51 => .vunpk w
  | 0x52 => .vperm w
  | 0x53 => .vtbl w
  | 0x54 => .vswz w
  | 0x60 => .fadd w
  | 0x61 => .fsub w
  | 0x62 => .fmul w
  | 0x63 => .fma w
  | 0x64 => .fmin w
  | 0x65 => .fmax w
  | 0x66 => .fabs w
  | 0x67 => .fneg w
  | 0x68 => .fcmp w
  | 0x69 => .fcls w
  | 0x6A => .frnd w
  | 0x6B => .fcvt w
  | 0x6C => .icvt w
  | 0x6D => .fscl w
  | 0x80 => .rcp w
  | 0x81 => .rsq w
  | 0x82 => .sqrt w
  | 0x83 => .exp2 w
  | 0x84 => .log2 w
  | 0x85 => .sinp w
  | 0x86 => .cosp w
  | 0x87 => .tanh w
  | 0x90 => .shf w
  | 0x91 => .shfi w
  | 0x92 => .vote w
  | 0x93 => .red w
  | 0x94 => .scan w
  | 0x95 => .bcast w
  | 0x96 => .matchLanes w
  | 0x97 => .elect w
  | 0xA0 => .dld w
  | 0xA1 => .dmod w
  | 0xA2 => .ldb w
  | 0xA3 => .stb w
  | 0xA4 => .lds w
  | 0xA5 => .sts w
  | 0xA6 => .ldc w
  | 0xA7 => .tmov w
  | 0xA8 => .atom w
  | 0xA9 => .cas w
  | 0xAA => .atomf w
  | 0xC0 => .fence w
  | 0xC1 => .fencex w
  | 0xC2 => .persist w
  | 0xC3 => .barw w
  | 0xC4 => .binit w
  | 0xC5 => .barv w
  | 0xC6 => .bexp w
  | 0xC7 => .bwait w
  | 0xC8 => .btry w
  | 0xC9 => .wseq w
  | 0xCA => .wmem w
  | 0xD0 => .menq w
  | 0xD1 => .mtail w
  | 0xD2 => .claim w
  | 0xD3 => .flow w
  | 0xD4 => .clrel w
  | 0xD5 => .clqry w
  | 0xE0 => if w.xb % 2 = 0 then .rfence w else .rfenceQ w
  | 0xE1 => .pull w
  | 0xE2 => .uint w
  | 0xE3 => .uiwait w
  | 0xE4 => .uiret w
  | 0xE5 => .uiclr w
  | 0xF0 => .trap w
  | 0xF1 => .bkpt w
  | 0xF2 => .tret w
  | 0xF3 => .launch w
  | 0xF4 => .sysrd w
  | 0xF5 => .syswr w
  | 0xF6 => .tlbi w
  | _ => .nop w

/-- A full-format word (R116): checks 1 and 2. -/
def decodeFull (op : Nat) (w : FullWord) : Except Reject Instr :=
  match form op w with
  | none => .error .opcode
  | some f => if f.illegal w then .error .fields else .ok (opInstr op w)

/-- A pair word (R125): checks 1 to 3. -/
def decodePair (w : PairWord) : Except Reject Instr :=
  match halfForm w.a.hop.toNat, halfForm w.b.hop.toNat with
  | some fa, some fb =>
      if fa.badSrc w.a false || fb.badSrc w.b true then .error .fields
      else if pairBroken fa fb w then .error .pairing
      else .ok (.pair w)
  | _, _ => .error .opcode

/-- A 64-bit word as a number. -/
def decodeNat (n : Nat) : Except Reject Instr :=
  let h := n / 2 ^ 62 % 2 == 1
  if n / 2 ^ 63 % 2 = 1 then decodePair { h := h, a := unpackHalf (n / 2 ^ 31), b := unpackHalf n }
  else decodeFull (n / 2 ^ 54 % 256) (unpackFull h n)

/-- A word. -/
def decode (x : Word) : Except Reject Instr := decodeNat x.toNat

/-- A little-endian number (spec/00_scope.md R4). -/
def leNat : List Byte → Nat
  | [] => 0
  | b :: l => b.toNat + 256 * leNat l

/-- The n low bytes of a number, lowest first (R4). -/
def leBytes : Nat → Nat → List Byte
  | 0, _ => []
  | n + 1, x => BitVec.ofNat 8 x :: leBytes n (x / 256)

/-- The instruction that eight bytes of memory hold. -/
def decodeBytes (l : List Byte) : Except Reject Instr := decodeNat (leNat (l.take 8))

/-- The instruction whose low nbits bits are w, every bit above them 0. -/
def decodeTableWord (nbits w : Nat) : Option Instr :=
  match decodeBytes (leBytes 8 (w % 2 ^ nbits)) with
  | .ok i => some i
  | .error _ => none

/-! ## Writing a word -/

/-- A bit as a number. -/
def bitN (b : Bool) : Nat := if b then 1 else 0

/-- A full-format word (R116). -/
def packFull (op : Nat) (w : FullWord) : Nat :=
  ((((((((bitN w.h * 256 + op) * 8 + w.gp.toNat) * 2 + bitN w.gi) * 2 + bitN w.nw) * 128 + w.dst.toNat) * 256
    + w.sa.toNat) * 256 + w.sb.toNat) * 256 + w.sc.toNat) * 262144 + w.mod.toNat

/-- A half (R126). -/
def packHalf (h : Half) : Nat :=
  (((h.hop.toNat * 4 + h.gp.toNat) * 128 + h.df.toNat) * 256 + h.src.toNat) * 128 + h.hmod.toNat

/-- The word of an instruction; a step without a word has none and gives 0. -/
def encodeNat (i : Instr) : Nat :=
  match i with
  | .pair w => ((2 + bitN w.h) * 2 ^ 31 + packHalf w.a) * 2 ^ 31 + packHalf w.b
  | i =>
    match i.word with
    | some (op, w) => packFull op w
    | none => 0

/-- The word of an instruction. -/
def encode (i : Instr) : Word := BitVec.ofNat 64 (encodeNat i)

/-- The instruction has a word. -/
def Instr.hasWord (i : Instr) : Bool :=
  match i with
  | .pair _ => true
  | i => i.word.isSome

end Sys2Proof
end

