-- ==== Sys2Proof/Machine/Crypto.lean ====
section
/-! DEFINITION. AES-256-GCM, which protects the packets of the fabric (spec/23_fabric.md R260, by reference to the standard: FIPS 197
and SP 800-38D). -/

namespace Sys2Proof.Machine

/-! ## AES-256 -/

/-- Twice a byte in GF(2^8). -/
def aesDouble (a : Nat) : Nat := if a < 128 then 2 * a else Nat.xor (2 * a - 256) 0x1B

/-- Product in GF(2^8): n bits of the second factor, lowest first. -/
def aesMul : Nat → Nat → Nat → Nat
  | 0, _, _ => 0
  | n + 1, a, b => Nat.xor (if b % 2 = 1 then a else 0) (aesMul n (aesDouble a) (b / 2))

/-- a to the power 2^(n+1) − 2: the inverse when n is 7. -/
def aesInv : Nat → Nat → Nat
  | 0, _ => 1
  | n + 1, a => let s := aesMul 8 a a; aesMul 8 s (aesInv n s)

/-- The S-box. -/
def aesSub (a : Nat) : Nat :=
  let b := if a = 0 then 0 else aesInv 7 a
  let rot := fun (k : Nat) => (b * 2 ^ k) % 256 + b * 2 ^ k / 256
  Nat.xor b (Nat.xor (rot 1) (Nat.xor (rot 2) (Nat.xor (rot 3) (Nat.xor (rot 4) 0x63))))

/-- Bytes added. -/
def xorBytes (a b : List Nat) : List Nat := List.zipWith Nat.xor a b

/-- The words of the key schedule, the last one first: n more, from word number i on. -/
def aesWords : Nat → Nat → Nat → List (List Nat) → List (List Nat)
  | 0, _, _, ws => ws
  | n + 1, i, rc, ws =>
    let t := ws.headD []
    let u := if i % 8 = 0 then xorBytes ((t.drop 1 ++ t.take 1).map aesSub) [rc, 0, 0, 0] else if i % 8 = 4 then t.map aesSub else t
    aesWords n (i + 1) (if i % 8 = 0 then aesDouble rc else rc) (xorBytes (ws.getD 7 []) u :: ws)

/-- The fifteen round keys of a 32-byte key. -/
def aesKeys (key : List Nat) : List (List Nat) :=
  let w := (aesWords 52 8 1 ((List.range 8).map (fun i => (key.drop (28 - 4 * i)).take 4))).reverse
  (List.range 15).map (fun r => ((w.drop (4 * r)).take 4).flatten)

/-- ShiftRows on a block in column order. -/
def aesShift (b : List Nat) : List Nat := (List.range 16).map (fun i => b.getD ((i + 4 * (i % 4)) % 16) 0)

/-- MixColumns. -/
def aesMix (b : List Nat) : List Nat :=
  (List.range 16).map (fun i =>
    let at' := fun (k : Nat) => b.getD (i / 4 * 4 + (i + k) % 4) 0
    Nat.xor (aesDouble (at' 0)) (Nat.xor (Nat.xor (aesDouble (at' 1)) (at' 1)) (Nat.xor (at' 2) (at' 3))))

/-- The rounds over their keys, the last one without MixColumns. -/
def aesRounds : List (List Nat) → List Nat → List Nat
  | [], b => b
  | [k], b => xorBytes (aesShift (b.map aesSub)) k
  | k :: ks, b => aesRounds ks (xorBytes (aesMix (aesShift (b.map aesSub))) k)

/-- AES-256 of a block. -/
def aes256 (key block : List Nat) : List Nat :=
  match aesKeys key with
  | [] => block
  | k :: ks => aesRounds ks (xorBytes block k)

/-! ## GCM -/

/-- n bytes of a number, the highest first. -/
def beBytes (n x : Nat) : List Nat := (List.range n).map (fun i => x / 2 ^ (8 * (n - 1 - i)) % 256)

/-- The number of bytes whose highest comes first. -/
def beNat (l : List Nat) : Nat := l.foldl (fun a b => a * 256 + b) 0

/-- Product in GF(2^128), the first bit of a block being its highest: n bits of x, the highest first. -/
def ghashMul : Nat → Nat → Nat → Nat → Nat
  | 0, _, _, z => z
  | n + 1, x, v, z =>
    ghashMul n x (if v % 2 = 1 then Nat.xor (v / 2) (0xE1 * 2 ^ 120) else v / 2) (if x.testBit n then Nat.xor z v else z)

/-- Bytes in blocks of 16, the last filled up with zeros: n blocks at most. -/
def gcmBlocks : Nat → List Nat → List Nat
  | 0, _ => []
  | _ + 1, [] => []
  | n + 1, l => beNat ((l ++ List.replicate 16 0).take 16) :: gcmBlocks n (l.drop 16)

/-- GHASH of blocks under a hash key. -/
def ghash (h : Nat) (bs : List Nat) : Nat := bs.foldl (fun y b => ghashMul 128 (Nat.xor y b) h 0) 0

/-- The counter mode: n blocks from a counter value on. -/
def gcmCtr (key iv : List Nat) (ctr : Nat) : Nat → List Nat → List Nat
  | 0, _ => []
  | _ + 1, [] => []
  | n + 1, l => xorBytes (l.take 16) (aes256 key (iv ++ beBytes 4 ctr)) ++ gcmCtr key iv (ctr + 1) n (l.drop 16)

/-- The tag of authenticated bytes and encrypted bytes. -/
def gcmTag (key iv aad c : List Nat) : List Nat :=
  let h := beNat (aes256 key (List.replicate 16 0))
  let s := ghash h (gcmBlocks (aad.length + 1) aad ++ gcmBlocks (c.length + 1) c ++ [aad.length * 8 * 2 ^ 64 + c.length * 8])
  xorBytes (beBytes 16 s) (aes256 key (iv ++ [0, 0, 0, 1]))

/-- The bytes of a key and of an IV in order (log 24). -/
def keyBytes (key : BitVec 256) : List Nat := beBytes 32 key.toNat
def ivBytes (iv : BitVec 96) : List Nat := beBytes 12 iv.toNat

/-- Bytes encrypted or decrypted in counter mode. -/
def gcmCrypt (key : BitVec 256) (iv : BitVec 96) (data : List Byte) : List Byte :=
  (gcmCtr (keyBytes key) (ivBytes iv) 2 (data.length + 1) (data.map BitVec.toNat)).map (BitVec.ofNat 8)

/-- The tag of a packet. -/
def gcmSign (key : BitVec 256) (iv : BitVec 96) (aad c : List Byte) : List Byte :=
  (gcmTag (keyBytes key) (ivBytes iv) (aad.map BitVec.toNat) (c.map BitVec.toNat)).map (BitVec.ofNat 8)

/-- Sealing: the encrypted data and the tag. -/
def gcmSeal (key : BitVec 256) (iv : BitVec 96) (aad data : List Byte) : List Byte × List Byte :=
  let c := gcmCrypt key iv data
  (c, gcmSign key iv aad c)

/-- Opening: the clear data when the tag verifies. -/
def gcmOpen (key : BitVec 256) (iv : BitVec 96) (aad c tag : List Byte) : Option (List Byte) :=
  if gcmSign key iv aad c = tag then some (gcmCrypt key iv c) else none

end Sys2Proof.Machine
end

