-- ==== Sys2Proof/Config.lean ====
section
/-! DEFINITION. What an implementation fixes and the manual leaves open: constants without a body, so that nothing can be
proved about their values (notes/assumptions). -/

namespace Sys2Proof.Config

/-- The result that this part delivers for a special function inside the bound of R207 (spec/17_isa_vector.md): operation
number 0 to 7 (R205), type code (R62), operand pattern. FREE VALUE (log 20). -/
opaque special : Nat → Nat → Word → Word

/-- Cycles that pass in one step beyond the first; spec/00_scope.md R4 counts cycles, the model leaves timing out (log 21). -/
opaque extraCycles : Nat → Nat

/-- The token of a fault report (spec/27_control.md R299): which number names a parked split is not stated. FREE VALUE (log 25). -/
opaque reportToken : Nat → BitVec 32

/-- The identifier of a launch (spec/25_isa_fabric_system.md R284): how it is assigned is not stated. FREE VALUE (log 25). -/
opaque launchId : Nat → BitVec 32

/-- A byte of the save area after a save (spec/27_control.md R301): its layout is not stated. FREE VALUE (log 26). -/
opaque saveByte : Nat → Nat → BitVec 8

/-- The die whose HBM or die store holds a device physical frame (spec/29_system.md R314): the placing of frames on dies is
not stated. FREE VALUE (log 22). -/
opaque frameDie : Nat → Nat

/-- The size of the sender's access that fills a STORE packet's data at a byte (spec/23_fabric.md R258, spec/07_ordering.md R92): the
packet does not carry it. By the packet's number and the byte's offset in its window. FREE VALUE (log 88). -/
opaque storeAccess : Nat → Nat → Nat

/-- The static port, as a number below the count of static ports, that the hash of SCTX and PATH picks
(spec/23_fabric.md R272): the hash is not stated. FREE VALUE (log 23). -/
opaque staticHash : BitVec 32 → BitVec 2 → Nat

/-- SHAKE256 of a byte string, 64 bytes (spec/29_system.md R327). FREE VALUE (log 24). -/
opaque shake256 : List Byte → BitVec 512

/-- SLH-DSA-SHAKE-256s verification against the fused key (R327, R329). FREE VALUE (log 24). -/
opaque slhVerify : List Byte → List Byte → Bool

/-- SLH-DSA-SHAKE-256s signature by the identity key (R328). FREE VALUE (log 24). -/
opaque slhSign : List Byte → List Byte

end Sys2Proof.Config
end

