-- ==== Sys2Proof/Machine/State.lean ====
section
/-! DEFINITION. The state of the BXP-4860: everything the spec gives the machine, as plain data (INVENTORY.md, '## State'),
with the machine right after package reset.  Sparse tables (Tab) hold the default of their type at every key not listed. -/

namespace Sys2Proof.Machine

/-! ## Memory and ordering (spec/05_memory.md, spec/07_ordering.md) -/

/-- The views V(inst, cls) of one scope instance and path class: a position of CO(x) for each location x (R83). -/
structure ViewRow where
  inst : Inst
  cls  : PathClass
  pos  : Tab Nat
  deriving DecidableEq, Repr, Inhabited

/-- What one byte of an access reaches: a location; nothing (a discarded page read, a member without a region); host physical
memory; a byte of a transmit window. -/
inductive Byt where
  | loc (x : Nat)
  | zero
  | host (a : Nat)
  | win (e : BitVec 256) (off : Nat)
  deriving DecidableEq, Repr, Inhabited

/-- A lane that can perform: its address and bytes. -/
structure LanePlan where
  lane  : Nat
  addr  : Nat
  bytes : List Byt
  deriving DecidableEq, Repr, Inhabited

/-- One cached translation of a 4 KiB virtual page (R71, R288): both stages' results. -/
structure TlbRow where
  vif   : Nat
  ctx   : Nat
  vpage : Nat
  gpage : Nat
  frame : Nat
  /-- Permissions of the guest and of the host stage: read, write, fetch. -/
  rd    : Bool
  wr    : Bool
  ex    : Bool
  hrd   : Bool
  hwr   : Bool
  hex   : Bool
  /-- Page bits of the guest and the host leaf (R69), and the guest physical pages of the guest-stage tables the walk read, with
  the page bits of the host leaves that mapped them (R288). -/
  gbits : Nat
  hbits : Nat
  via   : List (Nat × Nat)
  /-- DISC of the guest and the host leaf (R74). -/
  gdisc : Bool
  hdisc : Bool
  /-- D was 1 at both stages when the entry was read (R75). -/
  dirty : Bool
  deriving DecidableEq, Repr, Inhabited

/-- Memory and the ordering machine. A location is a number: address × 8 + tag, with tag 0 HBM, 1 host memory, 2 core store,
3 cluster store, 4 die store (Machine/Ops.lean names them). -/
structure MemSys where
  /-- The latest write of CO(x) for each location x (R83), in canonical form. -/
  mem    : List Host.Cell
  /-- The earlier writes of CO(x), oldest first. -/
  hist   : Tab (List Byte)
  views  : List ViewRow
  /-- Single-copy units of more than one byte (R92): of a location, the positions of CO(x) that belong to one and its number; of a
  unit, its locations. -/
  unit   : Tab (List (Nat × Nat))
  units  : Tab (List Nat)
  nextUnit : Nat
  /-- Poison marks (R78): 8-byte scratch words and 64-byte HBM lines, by unit number. -/
  poison : Tab Bool
  /-- HBM as the code image of a launch accepted now (R3). -/
  imem   : List Host.Cell
  /-- Writes of HBM bytes by launches that are not over, later than what imem holds, oldest first: launch and byte (R3). -/
  ipend  : Tab (List (Nat × Byte))
  /-- Cached translations (R288). -/
  tlb    : List TlbRow
  deriving DecidableEq, Repr, Inhabited

/-! ## Threads and gangs (spec/01_work.md, spec/13_isa_control.md, spec/27_control.md) -/

/-- An origin entry (R270). -/
structure Origin where
  core   : Nat
  idx    : Nat
  stamp  : BitVec 24
  launch : BitVec 32
  pc     : Word
  wid    : Word
  deriving DecidableEq, Repr, Inhabited

/-- The state of a thread (R17). A waiting thread names its mask and the split it stood in (R18, R20). -/
inductive TState where
  | exited
  | exec
  | joinWait (k : BitVec 3) (seat : Nat)
  | parked
  deriving DecidableEq, Repr, Inhabited

/-- One thread. -/
structure Thread where
  st      : TState
  pc      : Word
  /-- Return stack, top first (R142). -/
  rstack  : List Word
  /-- Stores to kind 0x03 refused since the last PERSIST (R183). -/
  refused : BitVec 16
  deriving DecidableEq, Repr, Inhabited

/-- A split (R18): its lanes, and the unfinished lanes it has still to replay. A split without lanes keeps its place in the
circular order while a waiting thread or the issue turn refers to it. -/
structure Split where
  id     : Nat
  lanes  : Mask
  replay : Option Mask
  /-- The origin entry that the word to replay has written (R270); the word replays in park order (R76). -/
  org    : Option Origin := none
  turn   : Bool := false
  /-- The word to replay has never been issued: its own fetch had faulted (R73). -/
  first  : Bool := false
  /-- Lanes whose latches its next run does not clear: they stand as a park or a trap kept them (R22, R283). -/
  keep   : Mask := 0#32
  deriving DecidableEq, Repr, Inhabited

/-- What one lane brought to a member form (R209, R210): its guard and its operands as they stood at arrival. -/
structure Arrival where
  act : Bool
  a   : Word
  b   : Word
  ps  : Bool
  deriving DecidableEq, Repr, Inhabited

/-- What an atomic makes of the old value (R177 to R179): ATOM with its operation, TYPE, size and operand; CAS with what it expects, the new
value, the bits compared and the bits written; ATOMF. -/
inductive Rmw where
  | atom (op ty sz b : Nat)
  | cas (expect new cmp bits : Nat)
  | atomf (op ty b : Nat)
  deriving DecidableEq, Repr, Inhabited

/-- What an entry of Q(t) does when it performs (R83 to R85). -/
inductive QAct where
  /-- A load into a v register, none with NW, extended in TYPE. -/
  | load (dst : Nat) (nw : Bool) (ty : Nat)
  /-- A store into memory or scratch, with the locations of the MX block and scale that it makes one unit (R93). -/
  | store (bytes : List Byte) (tie : List Nat)
  /-- A posted store on the host path (R80); a reflected store (R94). -/
  | host (bytes : List Byte) (pers : Bool) (org : Origin)
  | window (bytes : List Byte) (path : Nat) (ord : Bool) (org : Origin)
  /-- An atomic, whose old value goes to a v register; on an MX type with its block's scale (R180). -/
  | rmw (r : Rmw) (dst : Nat) (nw : Bool) (ty : Nat)
  | rmwMx (r : Rmw) (dst : Nat) (nw : Bool) (scale : LanePlan) (tie : List Nat)
  deriving DecidableEq, Repr, Inhabited

/-- An entry of Q(t) (R83): an access of one lane of a word, issued and not yet performed. -/
structure QEntry where
  /-- Entries of one word share a number. -/
  num  : Nat
  lane : Nat
  plan : LanePlan
  act  : QAct
  /-- The scope of its release and of its acquire. -/
  rel  : Option Nat
  acq  : Option Nat
  /-- Its word's run went on, so its result enters the latches (R22). -/
  run  : Bool
  /-- Its register has been exchanged with the trap bank since (R21). -/
  bank : Bool := false
  deriving DecidableEq, Repr, Inhabited

/-- States of a claim slot (R235). -/
inductive SlotState where
  | free | walking | live | lapsed | released
  deriving DecidableEq, Repr, Inhabited

/-- A pinned page of a claim (R237): virtual and guest physical page numbers, frame number, page bits of the two leaves, whether it
was discarded, and whether it lies on the destination side. -/
structure Pin where
  vpage : Nat
  gpage : Nat
  frame : Nat
  gbits : Nat
  hbits : Nat
  disc  : Bool
  dst   : Bool
  deriving DecidableEq, Repr, Inhabited

/-- A reassembly credit and handshake of a claim at one member (R238): package, asked, granted, and whether the member has
withdrawn its window since (R242). -/
structure Hand where
  pkg     : BitVec 9
  asked   : Bool
  granted : Bool
  lost    : Bool := false
  /-- The number under which the member was asked, and the code of its refusal; 0: none. -/
  ask     : Nat := 0
  refused : BitVec 8 := 0
  deriving DecidableEq, Repr, Inhabited

/-- A claim slot (R235, R236) with the copies its CLAIM took (R231). -/
structure Slot where
  st    : SlotState
  why   : BitVec 5
  kind  : BitVec 3
  opt   : BitVec 2
  bl    : Bool
  blvl  : Bool
  boff  : BitVec 24
  len   : Nat
  ds    : BitVec 256
  dd    : BitVec 256
  /-- Linked records of dS and dD (R227). -/
  ls    : BitVec 256
  ld    : BitVec 256
  vo    : Word
  pins  : List Pin
  hands : List Hand
  /-- The walk has taken its pins and bound the staging (R237 steps 1 to 4). -/
  staged : Bool
  /-- The destination window's entry, as the walk found it (R238). -/
  win    : BitVec 256 := 0
  /-- The cycle of the latest revocation (R244). -/
  when   : Nat := 0
  deriving DecidableEq, Repr, Inhabited

/-- The extent of a TLBI (R288): stage, target, every page or the 4 KiB pages [lo, hi). -/
structure TlbExt where
  host : Bool
  vif  : Nat
  ctx  : Nat
  all  : Bool
  lo   : Nat
  hi   : Nat
  deriving DecidableEq, Repr, Inhabited

/-- Why a split is parked (R298), with the data of the wait. -/
inductive Why where
  /-- Translation fault (0x01), DISCARD_WRITE (0x02): reported, or waiting for a place (QUOTA); the number of the report. -/
  | fault (reason : BitVec 8) (host wr : Bool) (addr : Word) (report : Nat)
  /-- DIRTY_FULL (R76): the guest physical page that could not be logged. -/
  | dirtyFull (gpa : Word)
  /-- A release at fab, and what it waits for: every reflected store below the bound acknowledged (R86). -/
  | acks (bound : Nat)
  /-- The records that wait for their places in the Dahlia chain (R226). -/
  | chainFull (records : List (BitVec 512))
  | flowFull
  /-- The launch queue, interface × 16 + priority, with the header and the constant copy that LAUNCH has read, its completion cell and
  its destination (R12, R284). -/
  | queueFull (queue : Nat) (hdr : BitVec 512) (args : List Byte) (cell : Option (BitVec 5)) (dst : BitVec 7) (nw : Bool)
  /-- CLAIM that waits for the slot's earlier flows, with the copies it took (R231). -/
  | claimWait (slot : Nat) (next : Slot)
  /-- CLAIM while the slot's walk goes on (R231, R236); held: what the walk has parked on (R239): reason of R299, address,
  number of the report. -/
  | walk (slot : Nat) (held : Option (BitVec 8 × Word × Nat))
  | fence (scope : BitVec 3) (bound : Nat)
  | persist (dst : BitVec 7) (nw : Bool)
  | barw (i scope : BitVec 3)
  /-- BWAIT on the object at a location, for a phase (R185). -/
  | bwait (loc : Nat) (phase : BitVec 32) (pd : BitVec 3)
  | wseq (cell : BitVec 5) (v : Word) (cls : BitVec 5) (scope : BitVec 3) (pd : BitVec 3)
  /-- WMEM (R187): the word with its lane addresses and operands. -/
  | wmem (w : FullWord) (addr b : Tab Word)
  | uiwait (vv vp : BitVec 7)
  | rfence (scope : BitVec 3) (bound : Nat) (dst : BitVec 7) (nw : Bool)
  /-- A member form (R210): opcode, word, the split it stood in, and the lanes' arrivals. -/
  | member (op : BitVec 8) (w : FullWord) (seat : Nat) (arr : Tab Arrival)
  /-- TLBI (R288): its extent, and the flows in progress (workgroup, flow) that it waits for. -/
  | tlbi (ext : TlbExt) (flows : List (Nat × Nat))
  deriving DecidableEq, Repr, Inhabited

/-- A parked split (R17, R72, R298). -/
structure Park where
  id    : Nat
  lanes : Mask
  /-- The unfinished-lane mask. -/
  todo  : Mask
  /-- The lanes active for the word. -/
  act   : Mask
  pc    : Word
  /-- Latches of the lanes as the word read them. -/
  lat   : Tab Word
  why   : Why
  /-- Cycle of the park and cycles of timeout left then (R188); none: no timeout. -/
  since : Nat
  left  : Option Nat
  /-- The parking condition has cleared: some true, replay or continue; some false, ABORT. -/
  ready : Option Bool
  /-- The origin entry that the word has written (R270). -/
  org   : Option Origin := none
  /-- The fetch of the word has faulted before the word was ever issued (R73). -/
  first : Bool := false
  /-- The discarded lines that its unfinished lanes write (R74). -/
  lines : List Nat := []
  deriving DecidableEq, Repr, Inhabited

/-- The run in progress of a gang (R21): the split that issues it and the words issued. -/
structure Run where
  split : Nat
  count : Nat
  deriving DecidableEq, Repr, Inhabited

/-- What trap entry or a diversion saves (R296, R306). -/
structure Saved where
  st     : Tab (TState × Word)
  splits : List Split
  parks  : List Park
  last   : Nat
  lat    : Tab Word
  run    : Option Run
  /-- The trapped split. -/
  split  : Nat
  deriving DecidableEq, Repr, Inhabited

/-- One gang. -/
structure Gang where
  /-- Issue slot of its core, and gang place (R25). -/
  slot    : Nat
  place   : Nat
  /-- v registers at lane × 128 + number (R15). -/
  v       : Tab Word
  /-- Predicates of a lane: bit j is pj; bit 0 is not used, p0 reads 1 (R139). -/
  p       : Tab (BitVec 8)
  k       : Tab Mask
  /-- Buffer records (R61). -/
  d       : Tab (BitVec 256)
  /-- Latches at lane × 4 + number (R22). -/
  b       : Tab Word
  thr     : Tab Thread
  splits  : List Split
  /-- The program-order queues Q(t) of its threads (R83), in one list in program order. -/
  queue   : List QEntry := []
  /-- The split issued last (R19). -/
  last    : Nat
  run     : Option Run
  parks   : List Park
  /-- Next number for a split or a park. -/
  nextId  : Nat
  readyAt : Nat
  fpctl   : Word
  warns   : Word
  warnpc  : Word
  tvec    : Word
  tpc     : Word
  tcause  : Word
  tmask   : Word
  tinfo   : Word
  inTrap  : Bool
  inUi    : Bool
  uivec   : Word
  uipay   : Word
  /-- Trap bank (R21): v120 to v127 at lane × 8 + j, and p4 to p7 of a lane in bits [7:4]. -/
  bankV   : Tab Word
  bankP   : Tab (BitVec 8)
  saved   : Option Saved
  /-- Failure accumulator F (R277). -/
  fCode   : BitVec 8
  fMask   : BitVec 16
  deriving DecidableEq, Repr, Inhabited

/-! ## Workgroups and engines (spec/19_isa_engines.md, spec/21_claims.md) -/

/-- What is left of a transfer of an Iris: the single-copy units still to be read and to be written, each by the transfer's numbers of
its bytes; the bytes read, with their poison; the bytes that its turns allow it (R90, R92, R240). -/
structure Xfer where
  reads  : List (List Nat) := []
  got    : Tab (Option (Byte × Bool)) := []
  writes : List (List Nat) := []
  quota  : Nat := 0
  deriving DecidableEq, Repr, Inhabited

/-- A transfer of an Iris (R240): a flow or a tile move of a workgroup, a service claim. -/
inductive XferId where
  | flow (wg id : Nat)
  | tile (wg id : Nat)
  | service (id : Nat)
  deriving DecidableEq, Repr, Inhabited

/-- A flow of an Iris chain (R232). -/
structure Flow where
  id     : Nat
  slot   : Nat
  off    : Nat
  len    : Nat
  cell   : Option (BitVec 5)
  started : Bool
  org    : Origin
  /-- Of a flow in progress, what is left of it (R240). -/
  mv     : Xfer := {}
  deriving DecidableEq, Repr, Inhabited

/-- A task of a Dahlia chain (R226, R246): its record, whether it has begun, and its next K-step. -/
structure Task where
  record : BitVec 512
  begun : Bool
  kstep : Nat
  /-- Every write performed, the completion signal still to be given. -/
  done  : Bool
  deriving DecidableEq, Repr, Inhabited

/-- A tile move in flight (R175): the descriptor words and the cell. -/
structure TileMove where
  id   : Nat
  desc : List Word
  cell : BitVec 5
  /-- What is left of it. -/
  mv   : Xfer
  deriving DecidableEq, Repr, Inhabited

/-- Where a workgroup stands between its first placement and its retirement (R25, R31, R32, R301, R302). -/
inductive WgStatus where
  | absent | running | saving | saved | relaunch | gone
  deriving DecidableEq, Repr, Inhabited

/-- A workgroup. Its key names it for good, so a region keeps its identity across a pre-emption (R59). -/
structure Workgroup where
  status : WgStatus
  launch : Nat
  /-- Its place in the launch: fields 2 to 5 taken as one number (R292). -/
  ord    : Nat
  /-- Core 0 to 383, and workgroup place within it (R24). -/
  core   : Nat
  place  : Nat
  gangs  : Tab Gang
  q      : Tab Word
  slots  : Tab Slot
  chain  : List Task
  flows  : List Flow
  moves  : List TileMove
  /-- Accumulator words (R217). Its scale bytes (R220) are locations of the memory. -/
  acc    : Tab (BitVec 32)
  nextId : Nat
  /-- It has used BARW at clus (R302). -/
  barClus : Bool
  /-- The issue priority of its interface when it was placed (R291). -/
  ipri   : Nat
  deriving DecidableEq, Repr, Inhabited

/-! ## Launches, contexts, interfaces (spec/27_control.md, spec/29_system.md) -/

/-- A launch (R12, R284, R322). -/
structure Launch where
  id      : BitVec 32
  /-- Interface × 1024 + context. -/
  ctx     : Nat
  hdr     : BitVec 512
  prio    : Nat
  /-- The issuing workgroup and cell of LAUNCH (R284). -/
  issuer  : Option (Nat × BitVec 5)
  /-- Join counter of a spawn (R323), host physical. -/
  join    : Option Word
  /-- Constant copy of the argument block (R174). -/
  args    : List Byte
  /-- Initial v1 to v4 (R322). -/
  initV   : List Word
  /-- Code image (R3). -/
  img     : List Host.Cell
  /-- Workgroups handed to dispatch so far, and those that have retired or been killed for good. -/
  next    : Nat
  ended   : Nat
  failed  : Bool
  /-- Retired or failed with nothing left running. -/
  isOver  : Bool
  /-- Relaunches of each workgroup (R32). -/
  relaunches : Tab Nat
  deriving DecidableEq, Repr, Inhabited

/-- An execution record (R311). -/
structure ExecRec where
  code     : Nat
  cause    : Nat
  reason   : Nat
  nested   : Bool
  relaunch : Bool
  launch   : BitVec 32
  wid      : Word
  pc       : Word
  tmask    : Mask
  tinfo    : Word
  deriving DecidableEq, Repr, Inhabited

/-- A context (R285, R305, R318). -/
structure Ctx where
  present : Bool
  priv    : BitVec 2
  uimask  : Word
  uipend  : Word
  uihnd   : Word
  /-- COUNT and payload of each vector. -/
  count   : Tab (BitVec 16)
  payload : Tab Word
  /-- System registers 0x300 to 0x310 by index, ctxpriv and the write-only fqans apart. -/
  reg     : Tab Word
  /-- Frames of the pinned pages of the structures its registers name, each raised by 1, at register index × 2^45 + guest
  physical page (R318); 0: not pinned. -/
  pins    : Tab Nat
  /-- A teardown waits for the context's runs to end, with the record that it will write (R309). -/
  ending  : Option ExecRec
  deriving DecidableEq, Repr, Inhabited

/-- A virtual interface (R317): system registers 0x200 to 0x20B by index, the full-ring exit of R76, its transmit window
table (R264) and its launch queues (R290). -/
structure Vif where
  reg      : Tab Word
  exitSent : Bool
  txw      : Tab (BitVec 256)
  /-- Queue q holds the launches not yet wholly placed, oldest first. -/
  queues   : Tab (List Nat)
  deriving DecidableEq, Repr, Inhabited

/-- A fault report (R299): outstanding, or waiting for a quota place or ring space. -/
structure Report where
  /-- The model's own number of the report, and the token that names it to software. -/
  num     : Nat
  token   : BitVec 32
  queue   : FaultQueue
  vif     : Nat
  bytes   : BitVec 256
  written : Bool
  /-- Holds a quota place. -/
  counted : Bool
  wg      : Nat
  gang    : Nat
  park    : Nat
  deriving DecidableEq, Repr, Inhabited

/-- A wired barrier instance (R28): launch, logical barrier, scope code, and the workgroup, cluster or die. -/
structure Barrier where
  launch : Nat
  i      : BitVec 3
  scope  : BitVec 3
  inst   : Nat
  broken : Bool
  /-- Participants of the open phase and those that have arrived: workgroup and gang. -/
  parts    : List (Nat × Nat)
  arrived  : List (Nat × Nat)
  deriving DecidableEq, Repr, Inhabited

/-- An entry of a cluster's pending queue (R292): the workgroups it stands for. -/
structure Pending where
  launch : Nat
  ords   : List Nat
  prio   : Nat
  lbthr  : Nat
  /-- Its arrival in the queue. -/
  seq    : Nat
  deriving DecidableEq, Repr, Inhabited

/-- Dispatch (R290 to R293), origin rings (R270), barriers (R27, R28), fault reports (R299), pre-emption (R300). -/
structure Sched where
  launches   : Tab Launch
  nextLaunch : Nat
  /-- Slot table of 256 bind records (R291). -/
  binds      : Tab (BitVec 128)
  pending    : Tab (List Pending)
  nextSeq    : Nat
  /-- Die after the last placement of queue vif × 16 + q; core, within its die, after the last placement of a die; interface
  after the last served of a priority. -/
  nextDie    : Tab Nat
  nextCore   : Tab Nat
  nextVif    : Tab Nat
  /-- Route tag t of die d at d × 8 + t: the launch and logical barrier that hold it (R27). -/
  tags       : Tab (Option (Nat × BitVec 3))
  barriers   : List Barrier
  origins    : Tab Origin
  originNext : Tab Nat
  reports    : List Report
  nextReport : Nat
  /-- Cores each pending pre-emption vacates, by context key. -/
  preempts   : List (Nat × List Nat)
  deriving DecidableEq, Repr, Inhabited

/-! ## Engines of a cluster -/

/-- Dahlia (R245): the chain in service, the chain served last; Iris: the transfer that had the last turn (R240). -/
structure Engine where
  busy      : Option Nat
  lastChain : Nat
  lastIris  : Option XferId
  deriving DecidableEq, Repr, Inhabited

/-! ## The fabric (spec/23_fabric.md) -/

/-- A reflected store or a packet's worth of a flow in its reflection queue (R94), for one member of its window. -/
structure Entry where
  id     : Nat
  key    : QueueKey
  member : Nat
  /-- PKIND of the packets that carry it (R259). -/
  kind   : BitVec 6
  woff   : Nat
  bytes  : List Byte
  /-- Bytes of a single-copy unit (R92). -/
  unit   : Nat
  /-- The service claim whose answer it is (R269). -/
  svc    : Option Nat := none
  pmask  : BitVec 16
  rop    : BitVec 4
  ord    : Bool
  org    : Origin
  /-- Sender gang (R83), and the flow. -/
  gang   : Option (Nat × Nat)
  flow   : Option (Nat × Nat)
  deriving DecidableEq, Repr, Inhabited

/-- A reflected store counted in A(g, p) (R83): not yet acknowledged by every member. -/
structure Outstanding where
  id    : Nat
  wg    : Nat
  gang  : Nat
  ctx   : Nat
  path  : BitVec 2
  /-- Members that have not answered. -/
  left  : List Nat
  deriving DecidableEq, Repr, Inhabited

/-- A transport packet (R258): its header, data and tag, with what the sender keeps about it. -/
structure Packet where
  hdr   : BitVec 576
  data  : List Byte
  tag   : List Byte
  ents  : List Entry
  /-- Flits still to be sent of it; none: sent. -/
  sent  : Bool
  since : Nat
  /-- The port by which a relayed packet came; of a packet kept by its sender, its last first hop raised by 1. -/
  port  : Nat := 0
  deriving DecidableEq, Repr, Inhabited

/-- A verified packet at the receiver, waiting for its turn (R261). -/
structure Inbound where
  hdr  : BitVec 576
  data : List Byte
  /-- The cycle of its verification. -/
  since : Nat
  deriving DecidableEq, Repr, Inhabited

/-- What a delivery needs of a packet or of loop-back entries. -/
structure Parcel where
  kind  : Nat
  sctx  : BitVec 32
  pkg   : Nat
  rwin  : Nat
  woff  : Nat
  data  : List Byte
  /-- Bytes of the single-copy units of a STORE, entry by entry (R92). -/
  cuts  : List (List Nat)
  pmask : Nat
  rop   : Nat
  ord   : Bool
  /-- The sending workgroup, of a loop-back. -/
  wg    : Option Nat
  org   : Origin
  deriving DecidableEq, Repr, Inhabited

/-- A delivery under way at a window unit (R95): its queue and what it brings, with the locations of its bytes; of a loop-back the entries
still to be delivered, of a packet of another package its header; the units still to be written, entry by entry, each by its first byte
and how many. -/
structure Landing where
  key    : QueueKey
  parcel : Parcel
  locs   : List Nat
  ents   : List Entry
  hdr    : Option (BitVec 576)
  left   : List (List (Nat × Nat))
  /-- The bytes of the entry in delivery that have been written. -/
  done   : List Nat
  deriving DecidableEq, Repr, Inhabited

/-- A port (R248 to R251, R263). -/
structure Port where
  cfg      : Word
  pend     : Option Word
  stat     : Word
  calendar : Tab (BitVec 16)
  /-- The slot whose preamble comes next, flits left of the slot in progress, and by queue of R253 the class sent last, raised by 1. -/
  slot     : Nat
  room     : Nat
  lastTc   : Tab Nat
  /-- The lit wavelengths over which the slot in progress is striped (R249, R262). -/
  waves    : BitVec 16
  deriving DecidableEq, Repr, Inhabited

/-- The link to one peer package (R252, R255 to R257). -/
structure Link where
  next    : Nat
  expect  : Nat
  /-- Flits kept until LACK covers them, oldest first. -/
  kept    : List (BitVec 768)
  /-- A flit has been accepted (AV); a NAK is sent and the expected flit still to come. -/
  got     : Bool
  nak     : Bool
  /-- Body bytes of the packet being received, and its HEAD. -/
  asm     : List (BitVec 768)
  free    : List Nat
  reach   : BitVec 512
  /-- Slots since that vector; consecutive absent preambles; the direct path is reported as held. -/
  age     : Nat
  absent  : Nat
  held    : Bool
  /-- Wavelengths of the peer whose loss has been detected here and not yet reported to it (R262). -/
  loss    : BitVec 16
  deriving DecidableEq, Repr, Inhabited

/-- A pull record waiting at a window unit or served by a service claim (R269). -/
structure Pull where
  rwin   : BitVec 12
  sctx   : BitVec 32
  record : BitVec 512
  /-- Its offset in the window, and the origin entry that its packet names (R271). -/
  woff   : Nat
  org    : Origin
  deriving DecidableEq, Repr, Inhabited

/-- A reassembly credit held at a window unit of this package (R238). -/
structure Credit where
  die  : Nat
  hand : Handshake
  deriving DecidableEq, Repr, Inhabited

/-- A service claim (R269): its number, die and record, the owner's context, the source record, the answer window's entry and path,
what it holds, and what is left of its flow. -/
structure Service where
  id    : Nat
  die   : Nat
  pull  : Pull
  key   : Nat
  d     : BitVec 256
  tx    : BitVec 256
  path  : Nat
  pins  : List Pin
  hands : List Hand
  /-- The walk is over and the flow in progress; the completion word is appended. -/
  live  : Bool
  mv    : Xfer
  last  : Bool
  deriving DecidableEq, Repr, Inhabited

/-- A flit on a port's fibres (R249): what each wavelength carries, its number and its share of the bits. -/
structure Striped where
  port  : Nat
  flit  : BitVec 768
  waves : List (Nat × Nat)
  deriving DecidableEq, Repr, Inhabited

/-- The Zarras fabric side of the package. -/
structure Fabric where
  ports    : Tab Port
  /-- Links by peer package number. -/
  links    : Tab Link
  /-- Reflection queues (R83), all in one list, each in its own order. -/
  rq       : List Entry
  nextId   : Nat
  outst    : List Outstanding
  /-- Packets of this package not yet acknowledged (R261); relayed packets (R254); packets in reassembly (R260). -/
  sent     : List Packet
  relay    : List Packet
  held     : List Packet
  /-- Verified packets in order (R261); deliveries under way, and the windows whose clearing waits for them (R265). -/
  inbound  : List Inbound
  landing  : List Landing
  clearing : List Nat
  /-- NCTR, PSEQ and OSEQ of the next packet: by destination pod × 512 + package, by queue, by sender and destination. -/
  nctr     : Tab Nat
  pseq     : List (QueueKey × Nat)
  oseq     : List ((BitVec 32 × Nat) × Nat)
  /-- The same of a sender's user interrupts (R278), at the sender and at the receiver. -/
  useq     : List ((BitVec 32 × Nat) × Nat)
  inUseq   : List (BitVec 32 × Nat)
  /-- Accepted counters by source pod × 512 + package (R260). -/
  seen     : Tab (List Nat)
  /-- Statuses raised by 1 with which packets were answered, by counter × 2^16 + source (R261). -/
  answers  : Tab Nat
  /-- Keys that Primrose has installed, by source × 2^16 + destination (R260). -/
  keys     : Tab (BitVec 256)
  /-- Next PSEQ to deliver of an inbound queue; by sender, the next OSEQ and those delivered beyond it. -/
  inPseq   : List (QueueKey × Nat)
  inOseq   : List (BitVec 32 × List Nat)
  /-- Acknowledgements, handshakes, answers, interrupts and records waiting to be sent. -/
  ctl      : List Packet
  /-- Transmit and receive sides of the windows. -/
  rxw      : Tab (BitVec 256)
  rxPins   : Tab (List Pin)
  credits  : List Credit
  /-- Handshakes that wait for a credit; the number of the next request. -/
  hands    : List Handshake
  nextAsk  : Nat
  /-- The answers given to handshakes, newest first (R261). -/
  handAnswers : List (Handshake × Nat)
  pulls    : List Pull
  services : List Service
  /-- Flits and preambles put on the fibres by port, newest last: what the outside sees. -/
  out      : List Striped
  pre      : List (Nat × Preamble)
  deriving DecidableEq, Repr, Inhabited

/-! ## Host side and Primrose (spec/29_system.md) -/

/-- A posted host-path store (R80, R100, R101). -/
structure Posted where
  id    : Nat
  wg    : Nat
  gang  : Nat
  lane  : Nat
  addr  : Nat
  bytes : List Byte
  /-- Kind 0x03. -/
  pers  : Bool
  ctx   : Nat
  org   : Origin
  /-- The host port that holds it (R313), and the flow of which it is a write (R240). -/
  port  : Nat
  flow  : Option (Nat × Nat) := none
  deriving DecidableEq, Repr, Inhabited

/-- What the power manager samples (R331, R332): power of the package and of the five consumers of R2, temperatures of the dies and
of the stacks. -/
structure Sample where
  power     : Nat
  consumers : List Nat
  dies      : List Nat
  hbm       : List Nat
  deriving DecidableEq, Repr, Inhabited

/-- Laser drive current drift of a module, in 0.1 mA (R330). -/
structure Drift where
  least  : Int
  most   : Int
  latest : Int
  deriving DecidableEq, Repr, Inhabited

/-- The lifetime records (R330): counters by number (log 30), row remaps of a stack with their most recent rows, drifts by port × 4 +
module. -/
structure Life where
  count  : Tab (BitVec 32)
  remaps : Tab (BitVec 16 × List Nat)
  drift  : Tab (Option Drift)
  deriving DecidableEq, Repr, Inhabited

/-- What goes to the host: event and error records (R271), a report of a layout change, an alarm, a takeover, an attestation
report, data of a host read. -/
inductive ToHost where
  | record (r : BitVec 256)
  | layout (what : Nat)
  | alarm (a : Alarm) (high : Bool)
  | takeover (die : Nat)
  | attest (bytes : List Byte)
  | data (bytes : List Byte)
  /-- A receive window could not be validated (R265). -/
  | windowFault (rwin : Nat)
  | uiReject (code : BitVec 8)
  /-- What the mailbox answers: the calendars (R251), the lifetime records (R330), averages and throttle cycles by die (R332). -/
  | calendars (l : List (BitVec 16))
  | life (l : Life)
  | power (x : Sample) (held : List Nat)
  /-- A register of a configuration window (R317). -/
  | register (v : Word)
  deriving DecidableEq, Repr, Inhabited

/-- States of a layout change (R315). -/
inductive Commit where
  | steady | staged | quiesce
  deriving DecidableEq, Repr, Inhabited

/-- A service pair (R324, R325). -/
structure Pair where
  leader  : Bool
  held    : Bool
  halted  : Bool
  takeover : Bool
  beat    : Nat
  buffer  : BitVec 512
  deriving DecidableEq, Repr, Inhabited

/-- Primrose, power, lifetime records (R313 to R316, R326 to R332). -/
structure Prim where
  started   : Bool
  recovery  : Bool
  /-- Fused minimum version and version of the running image. -/
  minVersion : Nat
  version    : Nat
  measure    : Tab (BitVec 512)
  hasKey     : Bool
  zeroised   : Bool
  locked     : Bool
  layout     : BitVec 3
  layoutVer  : BitVec 16
  commit     : Commit
  shadow     : BitVec 3
  shadowMap  : List (Nat × Nat)
  /-- Firewall register sets by die × 4 + the die at the link's other end, true: open; the shadow sets; the flits that each has
  dropped (R314). -/
  fw         : Tab Bool
  shadowFw   : Tab Bool
  fwDrops    : Tab (BitVec 32)
  shadowDies : List Nat
  since      : Nat
  plim       : Nat
  throttle   : Nat
  /-- Cycles of droop hold left, by die. -/
  droop      : Tab Nat
  /-- The samples of the last millisecond, newest first, and the throttle cycles of each die (R332). -/
  samples    : List Sample
  held       : Tab Nat
  /-- Lifetime records (R330) in use and as last written. -/
  life       : Life
  lifeNv     : Life
  /-- The cycles of the tag and counter failures of the last second (R329). -/
  tagFails   : List Nat
  alarms     : Tab Nat
  pairs      : Tab Pair
  /-- Persistent ranges: base and length, host physical (R326). Ranges of HBM that CXL.mem exposes (R321). -/
  ranges     : List (Nat × Nat)
  cxl        : List (Nat × Nat)
  /-- Place in the pod (R286). -/
  pod        : BitVec 7
  pkg        : BitVec 9
  posted     : List Posted
  nextPosted : Nat
  out        : List ToHost
  deriving DecidableEq, Repr, Inhabited

/-! ## The model's own fields -/

/-- Which gang is issuing the word that exec performs (R295): workgroup, gang, split, address, and the lanes to replay. -/
structure Cur where
  wg     : Nat
  gang   : Nat
  split  : Nat
  pc     : Word
  replay : Option Mask
  /-- The origin entry that the word has written (R270). -/
  org    : Option Origin := none
  /-- The word, which has not been issued before, is still to be fetched. -/
  fetching : Bool := false
  /-- The word's accesses enter Q(t) and perform later (R85). -/
  late : Bool := false
  deriving DecidableEq, Repr, Inhabited

/-- What parties beside the cores do that is no step of the opcode table. -/
inductive Outside where
  /-- A posted write transaction to BAR 2 of a virtual function: port, function, byte, data (R313, R322, R333). -/
  | bar2 (port vf off : Nat) (bytes : List Byte)
  /-- A read or a write of a virtual function's configuration window, at a byte (R317). -/
  | configRead (port vf off : Nat)
  | configWrite (port vf off : Nat) (v : Word)
  /-- Reads through the mailbox by the physical function (R251, R330, R332). -/
  | calendars
  | life
  | power
  /-- Declarations of the physical function: ranges that CXL.mem exposes (R321), persistent ranges (R326). -/
  | exposeRange (base len : Nat)
  | persistRange (base len : Nat)
  /-- System software sets up an entry of an interface's transmit window table (R264). -/
  | txWindow (vif idx : Nat) (e : BitVec 256)
  /-- Package reset (R152, R329). -/
  | reset
  /-- A store of a service pair to its spawn buffer (R324). -/
  | spawnBuffer (die : Nat) (r : BitVec 512)
  /-- Firmware raises the fused minimum and measures a table (R327). -/
  | raiseMinimum (version : Nat)
  | measure (r : Nat) (table : List Byte)
  /-- Primrose installs the key of an ordered pair of packages (R260). -/
  | installKey (src dst : Nat) (key : BitVec 256)
  /-- A sample of the power manager (R331, R332); an hour of operation at the dies' temperatures (R330). -/
  | sample (x : Sample)
  | hour (temps : List Nat)
  /-- What R330 records of HBM rows, bit-error rates (the decade of a measurement) and lasers. -/
  | rowRemap (stack row : Nat)
  | bitErrors (port wave decade : Nat)
  | laserDrift (port module : Nat) (drift : Int)
  /-- The light detector of a port finds wavelengths of its peer dark (R262). -/
  | darkReceive (port : Nat) (waves : BitVec 16)
  /-- A flit offered to the link from one die to another; management: Primrose's (R314). -/
  | dieFlit (src dst : Nat) (management : Bool)
  deriving DecidableEq, Repr, Inhabited

/-- A move that an agent makes next (R84: the machine may take any step whose condition holds). -/
inductive Move where
  | event (i : Instr)
  /-- The issue slot core × 4 + slot issues its next word, whose accesses perform at once, or stay in Q(t) (R85). -/
  | issue (slot : Nat)
  | issueLate (slot : Nat)
  /-- An entry of the queues of a gang performs, counted in their order. -/
  | entry (wg gang k : Nat)
  /-- A write of the hypervisor to a register of an interface's configuration window (R317). -/
  | config (vif idx : Nat) (v : Word)
  /-- Iris reads, or writes, a unit of a transfer, counted among those that are left (R79, R90, R240). -/
  | xferRead (x : XferId) (k : Nat)
  | xferWrite (x : XferId) (k : Nat)
  /-- The Iris of a cluster gives the next transfer its turn (R240). -/
  | irisTurn (clus : Nat)
  /-- A window unit writes a unit of the entry in delivery of a queue (R92, R95). -/
  | land (q : QueueKey) (k : Nat)
  /-- A window unit goes on with a service claim (R269). -/
  | serve (id : Nat)
  | outside (o : Outside)
  deriving DecidableEq, Repr, Inhabited

/-- The model's own fields, not the spec's. -/
structure Aux where
  cur    : Option Cur
  agenda : List Move
  /-- Whether the next translations may be taken from the cache (R288). -/
  hits   : List Bool
  /-- Counter that the free values advance. -/
  ctr    : Nat
  deriving DecidableEq, Repr, Inhabited

/-- The state of the machine. -/
structure State where
  ms    : MemSys
  wgs   : Tab Workgroup
  nextWg : Nat
  ctxs  : Tab Ctx
  vifs  : Tab Vif
  sched : Sched
  eng   : Tab Engine
  fab   : Fabric
  prim  : Prim
  /-- The control register cycle (R152). -/
  cycle : Nat
  aux   : Aux
  deriving DecidableEq, Repr, Inhabited

/-- Why a step stops without a next state. -/
inductive Fault where
  /-- Raised by exec when a word is handed to it while no gang is issuing (no word of the machine performs outside an issue
  turn, R295); step never does so. Safe: it stops. -/
  | noIssuer
  deriving DecidableEq, Repr, Inhabited

/-- Why a step is refused. -/
inductive Refusal where
  /-- Raised by exec's arm of an instruction without a meaning. Safe: it stops. -/
  | notModelled (mnemonic : String)
  deriving DecidableEq, Repr, Inhabited

/-- The port right after package reset (R250). -/
def Port.reset : Port :=
  { cfg := 0x0000041000000001#64, pend := none, stat := 0x0000FFFFFFFF0000#64, calendar := [], slot := 0, room := 0,
    lastTc := [], waves := 0 }

/-- Right after package reset: no context, no launch, no workgroup; every register at its stated reset value, and at the
value of notes/assumptions where none is stated. -/
def State.reset : State :=
  { ms := { mem := [], hist := [], views := [], unit := [], units := [], nextUnit := 0, poison := [], imem := [], ipend := [], tlb := [] }
    wgs := []
    nextWg := 0
    ctxs := []
    vifs := []
    sched := default
    eng := []
    fab := { (default : Fabric) with ports := (List.range 16).map (fun p => (p, Port.reset)) }
    prim := { (default : Prim) with plim := 3200 }
    cycle := 0
    aux := { cur := none, agenda := [], hits := [], ctr := 0 } }

end Sys2Proof.Machine
end

