-- ==== Sys2Proof/Machine/Tab.lean ====
section
/-! DEFINITION. Reading and writing a sparse table: one canonical form, keys strictly rising and no entry equal to the
default. -/

namespace Sys2Proof

variable {α : Type}

/-- The value at a key. -/
def Tab.get [Inhabited α] (m : Tab α) (k : Nat) : α :=
  match m with
  | [] => default
  | (j, a) :: l => if j = k then a else Tab.get l k

/-- Every entry of a key removed. -/
def Tab.drop (m : Tab α) (k : Nat) : Tab α :=
  match m with
  | [] => []
  | (j, a) :: l => if j = k then Tab.drop l k else (j, a) :: Tab.drop l k

/-- An entry put before the first greater key. -/
def Tab.ins (m : Tab α) (k : Nat) (a : α) : Tab α :=
  match m with
  | [] => [(k, a)]
  | (j, b) :: l => if k < j then (k, a) :: (j, b) :: l else (j, b) :: Tab.ins l k a

/-- The value at a key replaced; the default is not listed. -/
def Tab.set [Inhabited α] [DecidableEq α] (m : Tab α) (k : Nat) (a : α) : Tab α :=
  if a = default then Tab.drop m k else Tab.ins (Tab.drop m k) k a

/-- Change the value at a key. -/
def Tab.modify [Inhabited α] [DecidableEq α] (m : Tab α) (k : Nat) (f : α → α) : Tab α :=
  Tab.set m k (f (Tab.get m k))

/-- The keys listed. -/
def Tab.keys (m : Tab α) : List Nat := m.map Prod.fst

/-- The canonical form. -/
abbrev Tab.wf [Inhabited α] [DecidableEq α] (m : Tab α) : Prop :=
  m.Pairwise (fun x y => x.1 < y.1) ∧ ∀ x ∈ m, x.2 ≠ default

end Sys2Proof
end

