-- ==== Sys2Proof/Machine/Store.lean ====
section
/-! DEFINITION. The ordering machine: locations, coherence orders, views, pushes and pulls, atomics, poison marks
(spec/07_ordering.md R81 to R92, spec/05_memory.md R78). -/

namespace Sys2Proof.Machine

/-! ## Locations (R83) -/

/-- A byte of HBM at a device physical address. -/
def locHbm (a : Nat) : Nat := a * 8
/-- A byte of host or persistent memory at a host physical address. -/
def locHost (a : Nat) : Nat := a * 8 + 1
/-- A byte of a workgroup's core-store region. -/
def locCst (wg off : Nat) : Nat := (wg * 2 ^ 24 + off) * 8 + 2
/-- A byte of a workgroup's cluster-store region. -/
def locKst (wg off : Nat) : Nat := (wg * 2 ^ 24 + off) * 8 + 3
/-- A byte of a die's die store. -/
def locDst (die off : Nat) : Nat := (die * 2 ^ 27 + off) * 8 + 4

/-- A byte of a workgroup's scale region (R220). -/
def locScl (wg off : Nat) : Nat := (wg * 2 ^ 24 + off) * 8 + 5

/-- The location n bytes on. -/
def locAdd (x n : Nat) : Nat := x + n * 8

/-- n locations from one on. -/
def locs (x n : Nat) : List Nat := (List.range n).map (locAdd x)

/-- The location is a byte of HBM. -/
def isHbm (x : Nat) : Bool := x % 8 == 0

/-! ## Memory: the latest writes -/

/-- What a byte that nothing has written reads as (notes/assumptions/1). -/
def Memory.empty : Byte := 0#8

/-- The latest write of CO(x). -/
def Memory.read (m : List Host.Cell) (x : Nat) : Byte := Tab.get (α := Byte) m x

/-- A new latest write. -/
def Memory.write (m : List Host.Cell) (x : Nat) (b : Byte) : List Host.Cell := Tab.set (α := Byte) m x b

/-- The canonical form: addresses strictly rising, no entry equal to what an unlisted address reads as. -/
abbrev Memory.wf (m : List Host.Cell) : Prop := Tab.wf (α := Byte) m

/-! ## Coherence orders and views -/

/-- Position of the latest write of CO(x); position 0 is the initial value. -/
def MemSys.lastPos (m : MemSys) (x : Nat) : Nat := (Tab.get m.hist x).length

/-- The write at a position of CO(x). -/
def MemSys.writeAt (m : MemSys) (x pos : Nat) : Byte := (Tab.get m.hist x).getD pos (Memory.read m.mem x)

/-- The row of an instance and class, if it has one. -/
def rowPos : List ViewRow → Inst → PathClass → Tab Nat
  | [], _, _ => []
  | r :: l, i, c => if r.inst = i ∧ r.cls = c then r.pos else rowPos l i c

/-- Replace the row of an instance and class. -/
def setRow : List ViewRow → Inst → PathClass → Tab Nat → List ViewRow
  | [], i, c, p => [{ inst := i, cls := c, pos := p }]
  | r :: l, i, c, p => if r.inst = i ∧ r.cls = c then { r with pos := p } :: l else r :: setRow l i c p

/-- V(i, c)[x] (R83). -/
def MemSys.view (m : MemSys) (i : Inst) (c : PathClass) (x : Nat) : Nat := Tab.get (rowPos m.views i c) x

/-- The later of two views, location by location. -/
def maxPos (a b : Tab Nat) : Tab Nat :=
  a.foldl (fun t e => if Tab.get t e.1 < e.2 then Tab.set t e.1 e.2 else t) b

/-- V(i, c)[x] ← the later of it and a position: a view never moves back (R84). -/
def MemSys.raise (m : MemSys) (i : Inst) (c : PathClass) (x pos : Nat) : MemSys :=
  { m with views := setRow m.views i c (maxPos [(x, pos)] (rowPos m.views i c)) }

/-- V(j, d)[x] ← the later of V(j, d)[x] and V(i, c)[x], for every x. -/
def MemSys.join (m : MemSys) (i : Inst) (c : PathClass) (j : Inst) (d : PathClass) : MemSys :=
  { m with views := setRow m.views j d (maxPos (rowPos m.views i c) (rowPos m.views j d)) }

/-- The same for the given locations only. -/
def MemSys.joinAt (m : MemSys) (i : Inst) (c : PathClass) (j : Inst) (d : PathClass) (xs : List Nat) : MemSys :=
  xs.foldl (fun m x => m.raise j d x (m.view i c x)) m

/-- Read step (R84): the write at the view of the agent's home instance. -/
def MemSys.readByte (m : MemSys) (i : Inst) (c : PathClass) (x : Nat) : Byte := m.writeAt x (m.view i c x)

/-- Write step (R84): a new latest write, which the home view then holds. -/
def MemSys.writeByte (m : MemSys) (i : Inst) (c : PathClass) (x : Nat) (b : Byte) : MemSys :=
  let h := Tab.get m.hist x ++ [Memory.read m.mem x]
  let m' : MemSys := { m with hist := Tab.set m.hist x h, mem := Memory.write m.mem x b }
  m'.raise i c x h.length

/-- Reading several bytes of one unit (R92). -/
def MemSys.read (m : MemSys) (i : Inst) (c : PathClass) (xs : List Nat) : List Byte := xs.map (m.readByte i c)

/-- Writing bytes at locations. The single-copy units are marked by MemSys.tie. -/
def MemSys.write (m : MemSys) (i : Inst) (c : PathClass) : List Nat → List Byte → MemSys
  | x :: xs, b :: bs => (m.writeByte i c x b).write i c xs bs
  | _, _ => m

/-! ## Single-copy units (R92, R93) -/

/-- The bytes at some locations were created in one write step, as one unit: their latest writes are its parts. -/
def MemSys.tieUnit (m : MemSys) (xs : List Nat) : MemSys :=
  { m with
    unit := xs.foldl (fun t x => Tab.set t x ((m.lastPos x, m.nextUnit) :: Tab.get t x)) m.unit
    units := Tab.set m.units m.nextUnit xs
    nextUnit := m.nextUnit + 1 }

/-- Consecutive locations of the same aligned block of n bytes. -/
def blocks (n : Nat) : List Nat → List (List Nat)
  | [] => []
  | x :: xs =>
    match blocks n xs with
    | [] => [[x]]
    | [] :: bs => [x] :: bs
    | (y :: b) :: bs => if x % 8 = y % 8 ∧ x / 8 / n = y / 8 / n then (x :: y :: b) :: bs else [x] :: (y :: b) :: bs

/-- The writes just made at some locations are units of aligned blocks of n bytes; a unit of one byte needs no mark. -/
def MemSys.tie (m : MemSys) (n : Nat) (xs : List Nat) : MemSys :=
  (blocks n xs).foldl (fun m b => if b.length < 2 then m else m.tieUnit b) m

/-- The unit of a thread access: the whole of one that is naturally aligned, else each byte (R92). -/
def accessUnit (xs : List Nat) : Nat :=
  match xs with
  | [] => 1
  | x :: _ => if x / 8 % xs.length = 0 then xs.length else 1

/-- The locations of the unit of the write at a position of CO(x). -/
def MemSys.unitAt (m : MemSys) (x pos : Nat) : List Nat :=
  match (Tab.get m.unit x).find? (fun e => e.1 == pos) with
  | some e => Tab.get m.units e.2
  | none => [x]

/-- The locations that move with some when a view of an instance is handed on: those of the units that the view holds at each of
them, and so on (R92); with a bound on how often. -/
def MemSys.together (m : MemSys) (i : Inst) (c : PathClass) : Nat → List Nat → List Nat → List Nat
  | 0, xs, acc => xs ++ acc
  | _ + 1, [], acc => acc
  | n + 1, x :: xs, acc =>
    if acc.contains x then m.together i c n xs acc
    else
      let u := m.unitAt x (m.view i c x)
      m.together i c n ((if u.length < 2 then [] else u.filter (fun y => !acc.contains y && y != x)) ++ xs) (x :: acc)

/-- V(j, c)[x] ← the later of V(j, c)[x] and V(i, c)[x], for the given locations and those of their units (R84, R92). -/
def MemSys.moveUnits (m : MemSys) (i j : Inst) (c : PathClass) (xs : List Nat) : MemSys :=
  m.joinAt i c j c (m.together i c 4096 xs [])

/-- The latest writes (an atomic, R84; the device's own table reads). -/
def MemSys.latest (m : MemSys) (xs : List Nat) : List Byte := xs.map (Memory.read m.mem)

/-- An atomic's read moves the thread's view to the write it read (R87). -/
def MemSys.seen (m : MemSys) (i : Inst) (c : PathClass) (xs : List Nat) : MemSys :=
  xs.foldl (fun m x => m.raise i c x (m.lastPos x)) m

/-! ## Chains of instances (R81, R82) -/

/-- Pushes along a chain, narrow to wide (R86). -/
def MemSys.pushChain (m : MemSys) (c : PathClass) : List Inst → MemSys
  | i :: j :: l => (m.join i c j c).pushChain c (j :: l)
  | _ => m

/-- Pulls along a chain, wide to narrow: the chain is given narrow to wide (R86). -/
def MemSys.pullChain (m : MemSys) (c : PathClass) : List Inst → MemSys
  | i :: j :: l => let m' := m.pullChain c (j :: l); m'.join j c i c
  | _ => m

/-! ## Erasing and poison (R60, R78) -/

/-- The poison unit of a location: the first location of its 8-byte scratch word or 64-byte HBM line. -/
def poisonUnit (x : Nat) : Nat := if isHbm x then x / 512 * 512 else x / 64 * 64 + x % 8

/-- A location carries a poison mark; host memory never does. -/
def MemSys.poisoned (m : MemSys) (x : Nat) : Bool := x % 8 != 1 && Tab.get m.poison (poisonUnit x)

/-- Mark the units of locations. -/
def MemSys.mark (m : MemSys) (xs : List Nat) : MemSys :=
  { m with poison := xs.foldl (fun t x => if x % 8 = 1 then t else Tab.set t (poisonUnit x) true) m.poison }

/-- The number of bytes of a poison unit. -/
def unitSize (x : Nat) : Nat := if isHbm x then 64 else 8

/-- Clear the marks of units that a store writes whole (R78): the unit starts at one of the locations and all of it is
written. A thread store clears scratch words only, since it writes at most 8 bytes. -/
def MemSys.clearWhole (m : MemSys) (xs : List Nat) : MemSys :=
  { m with poison := xs.foldl (fun t x =>
      if poisonUnit x = x ∧ (locs x (unitSize x)).all xs.contains then Tab.set t x false else t) m.poison }

/-- Bytes of freed regions read 0 and hold no earlier write: the region is a new one to whoever takes the bytes (R60). -/
def MemSys.erase (m : MemSys) (p : Nat → Bool) : MemSys :=
  { m with
    mem := m.mem.filter (fun e => !p e.1)
    hist := m.hist.filter (fun e => !p e.1)
    poison := m.poison.filter (fun e => !p e.1)
    unit := m.unit.filter (fun e => !p e.1)
    views := m.views.map (fun r => { r with pos := r.pos.filter (fun e => !p e.1) }) }

/-- Bytes of regions restored at a new place: the saved bytes are what every agent first finds there (R60, R302, log 73). -/
def MemSys.settle (m : MemSys) (p : Nat → Bool) : MemSys :=
  { m with
    hist := m.hist.filter (fun e => !p e.1)
    unit := m.unit.filter (fun e => !p e.1)
    views := m.views.map (fun r => { r with pos := r.pos.filter (fun e => !p e.1) }) }

/-! ## The code image of later launches (R3) -/

/-- Bytes of HBM written outside any launch reach the code image of every launch accepted later, at once (log 77). -/
def MemSys.intoImage (m : MemSys) (xs : List Nat) (bs : List Byte) : MemSys :=
  { m with
    imem := (xs.zip bs).foldl (fun t e => if isHbm e.1 then Memory.write t e.1 e.2 else t) m.imem
    ipend := xs.foldl (fun t x => Tab.set t x []) m.ipend }

/-- Bytes of HBM written for a launch reach it when the launch is over, whichever address named them (R3, log 94). -/
def MemSys.ofLaunch (m : MemSys) (l : Nat) (xs : List Nat) (bs : List Byte) : MemSys :=
  { m with ipend := (xs.zip bs).foldl (fun t e => if isHbm e.1 then Tab.set t e.1 (Tab.get t e.1 ++ [(l, e.2)]) else t) m.ipend }

/-- The last write of a launch among some, and the writes after it. -/
def lastOf (l : Nat) : List (Nat × Byte) → Option (Byte × List (Nat × Byte))
  | [] => none
  | e :: es =>
    match lastOf l es with
    | some r => some r
    | none => if e.1 = l then some (e.2, es) else none

/-- A launch is over (log 76): at each byte its last store takes effect, unless a later write of an agent whose writes have taken effect
already stands there; the stores of other launches before it never show. -/
def MemSys.launchOver (m : MemSys) (l : Nat) : MemSys :=
  m.ipend.foldl (fun m e =>
    match lastOf l e.2 with
    | some (b, rest) => { m with imem := Memory.write m.imem e.1 b, ipend := Tab.set m.ipend e.1 rest }
    | none => m) m

end Sys2Proof.Machine
end

