-- ==== Sys2Proof/Machine/Access.lean ====
section
/-! DEFINITION. Reading and changing the pieces of the state: workgroups, gangs, registers, launch headers, work identifiers,
placement and scope instances (spec/01_work.md R9 to R16, spec/07_ordering.md R81). -/

namespace Sys2Proof.Machine

/-! ## Bits and masks -/

/-- Bits [lo+n-1:lo] of a word. -/
def Word.bits (x : Word) (lo n : Nat) : Nat := fld x.toNat lo n

/-- Bit of a word. -/
def Word.bit (x : Word) (i : Nat) : Bool := x.getLsbD i

/-- A number as a word. -/
def word (n : Nat) : Word := BitVec.ofNat 64 n

/-- A code address: bits [56:3] (R142, R152). -/
def codeAddr (x : Word) : Word := word (fld x.toNat 3 54 * 8)

/-- The low 57 bits. -/
def va57 (x : Nat) : Word := word (x % 2 ^ 57)

/-- Sign-extended value of the low n bits. -/
def sextN (n x : Nat) : Int := if x % 2 ^ n < 2 ^ (n - 1) then (x % 2 ^ n : Int) else (x % 2 ^ n : Int) - 2 ^ n

/-- Lanes of a mask, ascending. -/
def lanesOf (m : Mask) : List Nat := (List.range 32).filter (fun i => m.getLsbD i)

/-- One lane as a mask. -/
def laneBit (i : Nat) : Mask := BitVec.ofNat 32 (2 ^ i)

/-- A list of lanes as a mask. -/
def maskOf (l : List Nat) : Mask := l.foldl (fun m i => m ||| laneBit i) 0#32

/-- Number of 1 bits among the low n. -/
def popCount (n x : Nat) : Nat := ((List.range n).filter (fun j => x.testBit j)).length

/-- The lowest lane of a mask. -/
def lowest (m : Mask) : Option Nat := (lanesOf m).head?

/-- The lanes that satisfy a test. -/
def maskIf (m : Mask) (p : Nat → Bool) : Mask := maskOf ((lanesOf m).filter p)

/-! ## The pieces of the state -/

def State.wg (s : State) (w : Nat) : Workgroup := Tab.get s.wgs w
def State.gang (s : State) (w g : Nat) : Gang := Tab.get (s.wg w).gangs g
def State.launch (s : State) (l : Nat) : Launch := Tab.get s.sched.launches l
def State.ctx (s : State) (k : Nat) : Ctx := Tab.get s.ctxs k
def State.vif (s : State) (v : Nat) : Vif := Tab.get s.vifs v
def State.engine (s : State) (c : Nat) : Engine := Tab.get s.eng c
def State.port (s : State) (p : Nat) : Port := Tab.get s.fab.ports p
def State.link (s : State) (p : Nat) : Link := Tab.get s.fab.links p

def State.modWg (s : State) (w : Nat) (f : Workgroup → Workgroup) : State := { s with wgs := Tab.modify s.wgs w f }
def State.setGang (s : State) (w g : Nat) (x : Gang) : State :=
  s.modWg w (fun r => { r with gangs := Tab.set r.gangs g x })
def State.modGang (s : State) (w g : Nat) (f : Gang → Gang) : State := s.setGang w g (f (s.gang w g))
def State.modLaunch (s : State) (l : Nat) (f : Launch → Launch) : State :=
  { s with sched := { s.sched with launches := Tab.modify s.sched.launches l f } }
def State.modCtx (s : State) (k : Nat) (f : Ctx → Ctx) : State := { s with ctxs := Tab.modify s.ctxs k f }
def State.modVif (s : State) (v : Nat) (f : Vif → Vif) : State := { s with vifs := Tab.modify s.vifs v f }
def State.modEng (s : State) (c : Nat) (f : Engine → Engine) : State := { s with eng := Tab.modify s.eng c f }
def State.modPort (s : State) (p : Nat) (f : Port → Port) : State :=
  { s with fab := { s.fab with ports := Tab.modify s.fab.ports p f } }
def State.modLink (s : State) (p : Nat) (f : Link → Link) : State :=
  { s with fab := { s.fab with links := Tab.modify s.fab.links p f } }
def State.modFab (s : State) (f : Fabric → Fabric) : State := { s with fab := f s.fab }
def State.modPrim (s : State) (f : Prim → Prim) : State := { s with prim := f s.prim }
def State.modSched (s : State) (f : Sched → Sched) : State := { s with sched := f s.sched }
def State.modMs (s : State) (f : MemSys → MemSys) : State := { s with ms := f s.ms }
/-- What agents beside the cores do, on a device that is not locked (R329). -/
def State.unlocked (s : State) (f : State → State) : State := if s.prim.locked then s else f s

def State.toHost (s : State) (r : ToHost) : State := s.modPrim (fun p => { p with out := p.out ++ [r] })

/-- A fresh value of the free counter, and the state that has used it. -/
def State.fresh (s : State) : Nat × State := (s.aux.ctr, { s with aux := { s.aux with ctr := s.aux.ctr + 1 } })

/-! ## Launch headers (R12) -/

def hdrField (h : BitVec 512) (w lo n : Nat) : Nat := fld h.toNat (64 * w + lo) n

/-- Widths w0 to w5. -/
def hdrWidth (h : BitVec 512) (k : Nat) : Nat := hdrField h 0 (6 * k) 6
/-- Extents E0 to E5 (R11). -/
def hdrExt (h : BitVec 512) (k : Nat) : Nat := hdrField h (1 + k / 2) (32 * (k % 2)) 32 + 1
def hdrRegs (h : BitVec 512) : Nat := 16 * (hdrField h 0 36 3 + 1)
def hdrCb (h : BitVec 512) : Bool := hdrField h 0 39 1 == 1
def hdrIdem (h : BitVec 512) : Bool := hdrField h 0 40 1 == 1
def hdrEntry (h : BitVec 512) : Nat := hdrField h 4 0 57
def hdrCstk (h : BitVec 512) : Nat := hdrField h 5 0 10
def hdrKstk (h : BitVec 512) : Nat := hdrField h 5 10 14
def hdrAcck (h : BitVec 512) : Nat := hdrField h 5 24 12
def hdrScalek (h : BitVec 512) : Nat := hdrField h 5 36 9
def hdrClaims (h : BitVec 512) : Nat := hdrField h 5 45 7
def hdrWbmask (h : BitVec 512) : Nat := hdrField h 5 52 8
def hdrArgs (h : BitVec 512) : Nat := hdrField h 6 0 57
def hdrArglen (h : BitVec 512) : Nat := hdrField h 7 0 16

/-- Workgroups of a launch (R11). -/
def hdrWgs (h : BitVec 512) : Nat := hdrExt h 2 * hdrExt h 3 * hdrExt h 4 * hdrExt h 5

/-- Fields 2 to 5 of a workgroup's place in the launch (R292). -/
def ordField (h : BitVec 512) (ord k : Nat) : Nat :=
  match k with
  | 2 => ord % hdrExt h 2
  | 3 => ord / hdrExt h 2 % hdrExt h 3
  | 4 => ord / hdrExt h 2 / hdrExt h 3 % hdrExt h 4
  | _ => ord / hdrExt h 2 / hdrExt h 3 / hdrExt h 4

/-- The work identifier of a thread (R9). -/
def widOf (h : BitVec 512) (ord gang lane : Nat) : Word :=
  let w := hdrWidth h
  let o1 := w 0
  let o2 := o1 + w 1
  let o3 := o2 + w 2
  let o4 := o3 + w 3
  let o5 := o4 + w 4
  word (lane + gang * 2 ^ o1 + ordField h ord 2 * 2 ^ o2 + ordField h ord 3 * 2 ^ o3 + ordField h ord 4 * 2 ^ o4 +
    ordField h ord 5 * 2 ^ o5)

/-! ## Placement and scopes (R81) -/

def clusterOf (core : Nat) : Nat := core / 8
def dieOf (core : Nat) : Nat := core / 96

def State.hdr (s : State) (w : Nat) : BitVec 512 := (s.launch (s.wg w).launch).hdr
/-- Interface × 1024 + context of a workgroup. -/
def State.ctxKey (s : State) (w : Nat) : Nat := (s.launch (s.wg w).launch).ctx
def vifOf (key : Nat) : Nat := key / 1024
def State.wid (s : State) (w g lane : Nat) : Word := widOf (s.hdr w) (s.wg w).ord g lane

/-- Fabric context identifier (R258, SCTX): pod, package, interface, context. -/
def State.ctxid (s : State) (key : Nat) : BitVec 32 :=
  BitVec.ofNat 32 (s.prim.pod.toNat * 2 ^ 25 + s.prim.pkg.toNat * 2 ^ 16 + key)

/-- The instances of a thread, lane first (R81). -/
def State.chain (s : State) (w g lane : Nat) : List Inst :=
  let core := (s.wg w).core
  let key := s.ctxKey w
  [.lane w g lane, .gang w g, .wg w, .clus (clusterOf core), .die (dieOf core), .dev (vifOf key), .fab key]

/-- The instances from cluster up: those of the engines of a workgroup's cluster. -/
def State.engChain (s : State) (w : Nat) : List Inst := (s.chain w 0 0).drop 3

/-- The narrowest instance of a class that contains a thread, as an index into its chain (R89). -/
def classFloor : PathClass → Nat
  | .thread => 0
  | .copy | .matrix => 3
  | .reflect => 4
  | .host => 5

/-- The classes a CLS mask names: bit 0 thread to bit 4 host. -/
def classes (cls : Nat) : List PathClass :=
  (if cls % 2 = 1 then [.thread] else []) ++ (if cls / 2 % 2 = 1 then [.copy] else []) ++
  (if cls / 4 % 2 = 1 then [.matrix] else []) ++ (if cls / 8 % 2 = 1 then [.reflect] else []) ++
  (if cls / 16 % 2 = 1 then [.host] else [])

/-- Release at a scope by a thread, step 2 of R86: the lane's view is pushed instance by instance. A release at lane moves no
view. -/
def State.release (s : State) (w g lane scope : Nat) : State :=
  s.modMs (fun m => m.pushChain .thread ((s.chain w g lane).take (scope + 1)))

/-- Acquire at a scope by a thread, step 2 of R86; at fab the device's reflect view is joined first. -/
def State.acquire (s : State) (w g lane scope : Nat) : State :=
  let dev := Inst.dev (vifOf (s.ctxKey w))
  let s' := if scope = 6 then s.modMs (fun m => m.join dev .reflect dev .thread) else s
  s'.modMs (fun m => m.pullChain .thread ((s.chain w g lane).take (scope + 1)))

/-- Release or acquire by every lane of a mask. -/
def State.releaseAll (s : State) (w g : Nat) (m : Mask) (scope : Nat) : State :=
  (lanesOf m).foldl (fun s i => s.release w g i scope) s
def State.acquireAll (s : State) (w g : Nat) (m : Mask) (scope : Nat) : State :=
  (lanesOf m).foldl (fun s i => s.acquire w g i scope) s

/-- Steps 2 and 3 of R89 along a chain of instances: pushes of every named class up to the scope, then the join there. -/
def MemSys.fenceJoin (m : MemSys) (chain : List Inst) (scope : Nat) (cs : List PathClass) : MemSys :=
  let m := cs.foldl (fun m c => m.pushChain c ((chain.take (scope + 1)).drop (classFloor c))) m
  match chain[scope]? with
  | none => m
  | some si =>
    -- the latest over the named classes, gathered at the first and spread to all
    match cs with
    | [] => m
    | c0 :: rest =>
      let m := rest.foldl (fun m c => m.join si c si c0) m
      rest.foldl (fun m c => m.join si c0 si c) m

/-- FENCEX by a thread (R89); the scope has been raised to the narrowest instance of every named class. -/
def State.fencex (s : State) (w g lane cls scope : Nat) : State :=
  let chain := s.chain w g lane
  let s := s.modMs (fun m => m.fenceJoin chain scope (classes cls))
  if cls % 2 = 1 then s.modMs (fun m => m.pullChain .thread (chain.take (scope + 1))) else s

/-! ## Registers -/

def vKey (lane r : Nat) : Nat := lane * 128 + r

/-- vR of a lane. -/
def Gang.vGet (g : Gang) (lane r : Nat) : Word := Tab.get g.v (vKey lane r)
def Gang.vSet (g : Gang) (lane r : Nat) (x : Word) : Gang := { g with v := Tab.set g.v (vKey lane r) x }

/-- Latch bJ of a lane (R22). -/
def Gang.bGet (g : Gang) (lane j : Nat) : Word := Tab.get g.b (lane * 4 + j)

/-- One result enters the latches of a lane: b3 ← b2, b2 ← b1, b1 ← b0, b0 ← the result (R22). -/
def Gang.latch (g : Gang) (lane : Nat) (x : Word) : Gang :=
  let k := lane * 4
  let b := Tab.set (Tab.set (Tab.set g.b (k + 3) (g.bGet lane 2)) (k + 2) (g.bGet lane 1)) (k + 1) (g.bGet lane 0)
  { g with b := Tab.set b k x }

/-- pN of a lane; p0 reads 1 (R139). -/
def Gang.pGet (g : Gang) (lane n : Nat) : Bool := n == 0 || (Tab.get g.p lane).getLsbD n

/-- pN of a lane written; a write to p0 is discarded (R139). -/
def Gang.pSet (g : Gang) (lane n : Nat) (x : Bool) : Gang :=
  if n = 0 then g
  else
    let old := Tab.get g.p lane
    let bit := BitVec.ofNat 8 (2 ^ n)
    { g with p := Tab.set g.p lane (if x then old ||| bit else old &&& ~~~bit) }

/-- The eight predicates of a lane as bits, p0 reading 1 (R150). -/
def Gang.pAll (g : Gang) (lane : Nat) : Nat := (Tab.get g.p lane).toNat / 2 * 2 + 1

def Gang.kGet (g : Gang) (n : Nat) : Mask := Tab.get g.k n
def Gang.dGet (g : Gang) (n : Nat) : BitVec 256 := Tab.get g.d n
def Gang.thread (g : Gang) (lane : Nat) : Thread := Tab.get g.thr lane
def Gang.modThread (g : Gang) (lane : Nat) (f : Thread → Thread) : Gang := { g with thr := Tab.modify g.thr lane f }
def Gang.modThreads (g : Gang) (m : Mask) (f : Thread → Thread) : Gang :=
  (lanesOf m).foldl (fun g i => g.modThread i f) g

/-- Lanes whose thread satisfies a test. -/
def Gang.lanesWhere (g : Gang) (p : Thread → Bool) : Mask := maskOf ((List.range 32).filter (fun i => p (g.thread i)))

def Gang.live (g : Gang) : Mask := g.lanesWhere (fun t => t.st != .exited)

/-- The v register that an entry of Q(t) will write. -/
def QEntry.dst (e : QEntry) : Option Nat :=
  match e.act with
  | .load dst nw _ | .rmw _ dst nw _ | .rmwMx _ dst nw _ _ => if nw then none else some dst
  | .store .. | .host .. | .window .. => none

/-- The entry as the trap bank's exchange leaves it: a result bound for v120 to v127 follows its register (R21). -/
def QEntry.exchange (e : QEntry) : QEntry := { e with bank := e.bank != e.dst.any (fun r => decide (120 ≤ r ∧ r < 128)) }

/-- The exchange of v120 to v127 and p4 to p7 with the trap bank (R21). -/
def Gang.exchange (g : Gang) : Gang :=
  let inV := g.v.filter (fun e => 120 ≤ e.1 % 128)
  let keep := g.v.filter (fun e => e.1 % 128 < 120)
  let v := g.bankV.foldl (fun t e => Tab.set t (e.1 / 8 * 128 + 120 + e.1 % 8) (Tab.get g.bankV e.1)) keep
  let bank := inV.foldl (fun t e => Tab.set t (e.1 / 128 * 8 + (e.1 % 128 - 120)) (Tab.get g.v e.1)) []
  let swapP := fun (a b : BitVec 8) => (a &&& 0x0F#8) ||| (b &&& 0xF0#8)
  { g with
    v := v
    bankV := bank
    queue := g.queue.map QEntry.exchange
    p := (List.range 32).foldl (fun t i => Tab.set t i (swapP (Tab.get g.p i) (Tab.get g.bankP i))) g.p
    bankP := (List.range 32).foldl (fun t i => Tab.set t i (Tab.get g.p i &&& 0xF0#8)) g.bankP }

/-- Sequence cell qN of a workgroup raised by n modulo 2^64 (R176, R225, R233). -/
def State.addCell (s : State) (w cell n : Nat) : State :=
  s.modWg w (fun r => { r with q := Tab.set r.q cell (Tab.get r.q cell + word n) })

/-! ## Buffer records (R61) -/

def recField (d : BitVec 256) (w lo n : Nat) : Nat := fld d.toNat (64 * w + lo) n
def recKind (d : BitVec 256) : Nat := recField d 0 56 8
def recBase (d : BitVec 256) : Nat := recField d 0 0 56
def recSwz (d : BitVec 256) : Nat := recField d 1 60 4
def recSwp (d : BitVec 256) : Nat := recField d 1 48 12
def recEfmt (d : BitVec 256) : Nat := recField d 1 40 8
def recExtent (d : BitVec 256) : Nat := recField d 1 0 40
def recLstride (d : BitVec 256) : Nat := recField d 2 32 32
def recRowstride (d : BitVec 256) : Nat := recField d 2 0 32
/-- ROWS; 0 reads as 1. -/
def recRows (d : BitVec 256) : Nat := if recField d 3 32 32 = 0 then 1 else recField d 3 32 32
def recScaleix (d : BitVec 256) : Nat := recField d 3 16 16
/-- BEHAV; its reserved bits [15:7] read 0 (R6, R63). -/
def recBehav (d : BitVec 256) : Nat := recField d 3 0 7
def recMxu (d : BitVec 256) : Bool := recField d 3 6 1 == 1
def recPath (d : BitVec 256) : Nat := recField d 3 4 2
def recOobt (d : BitVec 256) : Bool := recField d 3 3 1 == 1
def recA (d : BitVec 256) : Bool := recField d 3 2 1 == 1
def recW (d : BitVec 256) : Bool := recField d 3 1 1 == 1
def recR (d : BitVec 256) : Bool := recField d 3 0 1 == 1

/-- A record from its four words. -/
def recOf (w0 w1 w2 w3 : Nat) : BitVec 256 :=
  BitVec.ofNat 256 (w0 % 2 ^ 64 + w1 % 2 ^ 64 * 2 ^ 64 + w2 % 2 ^ 64 * 2 ^ 128 + w3 % 2 ^ 64 * 2 ^ 192)

/-- A field of a record replaced. -/
def recPut (d : BitVec 256) (w lo n v : Nat) : BitVec 256 :=
  let sh := 64 * w + lo
  BitVec.ofNat 256 (d.toNat - fld d.toNat sh n * 2 ^ sh + v % 2 ^ n * 2 ^ sh)

end Sys2Proof.Machine
end

