-- ==== Sys2Proof/Machine/Translate.lean ====
section
/-! DEFINITION. Two-stage translation: page tables, accessed and dirty bits, the dirty log, cached translations
(spec/05_memory.md R68 to R76, spec/29_system.md R314, R326). -/

namespace Sys2Proof.Machine

/-! ## Physical accesses of the device itself -/

/-- A little-endian number of n bytes of HBM, the latest writes. A table of the host stage or a ring of an interface at an address
beyond HBM is read and written as if HBM went on (log 93). -/
def State.physRead (s : State) (pa n : Nat) : Nat := leNat (s.ms.latest (locs (locHbm pa) n))

/-- Bytes written in units of n bytes by an agent that belongs to no launch (a window unit, the host, the device itself). -/
def State.putOther (s : State) (i : Inst) (c : PathClass) (n : Nat) (xs : List Nat) (bs : List Byte) : State :=
  s.modMs (fun m => (((m.write i c xs bs).tie n xs).clearWhole xs).intoImage xs bs)

/-- The device writes n bytes of HBM, as a thread-class agent at the dev instance of an interface (R82, R319). -/
def State.physWrite (s : State) (vif pa n x : Nat) : State :=
  s.putOther (.dev vif) .thread 8 (locs (locHbm pa) n) (leBytes n x)

/-! ## Registers of interfaces and contexts by index (R317, R318) -/

def State.vreg (s : State) (v i : Nat) : Word := Tab.get (s.vif v).reg i
def State.creg (s : State) (k i : Nat) : Word := Tab.get (s.ctx k).reg i
def State.setVreg (s : State) (v i : Nat) (x : Word) : State := s.modVif v (fun r => { r with reg := Tab.set r.reg i x })
def State.setCreg (s : State) (k i : Nat) (x : Word) : State := s.modCtx k (fun r => { r with reg := Tab.set r.reg i x })

/-! ## Partitions (R314) -/

/-- Partition of a die under a layout code. -/
def partOf (code : Nat) (die : Nat) : Nat :=
  match code with
  | 0 => die
  | 1 => die / 2
  | 2 => 0
  | _ => if die < 2 then 0 else die - 1

/-- Dies of a partition, ascending. -/
def diesOf (code part : Nat) : List Nat := (List.range 4).filter (fun d => partOf code d == part)

/-- The partition of an interface (vicfg.PART, R317). -/
def State.partOfVif (s : State) (v : Nat) : Nat := fld (s.vreg v 0x200).toNat 1 2

/-- The dies an interface reaches. -/
def State.vifDies (s : State) (v : Nat) : List Nat := diesOf s.prim.layout.toNat (s.partOfVif v)

/-- Bytes of HBM: 12 stacks of 64 GiB (R1, R2). -/
def hbmBytes : Nat := 12 * 64 * 2 ^ 30

/-- A device physical frame is HBM of the interface's partition (log 22). -/
def State.inPartition (s : State) (v pa : Nat) : Bool :=
  decide (pa < hbmBytes) && ((s.vifDies v).length == 4 || (s.vifDies v).contains (Config.frameDie (pa / 4096)))

/-- The transmit aperture (R264). -/
def inAperture (pa : Nat) : Bool := fld pa 48 8 == 0xFE

/-- The frame may be reached through a record of the kind (R264, R275, R314, R326). -/
def State.frameOk (s : State) (vif kind pa : Nat) : Bool :=
  if kind = 0x10 then inAperture pa
  else if kind = 2 then !inAperture pa
  else if kind = 3 then !inAperture pa && s.prim.ranges.any (fun r => decide (r.1 ≤ pa ∧ pa < r.1 + r.2))
  else !inAperture pa && s.inPartition vif pa

/-! ## One stage (R69, R70) -/

/-- A page-table entry as a walk read it: where it lies, whether the device may write it, and its value. -/
structure EntryRef where
  pa   : Nat
  can  : Bool
  val  : Nat
  /-- A guest-stage entry: its guest physical page, and the page bits of the host leaf that mapped it. -/
  page : Nat := 0
  bits : Nat := 12
  deriving DecidableEq, Repr, Inhabited

/-- Reading one entry. -/
inductive EntryRead where
  | ok (e : EntryRef) (under : List EntryRef)
  | fault
  | corrupt
  deriving DecidableEq, Repr, Inhabited

/-- A stage's answer: the address, permissions, DISC, D, page size code, the entries used (leaf first), and the entries of
the other stage used to read them. -/
structure Leaf where
  addr  : Nat
  rd    : Bool
  wr    : Bool
  ex    : Bool
  disc  : Bool
  dirty : Bool
  size  : Nat
  refs  : List EntryRef
  under : List EntryRef
  deriving DecidableEq, Repr, Inhabited

inductive Walk where
  | ok (l : Leaf)
  | fault
  | corrupt
  deriving DecidableEq, Repr, Inhabited

/-- Bits of an entry (R69). -/
def entBit (e i : Nat) : Bool := fld e i 1 == 1
def entFrame (e : Nat) : Nat := fld e 12 44 * 4096

/-- A reserved field of a valid entry is nonzero. -/
def entReserved (e : Nat) : Bool := fld e 60 4 != 0 || fld e 56 3 != 0 || fld e 10 2 != 0 || fld e 1 2 != 0

/-- Page bits of a leaf at a level. -/
def leafBits (lvl : Nat) : Nat := if lvl = 3 then 30 else if lvl = 4 then 21 else 12

/-- Page bits of a page size code: 0 4 KiB, 1 64 KiB, 2 2 MiB, 3 1 GiB (R69, R75). -/
def sizeBits (size : Nat) : Nat := if size = 0 then 12 else if size = 1 then 16 else if size = 2 then 21 else 30

/-- The entries of a 64 KiB page agree (R70): given the first entry and the sixteen values. -/
def groupOk (vals : List Nat) : Bool :=
  let e0 := vals.headD 0
  entFrame e0 % 65536 == 0 &&
  ((List.range 16).zip vals).all (fun (j, e) =>
    entBit e 0 && entBit e 9 && entBit e 6 && !entReserved e && entFrame e == entFrame e0 + j * 4096 &&
    fld e 3 3 == fld e0 3 3 && entBit e 59 == entBit e0 59)

/-- Reads of several entries, all of which must succeed. -/
def readAll (rd : Nat → EntryRead) : List Nat → Option (List EntryRef)
  | [] => some []
  | a :: l =>
    match rd a, readAll rd l with
    | .ok e _, some r => some (e :: r)
    | _, _ => none

/-- The walk from a level down (R70). -/
def walkFrom (rd : Nat → EntryRead) (va : Nat) (fuel lvl table : Nat) (pr pw px : Bool) (refs under : List EntryRef) : Walk :=
  match fuel with
  | 0 => .corrupt
  | fuel + 1 =>
    let idx := fld va (48 - 9 * (lvl - 1)) 9
    match rd (table + idx * 8) with
    | .fault => .fault
    | .corrupt => .corrupt
    | .ok e u =>
      let v := e.val
      if !entBit v 0 then .fault
      else if entReserved v then .corrupt
      else
        let pr := pr && entBit v 3
        let pw := pw && entBit v 4
        let px := px && entBit v 5
        if entBit v 6 then
          if lvl ≤ 2 then .corrupt
          else
            let bits := leafBits lvl
            if lvl < 5 ∧ entFrame v % 2 ^ bits ≠ 0 then .corrupt
            else if lvl = 5 ∧ entBit v 9 then
              match readAll rd ((List.range 16).map (fun j => table + (idx / 16 * 16 + j) * 8)) with
              | none => .corrupt
              | some es =>
                if groupOk (es.map EntryRef.val) then
                  let e0 := es.headD default
                  .ok { addr := entFrame v + va % 4096, rd := pr, wr := pw, ex := px, disc := entBit v 59,
                        dirty := entBit e0.val 8, size := 1, refs := e0 :: refs, under := u ++ under }
                else .corrupt
            else
              .ok { addr := entFrame v + va % 2 ^ bits, rd := pr, wr := pw, ex := px, disc := entBit v 59,
                    dirty := entBit v 8, size := if lvl = 5 then 0 else if lvl = 4 then 2 else 3, refs := e :: refs,
                    under := u ++ under }
        else if lvl = 5 then .corrupt
        else walkFrom rd va fuel (lvl + 1) (entFrame v) pr pw px (e :: refs) (u ++ under)

/-- The host stage of an interface (R71): guest physical to device physical. -/
def State.hostWalk (s : State) (vif gpa : Nat) : Walk :=
  let root := (s.vreg vif 0x201).toNat
  if root % 2 = 0 ∨ 2 ^ 57 ≤ gpa then .fault
  else
    walkFrom (fun a => .ok { pa := a, can := true, val := s.physRead a 8 } []) gpa 5 1 (fld root 12 44 * 4096) true true true
      [] []

/-- A guest-stage table read: translated and permitted at the host stage (R71, R314). DISC of its page changes nothing (log 82). -/
def State.guestRead (s : State) (vif gpa : Nat) : EntryRead :=
  match s.hostWalk vif gpa with
  | .fault => .fault
  | .corrupt => .corrupt
  | .ok l => if l.rd && s.frameOk vif 1 l.addr then
      .ok { pa := l.addr, can := l.wr, val := s.physRead l.addr 8, page := gpa / 4096, bits := sizeBits l.size } l.refs
    else .fault

/-- What the guest stage answers: its own fault, or one of the host stage met while reading its tables. -/
inductive GuestWalk where
  | ok (l : Leaf)
  | fault (host : Bool)
  | corrupt
  deriving DecidableEq, Repr, Inhabited

/-- The guest stage of a context. -/
def State.guestWalk (s : State) (key va : Nat) : GuestWalk :=
  let root := (s.creg key 0x300).toNat
  if root % 2 = 0 ∨ 2 ^ 57 ≤ va then .fault false
  else
    -- a host-stage fault of a table read is told apart from an entry that is not valid by walking with a total reader
    let rd := s.guestRead (vifOf key)
    match walkFrom rd va 5 1 (fld root 12 44 * 4096) true true true [] [] with
    | .ok l => .ok l
    | .corrupt => .corrupt
    | .fault =>
      let soft := fun a => match rd a with
        | .fault => EntryRead.corrupt
        | r => r
      match walkFrom soft va 5 1 (fld root 12 44 * 4096) true true true [] [] with
      | .fault => .fault false
      | _ => .fault true

/-! ## Both stages -/

/-- An access as translation sees it: what it needs, whether its first write is logged (R75), and the record kind it goes
through (0x10: the transmit aperture; 0x02, 0x03: host physical memory). -/
structure Access where
  rd   : Bool
  wr   : Bool
  ex   : Bool := false
  kind : Nat := 1
  deriving DecidableEq, Repr, Inhabited

/-- The outcome of a translation: a physical address with its guest physical address and the stage that marks the page
discarded (some true: host), or what stops it. -/
inductive Xlat where
  | ok (pa gpa : Nat) (disc : Option Bool)
  /-- Translation fault at the guest or the host stage; perm: a missing permission rather than an entry that is not valid. -/
  | fault (host perm : Bool)
  | corrupt
  | dirtyFull (gpa : Nat)
  deriving DecidableEq, Repr, Inhabited

/-- Set bits of an entry. -/
def State.setEntry (s : State) (vif : Nat) (e : EntryRef) (mask : Nat) : State :=
  let v := s.physRead e.pa 8
  if Nat.land v mask = mask then s else s.physWrite vif e.pa 8 (Nat.lor v mask)

/-- AC of every entry used, D of the leaf for a write (R69, R75). -/
def State.touch (s : State) (vif : Nat) (refs : List EntryRef) (wr : Bool) : State :=
  let s := refs.foldl (fun s e => s.setEntry vif e 0x80) s
  if wr then (match refs.head? with | some e => s.setEntry vif e 0x100 | none => s) else s

/-- The device can set the bits it must in the guest-stage entries (R71). -/
def canTouch (refs : List EntryRef) (wr : Bool) : Bool :=
  refs.all (fun e => e.can || entBit e.val 7) && (match refs.head? with | some e => !wr || e.can || entBit e.val 8 | none => true)

/-- A dirty log entry (R75). -/
def dirtyEntry (gpa size : Nat) : Nat :=
  let bits := sizeBits size
  gpa % 2 ^ 57 / 2 ^ bits * 2 ^ bits + size

/-- Append to the dirty log of an interface if it is enabled (R75, R319); none: the ring is full (R76). -/
def State.logDirty (s : State) (vif gpa size : Nat) : Option State :=
  let base := (s.vreg vif 0x202).toNat
  let head := (s.vreg vif 0x203).toNat
  let tail := (s.vreg vif 0x204).toNat
  if base % 2 = 0 then some s
  else if (head + 2 ^ 32 - tail) % 2 ^ 32 = 4096 then none
  else
    let s := s.physWrite vif (fld base 15 41 * 32768 + head % 4096 * 8) 8 (dirtyEntry gpa size)
    some (s.setVreg vif 0x203 (word ((head + 1) % 2 ^ 32)))

/-- Replace or add a cached translation. -/
def State.cache (s : State) (r : TlbRow) : State :=
  s.modMs (fun m => { m with tlb := r :: m.tlb.filter (fun t => !(t.vif == r.vif && t.ctx == r.ctx && t.vpage == r.vpage)) })

/-- The cached translation of a page, when the oracle says that it is used (R288). -/
def State.cached (s : State) (key va : Nat) (a : Access) : Option TlbRow :=
  if s.aux.hits.headD false then
    s.ms.tlb.find? (fun t => t.ctx == key && t.vpage == va / 4096 && (!a.wr || t.dirty))
  else none

/-- Translate a virtual address through both stages, setting accessed and dirty bits and logging (R68 to R76). A walk that ends in a
fault or at a full ring sets no bit (log 81). -/
def State.translate (s : State) (key va : Nat) (a : Access) : Xlat × State :=
  let vif := vifOf key
  let hit := s.cached key va a
  let s := { s with aux := { s.aux with hits := s.aux.hits.drop 1 } }
  match hit with
  | some t =>
    if (a.rd && !t.rd) || (a.wr && !t.wr) || (a.ex && !t.ex) then (.fault false true, s)
    else if (a.rd && !t.hrd) || (a.wr && !t.hwr) || (a.ex && !t.hex) || !s.frameOk vif a.kind (t.frame * 4096 + va % 4096) then
      (.fault true true, s)
    else
      (.ok (t.frame * 4096 + va % 4096) (t.gpage * 4096 + va % 4096)
        (if t.gdisc then some false else if t.hdisc then some true else none), s)
  | none =>
    match s.guestWalk key va with
    | .corrupt => (.corrupt, s)
    | .fault host => (.fault host false, s)
    | .ok g =>
      if (a.rd && !g.rd) || (a.wr && !g.wr) || (a.ex && !g.ex) then (.fault false true, s)
      else
        match s.hostWalk vif g.addr with
        | .corrupt => (.corrupt, s)
        | .fault => (.fault true false, s)
        | .ok h =>
          if (a.rd && !h.rd) || (a.wr && !h.wr) || (a.ex && !h.ex) || !s.frameOk vif a.kind h.addr then (.fault true true, s)
          else
            let disc := if g.disc then some false else if h.disc then some true else none
            let wr := a.wr && disc.isNone
            if !canTouch g.refs wr then (.fault true false, s)
            else
              let logged := if wr && !h.dirty then s.logDirty vif g.addr h.size else some s
              match logged with
              | none => (.dirtyFull g.addr, s)
              | some s =>
                let s := s.touch vif g.under false
                let s := s.touch vif g.refs wr
                let s := s.touch vif h.refs wr
                let s := s.cache { vif := vif, ctx := key, vpage := va / 4096, gpage := g.addr / 4096, frame := h.addr / 4096,
                                   rd := g.rd, wr := g.wr, ex := g.ex, hrd := h.rd, hwr := h.wr, hex := h.ex,
                                   gbits := sizeBits g.size, hbits := sizeBits h.size, via := g.refs.map (fun e => (e.page, e.bits)), gdisc := g.disc,
                                   hdisc := h.disc, dirty := wr || (g.dirty && h.dirty) }
                (.ok h.addr g.addr disc, s)

/-- The cached translation of a page of a context, as a walk has just left it. -/
def State.tlbRow (s : State) (key page : Nat) : TlbRow :=
  (s.ms.tlb.find? (fun t => t.ctx == key && t.vpage == page)).getD default

/-- Translate without changing anything: the address, if the access is permitted now. -/
def State.peek (s : State) (key va : Nat) (a : Access) : Option Nat :=
  match (s.translate key va a).1 with
  | .ok pa _ none => some pa
  | _ => none

/-- A guest physical address at the host stage alone, with write permission, for the structures a context register names (R318): the
address, a fault, or a corrupted table. -/
def State.hostAddr (s : State) (vif gpa : Nat) : Xlat × State :=
  match s.hostWalk vif gpa with
  | .ok l => if l.wr && s.frameOk vif 1 l.addr then (.ok l.addr gpa none, s.touch vif l.refs false) else (.fault true true, s)
  | .fault => (.fault true false, s)
  | .corrupt => (.corrupt, s)

/-- The page of a virtual address is discarded at some stage (R74). -/
def State.stillDiscarded (s : State) (key va : Nat) : Bool :=
  match s.guestWalk key va with
  | .ok g => g.disc || (match s.hostWalk (vifOf key) g.addr with
    | .ok h => h.disc
    | _ => false)
  | _ => false

end Sys2Proof.Machine
end

