-- ==== Sys2Proof/Machine/Records.lean ====
section
/-! DEFINITION. What the device writes for software: rings, fault reports, execution, error and event records, origin entries
(spec/27_control.md R299, R311, spec/23_fabric.md R270, R271, spec/29_system.md R319). -/

namespace Sys2Proof.Machine

/-! ## Rings (R319) -/

/-- Where the pin of a page of a register's structure is kept. -/
def pinKey (idx page : Nat) : Nat := idx * 2 ^ 45 + page

/-- The device physical address of a guest physical one inside the structure that a register of a context pins. -/
def State.pinned (s : State) (key idx gpa : Nat) : Nat :=
  (Tab.get (s.ctx key).pins (pinKey idx (gpa / 4096)) - 1) * 4096 + gpa % 4096

/-- The page of a guest physical address is pinned by a register. -/
def State.isPinned (s : State) (key idx gpa : Nat) : Bool := Tab.get (s.ctx key).pins (pinKey idx (gpa / 4096)) != 0

/-- A ring of a context: index of its base register (head and tail follow), lowest base bit, entries, bytes of one. -/
structure Ring where
  base : Nat
  lo   : Nat
  n    : Nat
  size : Nat
  deriving DecidableEq, Repr, Inhabited

def fqRing : Ring := { base := 0x305, lo := 14, n := 512, size := 32 }
def evRing : Ring := { base := 0x309, lo := 13, n := 256, size := 32 }

/-- head − tail, modulo 2^32. -/
def ringFill (head tail : Word) : Nat := (head.toNat + 2 ^ 32 - tail.toNat % 2 ^ 32) % 2 ^ 32

/-- Write the next entry of a context's ring; none when EN is 0 or the ring is full: head − tail is the number of entries (R319). -/
def State.ctxRing (s : State) (key : Nat) (r : Ring) (x : Nat) : Option State :=
  let base := (s.creg key r.base).toNat
  let head := s.creg key (r.base + 1)
  if base % 2 = 0 ∨ ringFill head (s.creg key (r.base + 2)) = r.n then none
  else
    let gpa := fld base r.lo (56 - r.lo) * 2 ^ r.lo + head.toNat % r.n * r.size
    let s := s.physWrite (vifOf key) (s.pinned key r.base gpa) r.size x
    some (s.setCreg key (r.base + 1) (word ((head.toNat + 1) % 2 ^ 32)))

/-- A record that is dropped, setting OVF, when the ring does not take it. -/
def State.ctxRecord (s : State) (key : Nat) (r : Ring) (x : Nat) : State :=
  if (s.ctx key).present then
    match s.ctxRing key r x with
    | some s => s
    | none => s.setCreg key r.base (s.creg key r.base ||| 2#64)
  else s

/-- Write the next entry of a ring of an interface, whose base is device physical. The host-stage fault queue is never full, since the
quota of R299 holds a place for every report in it. -/
def State.vifRing (s : State) (vif base lo n size x : Nat) : Option State :=
  let b := (s.vreg vif base).toNat
  let head := s.vreg vif (base + 1)
  if b % 2 = 0 ∨ (base ≠ 0x205 ∧ ringFill head (s.vreg vif (base + 2)) = n) then none
  else
    let s := s.physWrite vif (fld b lo (56 - lo) * 2 ^ lo + head.toNat % n * size) size x
    some (s.setVreg vif (base + 1) (word ((head.toNat + 1) % 2 ^ 32)))

/-! ## Fault reports (R299, R320) -/

/-- The 32 bytes of a fault report. -/
def reportBytes (reason : Nat) (host wr : Bool) (key : Nat) (token : BitVec 32) (addr wid : Word) (launch : BitVec 32)
    (mask : Mask) : BitVec 256 :=
  recOf (reason * 2 ^ 56 + bitN host * 2 ^ 55 + bitN wr * 2 ^ 54 + vifOf key * 2 ^ 48 + key % 1024 * 2 ^ 38 + token.toNat)
    (addr.toNat % 2 ^ 57) wid.toNat (launch.toNat * 2 ^ 32 + mask.toNat)

/-- Reports of an interface that are sent and not answered. -/
def Sched.outstanding (c : Sched) (vif : Nat) : Nat := (c.reports.filter (fun r => r.written && r.vif == vif)).length

/-- Send a waiting report if the quota has a place and its queue takes it (R299, R319). -/
def State.sendReport (s : State) (r : Report) : Option State :=
  if 256 ≤ s.sched.outstanding r.vif then none
  else
    match r.queue with
    | .guest key => s.ctxRing key fqRing r.bytes.toNat
    | .host vif => s.vifRing vif 0x205 13 256 32 r.bytes.toNat

/-- Send every waiting report that can be sent, in the order in which they waited. -/
def State.flushReports (s : State) : State :=
  (s.sched.reports.map Report.num).foldl (fun s t =>
    match s.sched.reports.find? (fun r => r.num == t) with
    | none => s
    | some r =>
      if r.written then s
      else
        match s.sendReport r with
        | none => s
        | some s => s.modSched (fun c => { c with
            reports := c.reports.map (fun q => if q.num == t then { q with written := true, counted := true } else q) })) s

/-- Make a report about a park and send it or let it wait (QUOTA, R299); answers its number. -/
def State.report (s : State) (queue : FaultQueue) (reason : Nat) (host wr : Bool) (addr : Word) (w g park : Nat)
    (mask : Mask) : Nat × State :=
  let key := s.ctxKey w
  let num := s.sched.nextReport
  let token := Config.reportToken num
  let lane := (lowest mask).getD 0
  let r : Report :=
    { num := num, token := token, queue := queue, vif := vifOf key,
      bytes := reportBytes reason host wr key token addr (s.wid w g lane) (s.launch (s.wg w).launch).id mask,
      written := false, counted := false, wg := w, gang := g, park := park }
  let s := s.modSched (fun c => { c with reports := c.reports ++ [r], nextReport := c.nextReport + 1 })
  (num, s.flushReports)

/-- A report is a full-ring exit (R76). -/
def Report.isExit (r : Report) : Bool := fld r.bytes.toNat 56 8 == 4

/-- Reports about parks that are gone are withdrawn; a full-ring exit keeps its place until it is answered (R76). -/
def State.withdrawReports (s : State) (p : Report → Bool) : State :=
  (s.modSched (fun c => { c with reports := c.reports.filter (fun r => r.isExit || !p r) })).flushReports

/-- An answered or withdrawn report frees its place; the longest-waiting report is sent (R299). -/
def State.dropReport (s : State) (num : Nat) : State :=
  (s.modSched (fun c => { c with reports := c.reports.filter (fun r => r.num != num) })).flushReports

/-! ## Execution records (R311) -/

/-- The 32 bytes of an execution record. -/
def ExecRec.bytes (r : ExecRec) : Nat :=
  (recOf (r.code * 2 ^ 56 + r.cause * 2 ^ 48 + r.reason * 2 ^ 40 + bitN r.nested * 2 ^ 39 + bitN r.relaunch * 2 ^ 38 +
      r.launch.toNat)
    r.wid.toNat (codeAddr r.pc).toNat (r.tmask.toNat * 2 ^ 32 + r.tinfo.toNat % 2 ^ 32)).toNat

def State.execRecord (s : State) (key : Nat) (r : ExecRec) : State := s.ctxRecord key fqRing r.bytes

/-! ## Origins, error and event records (R270, R271) -/

/-- Record an origin entry on the issuing core. -/
def State.origin (s : State) (w g : Nat) (lane : Nat) (pc : Word) : Origin × State :=
  let core := (s.wg w).core
  let n := Tab.get s.sched.originNext core
  let o : Origin := { core := core, idx := n % 256, stamp := BitVec.ofNat 24 n, launch := (s.launch (s.wg w).launch).id,
                      pc := pc, wid := s.wid w g lane }
  (o, s.modSched (fun c => { c with origins := Tab.set c.origins (core * 256 + n % 256) o,
                                    originNext := Tab.set c.originNext core (n + 1) }))

/-- The entry of an origin is no longer in the ring. -/
def State.originLost (s : State) (o : Origin) : Bool :=
  (Tab.get s.sched.origins (o.core * 256 + o.idx)).stamp != o.stamp

/-- The entry that an origin names, if the ring still holds it. -/
def State.ringEntry (s : State) (o : Origin) : Origin :=
  if s.originLost o then o else Tab.get s.sched.origins (o.core * 256 + o.idx)

/-- An error record (R271). -/
def errorBytes (code pkind peer : Nat) (lost : Bool) (o : Origin) (rwin woff : Nat) : BitVec 256 :=
  recOf (code * 2 ^ 56 + pkind * 2 ^ 50 + peer * 2 ^ 41 + bitN lost * 2 ^ 40 + o.launch.toNat)
    (if lost then 0 else o.wid.toNat) (if lost then 0 else (codeAddr o.pc).toNat) (rwin * 2 ^ 52 + woff % 2 ^ 32)

/-- Send an error record to the event queue of a sender context on this package, and to the host for codes 0x03 and 0x05. -/
def State.errorRecord (s : State) (key code pkind peer : Nat) (o : Origin) (rwin woff : Nat) : State :=
  let e := { s.ringEntry o with launch := o.launch }
  let x := errorBytes code pkind peer (s.originLost o) e rwin woff
  let s := s.ctxRecord key evRing x.toNat
  if code = 3 ∨ code = 5 then s.toHost (.record x) else s

/-- What the valid entries from a table down map (R70): first address, page bits, frame address. -/
def leavesFrom (rd : Nat → Option Nat) : Nat → Nat → Nat → Nat → List (Nat × Nat × Nat)
  | 0, _, _, _ => []
  | fuel + 1, lvl, table, base =>
    (List.range 512).flatMap (fun i =>
      match rd (table + i * 8) with
      | none => []
      | some e =>
        let va := base + i * 2 ^ (48 - 9 * (lvl - 1))
        if !entBit e 0 || entReserved e then []
        else if entBit e 6 then (if lvl ≤ 2 then [] else [(va, leafBits lvl, entFrame e)])
        else if lvl = 5 then []
        else leavesFrom rd fuel (lvl + 1) (entFrame e) va)

/-- The leaves of an interface's host stage, and of a context's guest stage. -/
def State.hostLeaves (s : State) (vif : Nat) : List (Nat × Nat × Nat) :=
  let root := (s.vreg vif 0x201).toNat
  if root % 2 = 0 then [] else leavesFrom (fun a => some (s.physRead a 8)) 5 1 (fld root 12 44 * 4096) 0
def State.guestLeaves (s : State) (key : Nat) : List (Nat × Nat × Nat) :=
  let root := (s.creg key 0x300).toNat
  let rd := fun (a : Nat) => match s.guestRead (vifOf key) a with
    | .ok e _ => some e.val
    | .fault | .corrupt => none
  if root % 2 = 0 then [] else leavesFrom rd 5 1 (fld root 12 44 * 4096) 0

/-- A range of device physical addresses meets the aperture of a transmit window with an index and an entry (R264). -/
def meetsWindow (lo hi idx : Nat) (e : BitVec 256) : Bool :=
  (List.range 16).any (fun q =>
    let a := (0xFE * 16 + q) * 2 ^ 44 + idx * 2 ^ 32
    decide (lo < a + fld e.toNat 0 32 + 1 ∧ a < hi))

/-- A context holds a mapped transmit window (R271): some page of its space reaches a valid entry of its interface's table. -/
def State.hasTxWindow (s : State) (key : Nat) : Bool :=
  let wins := (s.vif (vifOf key)).txw.filter (fun e => e.2.getLsbD 63)
  (s.ctx key).present && !wins.isEmpty &&
    (s.guestLeaves key).any (fun g => (s.hostLeaves (vifOf key)).any (fun h =>
      let lo := Nat.max g.2.2 h.1
      let hi := Nat.min (g.2.2 + 2 ^ g.2.1) (h.1 + 2 ^ h.2.1)
      decide (lo < hi) && wins.any (fun w => meetsWindow (h.2.2 + (lo - h.1)) (h.2.2 + (hi - h.1)) w.1 w.2)))

/-- A fabric event record (R271), to every context with a mapped transmit window and to the host. -/
def State.eventRecord (s : State) (code peer port md : Nat) (old new : BitVec 16) : State :=
  let x := recOf (code * 2 ^ 56 + peer * 2 ^ 41 + port * 2 ^ 36 + md * 2 ^ 32) s.cycle (old.toNat * 2 ^ 16 + new.toNat) 0
  let s := (Tab.keys s.ctxs).foldl (fun s k => if s.hasTxWindow k then s.ctxRecord k evRing x.toNat else s) s
  s.toHost (.record x)

end Sys2Proof.Machine
end

