-- ==== Sys2Proof/Machine/Packets.lean ====
section
/-! DEFINITION. Transport packets: header fields and the control packets a package sends (spec/23_fabric.md R258 to R261). -/

namespace Sys2Proof.Machine

/-- A header field: word w, bits [lo+n-1:lo] (R258). -/
def hf (h : BitVec 576) (w lo n : Nat) : Nat := fld h.toNat (64 * w + lo) n

/-- A header from its nine words. -/
def hdrOf (ws : List Nat) : BitVec 576 :=
  BitVec.ofNat 576 (ws.foldr (fun x acc => x % 2 ^ 64 + 2 ^ 64 * acc) 0)

/-- A header field replaced. -/
def hdrPut (h : BitVec 576) (w lo n v : Nat) : BitVec 576 :=
  let sh := 64 * w + lo
  BitVec.ofNat 576 (h.toNat - fld h.toNat sh n * 2 ^ sh + v % 2 ^ n * 2 ^ sh)

def pkKind (h : BitVec 576) : Nat := hf h 0 58 6
def pkTc (h : BitVec 576) : Nat := hf h 0 56 2
def pkOrd (h : BitVec 576) : Bool := hf h 0 54 1 == 1
def pkPath (h : BitVec 576) : Nat := hf h 0 52 2
def pkDpod (h : BitVec 576) : Nat := hf h 0 45 7
def pkDpkg (h : BitVec 576) : Nat := hf h 0 36 9
def pkSpod (h : BitVec 576) : Nat := hf h 0 29 7
def pkSpkg (h : BitVec 576) : Nat := hf h 0 20 9
def pkDlen (h : BitVec 576) : Nat := hf h 0 0 11
def pkSctx (h : BitVec 576) : BitVec 32 := BitVec.ofNat 32 (hf h 1 32 32)
def pkPseq (h : BitVec 576) : Nat := hf h 1 16 16
def pkOseq (h : BitVec 576) : Nat := hf h 1 0 16
def pkRwin (h : BitVec 576) : Nat := hf h 2 52 12
def pkWoff (h : BitVec 576) : Nat := hf h 2 0 32
def pkPmask (h : BitVec 576) : Nat := hf h 3 48 16
def pkRop (h : BitVec 576) : Nat := hf h 3 44 4
def pkNctr (h : BitVec 576) : Nat := hf h 4 0 64
def pkKa (h : BitVec 576) : Nat := hf h 5 0 32
def pkKb (h : BitVec 576) : Nat := hf h 6 0 64
def pkKc (h : BitVec 576) : Nat := hf h 7 0 64
def pkKd (h : BitVec 576) : Nat := hf h 8 0 64

/-- Word 0 of a header from this package. -/
def State.hdrWord0 (s : State) (kind tc : Nat) (ord : Bool) (path dpod dpkg dlen : Nat) : Nat :=
  kind * 2 ^ 58 + tc * 2 ^ 56 + bitN ord * 2 ^ 54 + path * 2 ^ 52 + dpod * 2 ^ 45 + dpkg * 2 ^ 36 +
    s.prim.pod.toNat * 2 ^ 29 + s.prim.pkg.toNat * 2 ^ 20 + dlen

/-- Origin fields of word 3 (R270). -/
def originWord (o : Origin) : Nat := o.core * 2 ^ 35 + o.idx * 2 ^ 27 + o.stamp.toNat

/-- Put a value under a key of a short list. -/
def assocPut {α β : Type} [DecidableEq α] (l : List (α × β)) (k : α) (v : β) : List (α × β) :=
  (k, v) :: l.filter (fun e => e.1 ≠ k)

def assocGet {α β : Type} [DecidableEq α] (l : List (α × β)) (k : α) (d : β) : β :=
  match l.find? (fun e => e.1 = k) with
  | some e => e.2
  | none => d

/-- Queue a control packet (classes 1 and 2) to a package. -/
def State.sendCtl (s : State) (kind tc dpod dpkg : Nat) (sctx : BitVec 32) (path rwin : Nat) (o : Origin) (ka kb kc : Nat)
    (data : List Byte) (kd : Nat := 0) (pseq : Nat := 0) : State :=
  let hdr := hdrOf [s.hdrWord0 kind tc false path dpod dpkg data.length, sctx.toNat * 2 ^ 32 + pseq * 2 ^ 16, rwin * 2 ^ 52, originWord o, 0,
                    o.launch.toNat * 2 ^ 32 + ka, kb, kc, kd]
  s.modFab (fun f => { f with ctl := f.ctl ++
    [{ hdr := hdr, data := data, tag := [], ents := [], sent := false, since := s.cycle }] })

/-- ACK of one packet of a queue, with its status (R259). -/
def State.sendAck (s : State) (h : BitVec 576) (status : Nat) : State :=
  s.sendCtl 4 1 (pkSpod h) (pkSpkg h) (pkSctx h) (pkPath h) (pkRwin h) default 0
    (pkPseq h * 2 ^ 48 + pkPseq h * 2 ^ 32 + status * 2 ^ 24) 0 []

/-- HAND to the serving window unit of a receive window at a package (R238, R259); KD numbers the request (log 75). -/
def State.sendHand (s : State) (dpod dpkg : Nat) (sctx : BitVec 32) (rwin woff len : Nat) (release : Bool) (ask : Nat) : State :=
  s.sendCtl 5 2 dpod dpkg sctx 0 rwin default 0 (woff * 2 ^ 32 + len) (bitN release) [] ask

/-- HANDRSP to a HAND, with its code; KC and KD of the HAND are repeated, so that the sender knows the request (log 75). The answer is kept
for a duplicate of the HAND (R261). -/
def State.answerHand (s : State) (h : Handshake) (code : Nat) : State :=
  let s := s.modFab (fun f => { f with handAnswers := assocPut f.handAnswers h code })
  s.sendCtl 6 2 (h.sctx.toNat / 2 ^ 25) h.pkg.toNat h.sctx 0 h.rwin.toNat default 0 (code * 2 ^ 24) (bitN h.release) [] h.ask.toNat

/-- Primrose's notice to a claiming package that a receive window no longer takes a sender's writes: a MGMT packet without data
(R242, R259, log 61). -/
def State.sendNotice (s : State) (dpod dpkg : Nat) (sctx : BitVec 32) (rwin : Nat) : State :=
  s.sendCtl 9 3 dpod dpkg sctx 0 rwin default 0 0 0 []

/-- Transmit window table entry fields (R264). -/
def txField (e : BitVec 256) (w lo n : Nat) : Nat := recField e w lo n
def txValid (e : BitVec 256) : Bool := txField e 0 63 1 == 1
def txMc (e : BitVec 256) : Bool := txField e 0 62 1 == 1
def txRwin (e : BitVec 256) : Nat := txField e 0 48 12
def txSize (e : BitVec 256) : Nat := txField e 0 0 32
def txCount (e : BitVec 256) : Nat := if txMc e then txField e 0 44 4 + 1 else 1
/-- An entry as the table holds it: reserved bits read 0 (R6, R264). -/
def txClean (e : BitVec 256) : BitVec 256 :=
  let mems := 0x1FF * (1 + 2 ^ 12 + 2 ^ 24 + 2 ^ 36 + 2 ^ 48)
  let rest := if txMc e then mems * (1 + 2 ^ 64 + 2 ^ 128) else 0x7F
  e &&& BitVec.ofNat 256 (0xCFFFFFF8FFFFFFFF + 2 ^ 64 * rest)

/-- Package of member k. -/
def txMember (e : BitVec 256) (k : Nat) : Nat :=
  if k = 0 then txField e 0 35 9 else txField e (1 + (k - 1) / 5) (12 * ((k - 1) % 5)) 9
/-- Pod that a window's packets carry (R264). -/
def State.txPod (s : State) (e : BitVec 256) : Nat := if txMc e then s.prim.pod.toNat else txField e 1 0 7

/-- The credits granted under some requests go back to the members of a window (R236). -/
def State.releaseHands (s : State) (e : BitVec 256) (sctx : BitVec 32) (len : Nat) (l : List Hand) : State :=
  (l.filter Hand.granted).foldl (fun s h => s.sendHand (s.txPod e) h.pkg.toNat sctx (txRwin e) 0 len true h.ask) s

/-- Receive window table entry fields (R265). -/
def rxValid (e : BitVec 256) : Bool := recField e 0 63 1 == 1
def rxRed (e : BitVec 256) : Bool := recField e 0 62 1 == 1
def rxSvc (e : BitVec 256) : Bool := recField e 0 61 1 == 1
def rxSize (e : BitVec 256) : Nat := recField e 0 0 32
def rxBase (e : BitVec 256) : Nat := recField e 1 0 57
def rxPctx (e : BitVec 256) : Nat := recField e 2 32 32
def rxPmsk (e : BitVec 256) : Nat := recField e 2 0 32
def rxOwner (e : BitVec 256) : Nat := recField e 3 0 32
/-- The owner's context key. -/
def rxKey (e : BitVec 256) : Nat := rxOwner e % 65536

/-- A sender identifier agrees with a pattern on every bit set in a mask. -/
def maskAgree (s pat msk : Nat) : Bool := Nat.land s msk == Nat.land pat msk

/-- The die of the serving window unit of a receive window (R265). -/
def State.servingDie (s : State) (rwin : Nat) : Nat :=
  let e := Tab.get s.fab.rxw rwin
  let ds := s.vifDies (vifOf (rxKey e))
  ds.getD (rwin % ds.length) 0

/-- A package number names this package. -/
def State.isSelf (s : State) (pod pkg : Nat) : Bool := pod == s.prim.pod.toNat && pkg == s.prim.pkg.toNat

end Sys2Proof.Machine
end

