-- ==== Sys2Proof/Machine/Route.lean ====
section
/-! DEFINITION. Ports, their registers, and which packages can be reached (spec/23_fabric.md R248 to R251, R255, R272). -/

namespace Sys2Proof.Machine

/-! ## zpcfg and zpstat (R250) -/

/-- RTHR; values of 32 and more act as 31. -/
def cfgRthr (x : Word) : Nat := Nat.min (fld x.toNat 40 8) 31
def cfgWakeq (x : Word) : Nat := fld x.toNat 32 8
def cfgIdle (x : Word) : Nat := fld x.toNat 16 16
/-- PARK; 3 acts as 0. -/
def cfgPark (x : Word) : Nat := if fld x.toNat 4 2 = 3 then 0 else fld x.toNat 4 2
def cfgStatic (x : Word) : Bool := x.getLsbD 2
def cfgEn (x : Word) : Bool := x.getLsbD 0

def statLost (x : Word) : Nat := fld x.toNat 48 16
def statTxlit (x : Word) : Nat := fld x.toNat 32 16
def statRxlit (x : Word) : Nat := fld x.toNat 16 16
def statState (x : Word) : Nat := fld x.toNat 0 3

/-- The widths of R249. -/
def widths : List Nat := [16, 12, 8, 6, 4, 3, 2, 1]

/-- The code of the width over some lit wavelengths: 0 to 7, or 15 dark. -/
def widthCode (lit : Nat) : Nat :=
  let n := popCount 16 lit
  if n = 0 then 15 else (widths.takeWhile (fun w => decide (n < w))).length

/-- Flits of one slot at a width code (R252). -/
def flitsPerSlot (code : Nat) : Nat := [308, 231, 154, 115, 77, 57, 38, 19].getD code 0

/-- zpstat from its parts. -/
def statOf (lost txlit rxlit state : Nat) : Word :=
  word (lost % 2 ^ 16 * 2 ^ 48 + txlit % 2 ^ 16 * 2 ^ 32 + rxlit % 2 ^ 16 * 2 ^ 16 + widthCode (txlit % 2 ^ 16) * 2 ^ 12 + state % 8)

/-- Wavelengths that a park state leaves lit (R263). -/
def parkLit (state : Nat) : Nat := match state with
  | 1 => 0x0F0F
  | 2 => 0x0303
  | _ => 0xFFFF

/-- The port is dark. -/
def Port.dark (p : Port) : Bool := statTxlit p.stat == 0

/-! ## The calendar (R251) -/

def calValid (e : BitVec 16) : Bool := e.getLsbD 15
def calPeer (e : BitVec 16) : Nat := e.toNat % 512

/-- The port and slot in which this package meets another. -/
def State.meet (s : State) (pkg : Nat) : Option (Nat × Nat) :=
  ((List.range 16).flatMap (fun p => (List.range 32).map (fun k => (p, k)))).find? (fun e =>
    let c := Tab.get (s.port e.1).calendar e.2
    calValid c && calPeer c == pkg)

/-! ## Reachability (R255) -/

/-- The direct path to a package holds. -/
def State.direct (s : State) (pkg : Nat) : Bool :=
  match s.meet pkg with
  | none => false
  | some (p, _) =>
    let x := s.port p
    !x.dark && cfgEn x.cfg && !cfgStatic x.cfg && decide ((s.link pkg).absent < 3)

/-- A package is reachable by relay through another: the vector is no older than 2 cycles of 32 slots. -/
def State.relayVia (s : State) (y x : Nat) : Bool :=
  y != x && s.direct y && (s.link y).reach.getLsbD x && decide ((s.link y).age ≤ 64)

def State.relayable (s : State) (x : Nat) : Bool := (Tab.keys s.fab.links).any (fun y => s.relayVia y x)

/-- The static ports, ascending. -/
def State.staticPorts (s : State) : List Nat :=
  (List.range 16).filter (fun p => cfgStatic (s.port p).cfg && cfgEn (s.port p).cfg)

/-- A package of a pod can be reached. -/
def State.reachable (s : State) (pod pkg : Nat) : Bool :=
  s.isSelf pod pkg || (if pod = s.prim.pod.toNat then s.direct pkg || s.relayable pkg else !s.staticPorts.isEmpty)

/-- The reachability vector that this package announces: itself and the packages with a direct path. -/
def State.reachVector (s : State) : BitVec 512 :=
  (List.range 512).foldl (fun v x => if x = s.prim.pkg.toNat ∨ s.direct x then v ||| BitVec.ofNat 512 (2 ^ x) else v) 0

end Sys2Proof.Machine
end

