-- ==== Sys2Proof/Machine/Release.lean ====
section
/-! DEFINITION. What a workgroup and a launch give back, and the kill of a workgroup (spec/01_work.md R24, R28, R31, R32,
spec/21_claims.md R236, R241, spec/27_control.md R297, R308, R311). -/

namespace Sys2Proof.Machine

/-! ## Claims -/

/-- The flows of a slot that have not completed. -/
def Workgroup.flowsOf (r : Workgroup) (n : Nat) : List Flow := r.flows.filter (fun f => f.slot == n)

/-- The window-table entry that the transmit aperture pages of a claim's destination reach now (R238). -/
def slotTxEntry (s : State) (w : Nat) (sl : Slot) : BitVec 256 :=
  match sl.pins.find? (fun p => p.dst && inAperture (p.frame * 4096)) with
  | some p => Tab.get (s.vif (vifOf (s.ctxKey w))).txw (fld (p.frame * 4096) 32 12)
  | none => 0

/-- Return a claim's pins, staging and credits (R236). A credit granted later under one of its requests goes back when the grant comes
(State.handAnswered). -/
def State.returnClaim (s : State) (w n : Nat) : State :=
  let sl := Tab.get (s.wg w).slots n
  let s := s.releaseHands sl.win (s.ctxid (s.ctxKey w)) sl.len sl.hands
  s.modWg w (fun r => { r with slots := Tab.modify r.slots n (fun x => { x with pins := [], hands := [], staged := false }) })

/-- A slot whose flows are done and whose claim has ended gives its resources back, and becomes FREE when it was released
(R234, R236, R241). -/
def State.settleSlot (s : State) (w n : Nat) : State :=
  let r := s.wg w
  let sl := Tab.get r.slots n
  if (r.flowsOf n).isEmpty then
    match sl.st with
    | .released =>
        (s.returnClaim w n).modWg w (fun r => { r with slots := Tab.modify r.slots n (fun x => { x with st := .free }) })
    | .lapsed => s.returnClaim w n
    | .free | .walking | .live => s
  else s

/-- WHY after a revocation in a cycle: revocations of one cycle take the lowest of their codes (R244). -/
def Slot.whyAt (x : Slot) (cycle why : Nat) : Nat :=
  if x.when = cycle ∧ x.why ≠ 0 then Nat.min x.why.toNat why else why

/-- The slot after a revocation that sets WHY. -/
def Slot.revoke (x : Slot) (cycle why : Nat) : Slot := { x with why := BitVec.ofNat 5 (x.whyAt cycle why), when := cycle }

/-- A revocation of one slot with a WHY code (R236, R241): flows not started are cancelled, flows in progress finish. A lapsed slot keeps
its WHY but for SEVERED, and for a revocation of the same cycle. -/
def State.lapse (s : State) (w n why : Nat) : State :=
  let r := s.wg w
  let sl := Tab.get r.slots n
  let cancel := fun (r : Workgroup) => { r with flows := r.flows.filter (fun f => f.slot != n || f.started) }
  match sl.st with
  | .live =>
      (s.modWg w (fun r => cancel { r with slots := Tab.modify r.slots n (fun x =>
        { x.revoke s.cycle why with st := .lapsed }) })).settleSlot w n
  | .released =>
      (s.modWg w (fun r => cancel { r with slots := Tab.modify r.slots n (fun x => x.revoke s.cycle why) })).settleSlot w n
  | .lapsed =>
      if why = 5 ∨ sl.when = s.cycle then
        s.modWg w (fun r => { r with slots := Tab.modify r.slots n (fun x => x.revoke s.cycle why) })
      else s
  | .free | .walking => s

/-- A member of a claim's destination window is lost: it has withdrawn its window, or the direct path to it is lost (R242). -/
def State.memberLost (s : State) (e : BitVec 256) (h : Hand) : Bool :=
  h.lost || (s.txPod e == s.prim.pod.toNat && !s.isSelf (s.txPod e) h.pkg.toNat && !s.direct h.pkg.toNat)

/-- One member of a claim's destination window is withdrawn: a LIVE or RELEASED claim without another member lapses with WHY 4, a
walk asks that member again (R236, R242). -/
def State.loseMember (s : State) (w n pod pkg rwin : Nat) (sctx : BitVec 32) : State :=
  let x := Tab.get (s.wg w).slots n
  let e := x.win
  let here := fun (h : Hand) => h.pkg.toNat == pkg && h.granted
  let put := fun (s : State) (l : List Hand) =>
    s.modWg w (fun r => { r with slots := Tab.modify r.slots n (fun x => { x with hands := l }) })
  if x.kind.toNat < 4 ∨ s.ctxid (s.ctxKey w) ≠ sctx ∨ txRwin e ≠ rwin ∨ s.txPod e ≠ pod ∨ !x.hands.any here then s
  else
    match x.st with
    | .live | .released =>
        let l := x.hands.map (fun h => if here h then { h with lost := true } else h)
        let s := put s l
        if l.all (s.memberLost e) then s.lapse w n 4 else s
    | .walking =>
        (put s (x.hands.filter (fun h => !here h))).releaseHands e sctx x.len (x.hands.filter here)
    | .free | .lapsed => s

/-- The same for every claim of a sender of this package. -/
def State.loseWindow (s : State) (pod pkg rwin : Nat) (sctx : BitVec 32) : State :=
  (s.wgs.flatMap (fun e => e.2.slots.map (fun h => (e.1, h.1)))).foldl (fun s e => s.loseMember e.1 e.2 pod pkg rwin sctx) s

/-- A receive window of this package no longer takes the writes of some senders: their claims into it lapse, here at once and at
other packages by a notice. The senders are those that hold credits of the window (R238, R242, R265). -/
def State.withdraw (s : State) (rwin : Nat) (gone : BitVec 32 → Bool) : State :=
  let hit := (s.fab.credits.filter (fun c => c.hand.rwin.toNat == rwin && gone c.hand.sctx)).map (fun c => (c.hand.pkg, c.hand.sctx))
  hit.eraseDups.foldl (fun s c =>
    let pod := c.2.toNat / 2 ^ 25
    if s.isSelf pod c.1.toNat then s.loseWindow pod c.1.toNat rwin c.2 else s.sendNotice pod c.1.toNat c.2 rwin) s

/-! ## Regions (R60) -/

/-- A location lies in a workgroup's core-store, cluster-store or scale region. -/
def inRegionOf (w x : Nat) : Bool := (x % 8 == 2 || x % 8 == 3 || x % 8 == 5) && x / 8 / 2 ^ 24 == w

/-- The regions of a workgroup are written to 0. -/
def State.eraseRegions (s : State) (w : Nat) : State :=
  (s.modMs (fun m => m.erase (inRegionOf w))).modWg w (fun r => { r with acc := [] })

/-- Change every park of every gang that satisfies a test, those a trap has set aside too. -/
def State.mapParks (s : State) (f : Nat → Nat → Park → Park) : State :=
  let inGang := fun (w n : Nat) (g : Gang) =>
    { g with
      parks := g.parks.map (f w n)
      saved := g.saved.map (fun v => { v with parks := v.parks.map (f w n) }) }
  { s with wgs := s.wgs.map (fun e => (e.1, { e.2 with gangs := e.2.gangs.map (fun h => (h.1, inGang e.1 h.1 h.2)) })) }

/-- Every BWAIT parked on an object in a freed region wakes with pD = 0 (R185). -/
def State.wakeFreed (s : State) (w : Nat) : State :=
  s.mapParks (fun _ _ p =>
    match p.why with
    | .bwait loc _ _ => if inRegionOf w loc ∧ p.ready.isNone then { p with ready := some false } else p
    | _ => p)

/-! ## Launches -/

/-- A workgroup still belongs to the work of its launch. -/
def Workgroup.pending (r : Workgroup) : Bool :=
  match r.status with
  | .running | .saving | .saved | .relaunch => true
  | .absent | .gone => false

/-- The keys of a launch's workgroups that are still pending. -/
def State.wgsOf (s : State) (l : Nat) : List Nat :=
  (s.wgs.filter (fun e => e.2.launch == l && e.2.pending)).map Prod.fst

/-- The launch's route tags on a die return when no workgroup of it is left there (R27). -/
def State.freeTags (s : State) (l die : Nat) : State :=
  if (s.wgsOf l).any (fun w => dieOf (s.wg w).core == die && (s.wg w).status != .relaunch) then s
  else
    let free := fun (t : Tab (Option (Nat × BitVec 3))) (i : Nat) =>
      match Tab.get t (die * 8 + i) with
      | some (l', _) => if l' = l then Tab.set t (die * 8 + i) none else t
      | none => t
    s.modSched (fun c => { c with tags := (List.range 8).foldl free c.tags })

/-- The launch leaves every launch queue and pending queue: its remaining workgroups are not placed (R32, R290). -/
def State.dequeue (s : State) (l : Nat) : State :=
  let vif := vifOf (s.launch l).ctx
  let s := s.modVif vif (fun v => { v with queues := v.queues.map (fun e => (e.1, e.2.filter (· != l))) })
  s.modSched (fun c => { c with pending := c.pending.map (fun e => (e.1, e.2.filter (fun p => p.launch != l))) })

/-- A launch whose work is over, retired or failed with nothing left running: its stores take effect on instruction fetch (R3, log 76),
its barriers close, its issuer's cell rises (R284). -/
def State.settleLaunch (s : State) (l : Nat) : State :=
  let x := s.launch l
  if x.isOver || !(s.wgsOf l).isEmpty || !(x.failed || hdrWgs x.hdr ≤ x.ended) then s
  else
    let s := s.modLaunch l (fun x => { x with isOver := true })
    let s := s.modMs (fun m => m.launchOver l)
    let s := s.modSched (fun c => { c with barriers := c.barriers.filter (fun b => b.launch != l) })
    match x.issuer with
    | none => s
    | some (w, cell) => if (s.wg w).pending then s.addCell w cell.toNat 1 else s

/-! ## The end of a workgroup -/

/-- The views of a workgroup's threads reach dev, and the rows of its narrower instances go. -/
def State.dropViews (s : State) (w : Nat) : State :=
  let mine := fun (i : Inst) => match i with
    | .lane v _ _ => v == w
    | .gang v _ => v == w
    | .wg v => v == w
    | .clus _ | .die _ | .dev _ | .fab _ => false
  s.modMs (fun m => { m with views := m.views.filter (fun r => !mine r.inst) })

/-- Release at dev by every thread of a workgroup (R284, R323, R102). -/
def State.releaseWg (s : State) (w : Nat) : State :=
  (Tab.keys (s.wg w).gangs).foldl (fun s g => s.releaseAll w g 0xFFFFFFFF#32 5) s

/-- A workgroup ends for good: claims released, engine work not started discarded, reservation freed (R31, R32). -/
def State.endWg (s : State) (w : Nat) : State :=
  let r := s.wg w
  let s := s.releaseWg w
  let s := s.dropViews w
  let s := s.wakeFreed w
  let s := s.withdrawReports (fun p => p.wg == w)
  let s := s.modWg w (fun r => { r with
    status := .gone, gangs := [], chain := [], flows := r.flows.filter Flow.started,
    slots := r.slots.map (fun e => (e.1, { e.2 with st := if e.2.st = .free then .free else .released })) })
  let s := (Tab.keys r.slots).foldl (fun s n => s.settleSlot w n) s
  let s := s.modEng (clusterOf r.core) (fun e => if e.busy = some w then { e with busy := none } else e)
  let s := s.eraseRegions w
  let s := s.freeTags r.launch (dieOf r.core)
  s.flushReports

/-- The tile moves of a killed workgroup are discarded (R32). -/
def State.dropMoves (s : State) (w : Nat) : State := s.modWg w (fun r => { r with moves := [] })

/-- Every open wired barrier instance in which the workgroup participated is broken (R28, R32). -/
def State.breakBarriers (s : State) (w : Nat) : State :=
  s.modSched (fun c => { c with barriers := c.barriers.map (fun b =>
    if b.parts.any (fun p => p.1 == w) then { b with broken := true } else b) })

/-- The kill of a workgroup (R32): a reason code of R311, a trap cause or 0, and what the record names. -/
def State.kill (s : State) (w reason cause : Nat) (nested : Bool) (wid pc : Word) (tmask : Mask) (tinfo : Word) : State :=
  let r := s.wg w
  if r.status = .absent ∨ r.status = .gone ∨ r.status = .relaunch then s
  else
    let l := r.launch
    let x := s.launch l
    let key := x.ctx
    let again := hdrIdem x.hdr && Tab.get x.relaunches r.ord < 3 && !x.failed
    let rec0 : ExecRec := { code := 1, cause := cause, reason := reason, nested := nested, relaunch := again, launch := x.id,
                            wid := wid, pc := pc, tmask := tmask, tinfo := tinfo }
    let s := s.breakBarriers w
    let s := (s.endWg w).dropMoves w
    let s := s.execRecord key rec0
    if again then
      let n := s.nextWg
      let s := s.modLaunch l (fun x => { x with relaunches := Tab.modify x.relaunches r.ord (· + 1) })
      { s with nextWg := n + 1,
               wgs := Tab.set s.wgs n { (default : Workgroup) with
                 status := .relaunch, launch := l, ord := r.ord, core := r.core, barClus := r.barClus } }
    else
      let s := s.modLaunch l (fun x => { x with ended := x.ended + 1 })
      let s :=
        if x.failed then s
        else
          (s.modLaunch l (fun x => { x with failed := true })).execRecord key
            { rec0 with code := 2, reason := if hdrIdem x.hdr then 7 else reason }
      let s := s.dequeue l
      -- workgroups waiting for a relaunch are not placed any more
      let stop := fun (r : Workgroup) =>
        if r.launch = l ∧ r.status = .relaunch then { r with status := .gone } else r
      let s : State := { s with wgs := s.wgs.map (fun (e : Nat × Workgroup) => (e.1, stop e.2)) }
      s.settleLaunch l

/-- Some gang of a context is in a run. -/
def State.ctxRuns (s : State) (key : Nat) : Bool :=
  s.wgs.any (fun e => (e.2.status == .running || e.2.status == .saving) && s.ctxKey e.1 == key && e.2.gangs.any (fun h => h.2.run.isSome))

/-- What a teardown does once every gang of the context stands at its run boundary (R309 steps 2 to 6), with its record. The stores of
its launches take effect on instruction fetch as those of a retired launch do (log 76). -/
def State.finishTeardown (s : State) (key : Nat) (r : ExecRec) : State :=
  let ws := (s.wgs.filter (fun e => (e.2.pending || e.2.status == .gone) && s.ctxKey e.1 == key)).map Prod.fst
  let s := ws.foldl (fun s w => if (s.wg w).pending then (s.endWg w).dropMoves w else s) s
  let ls := (s.sched.launches.filter (fun e => e.2.ctx == key)).map Prod.fst
  let s := ls.foldl (fun s l =>
    ((s.dequeue l).modLaunch l (fun x => { x with failed := true, isOver := true })).modMs (fun m => m.launchOver l)) s
  let s := s.modSched (fun c => { c with barriers := c.barriers.filter (fun b => !ls.contains b.launch) })
  let s := s.execRecord key r
  -- die-store regions are written to 0
  let s := (List.range 4).foldl (fun s d =>
    let g := (s.creg key (0x301 + d)).toNat
    let lo := g % 128 * 2 ^ 20
    let hi := lo + fld g 8 7 * 2 ^ 20
    s.modMs (fun m => m.erase (fun x => x % 8 == 4 && x / 8 / 2 ^ 27 == d && decide (lo ≤ x / 8 % 2 ^ 27) &&
      decide (x / 8 % 2 ^ 27 < hi)))) s
  -- address spaces, and the window-table entries it owns
  let own := (s.ctxid key).toNat
  let wins := (s.fab.rxw.filter (fun e => rxOwner e.2 == own)).map Prod.fst
  let s := s.modFab (fun f => { f with
    rxw := f.rxw.filter (fun e => rxOwner e.2 != own), rxPins := f.rxPins.filter (fun e => !wins.contains e.1) })
  let s := s.modMs (fun m => { m with tlb := m.tlb.filter (fun t => t.ctx != key) })
  let s := s.modCtx key (fun _ => default)
  let s := (s.fab.services.filter (fun x => x.key == key)).foldl (fun s x => s.releaseHands x.tx (s.ctxid key) 0 x.hands) s
  let s := s.modFab (fun f => { f with services := f.services.filter (fun x => x.key != key) })
  wins.foldl (fun s r => s.withdraw r (fun _ => true)) s

/-- The record of a teardown (R311): its reason, and where it is known the launch, identifier, address and lanes at fault. -/
def tearRec (reason : Nat) : ExecRec :=
  { code := 3, cause := 0, reason := reason, nested := false, relaunch := false, launch := 0, wid := 0, pc := 0, tmask := 0, tinfo := 0 }

/-- The same for lanes of a gang at an address. -/
def State.tearAt (s : State) (reason w g : Nat) (pc : Word) (m : Mask) : ExecRec :=
  { tearRec reason with
    launch := (s.launch (s.wg w).launch).id
    wid := s.wid w g ((lowest m).getD 0)
    pc := pc
    tmask := m }

/-- THE TEARDOWN of a context as an unrecoverable fault (R308, R309): at once when none of its gangs is in a run, else when the last run
has ended. -/
def State.teardown (s : State) (key : Nat) (r : ExecRec) : State :=
  if !(s.ctx key).present ∨ (s.ctx key).ending.isSome then s
  else if s.ctxRuns key then s.modCtx key (fun x => { x with ending := some r })
  else s.finishTeardown key r

/-- A gang at fault stops at its word, and its context is torn down. -/
def State.teardownAt (s : State) (reason w g : Nat) (pc : Word) (m : Mask) : State :=
  let r := s.tearAt reason w g pc m
  (s.modGang w g (fun x => { x with run := none })).teardown (s.ctxKey w) r

end Sys2Proof.Machine
end

