-- ==== Sys2Proof/Machine/Ops.lean ====
section
/-! DEFINITION. The shared operations of a gang: splits and runs, warnings, taking a trap and returning from one, diversions,
parking and waking (spec/01_work.md R17 to R22, spec/27_control.md R296 to R298, R306, spec/25_isa_fabric_system.md R280, R283). -/

namespace Sys2Proof.Machine

/-! ## Trap causes (R163) -/

def cILLEGAL : Nat := 0x01
def cREGRANGE : Nat := 0x02
def cBUDGET : Nat := 0x03
def cSCRATCH : Nat := 0x04
def cBADRECORD : Nat := 0x05
def cRECORDPERM : Nat := 0x06
def cBOUND : Nat := 0x07
def cREMOTELOAD : Nat := 0x08
def cTXWREAD : Nat := 0x09
def cPAGEFAULT : Nat := 0x0A
def cPOISON : Nat := 0x0B
def cOVERLAP : Nat := 0x0C
def cCLAIMPERM : Nat := 0x0D
def cFPTRAP : Nat := 0x0E
def cSCOPE : Nat := 0x0F
def cBARRIER : Nat := 0x10
def cDEADLOCK : Nat := 0x11
def cTABLE : Nat := 0x12
def cLPAD : Nat := 0x13
def cCALLDEPTH : Nat := 0x14
def cRETEMPTY : Nat := 0x15
def cTRAP : Nat := 0x16
def cBKPT : Nat := 0x17
def cPRIV : Nat := 0x18
def cUISTATE : Nat := 0x19

/-! ## Splits (R18, R19) -/

/-- The address of a split: that of its lowest lane. -/
def Gang.splitPc (g : Gang) (x : Split) : Word := (g.thread ((lowest x.lanes).getD 0)).pc

/-- Seats that waiting threads refer to. -/
def Gang.seats (g : Gang) : List Nat :=
  g.thr.filterMap (fun e => match e.2.st with
    | .joinWait _ seat => some seat
    | .exited | .exec | .parked => none) ++
  g.parks.filterMap (fun p => match p.why with
    | .member _ _ seat _ => some seat
    | _ => none)

/-- Splits without lanes go unless a waiting thread or the issue turn refers to them. -/
def Gang.tidy (g : Gang) : Gang :=
  let keep := g.last :: g.seats
  { g with splits := g.splits.filter (fun x => x.lanes != 0#32 || keep.contains x.id) }

/-- Two splits may merge: equal addresses, and neither has a word to replay (R19). -/
def Gang.mergeable (g : Gang) (x y : Split) : Bool :=
  x.lanes != 0#32 && y.lanes != 0#32 && x.replay.isNone && y.replay.isNone && g.splitPc x == g.splitPc y

/-- Put a split at the end of a list of merged ones, or into the earlier one it merges with; the number of that one. -/
def Gang.mergeInto (g : Gang) (acc : List Split) (x : Split) : List Split × Nat :=
  match acc.find? (fun y => g.mergeable y x) with
  | some y => (acc.map (fun z => if z.id = y.id then { z with lanes := z.lanes ||| x.lanes, keep := z.keep ||| x.keep } else z) ++ [{ x with lanes := 0#32 }],
               y.id)
  | none => (acc ++ [x], x.id)

/-- Splits with equal addresses merge at the earliest position (R19), counted from the head of the list of splits (log 78). -/
def Gang.merge (g : Gang) : Gang :=
  let r := g.splits.foldl (fun (acc : List Split × Nat) x =>
    let m := g.mergeInto acc.1 x
    (m.1, if x.id = g.last then m.2 else acc.2)) ([], g.last)
  ({ g with splits := r.1, last := r.2 }).tidy

/-- Insert splits directly after the one with a number, or at the end. -/
def insertAfter (l : List Split) (id : Nat) (new : List Split) : List Split :=
  match l with
  | [] => new
  | x :: r => if x.id = id then x :: (new ++ r) else x :: insertAfter r id new

/-- The lanes of a split replaced; it has no word to replay. -/
def Gang.setLanes (g : Gang) (id : Nat) (m : Mask) : Gang :=
  { g with splits := g.splits.map (fun x => if x.id = id then { x with lanes := m, replay := none, org := none, turn := false, first := false, keep := 0#32 } else x) }

/-- The lanes of a split. -/
def Gang.lanesAt (g : Gang) (id : Nat) : Mask :=
  match g.splits.find? (fun x => x.id == id) with
  | some x => x.lanes
  | none => 0#32

/-- Lanes leave every split. -/
def Gang.leave (g : Gang) (m : Mask) : Gang :=
  { g with splits := g.splits.map (fun x => { x with lanes := x.lanes &&& ~~~m }) }

/-- Ascending insertion of an address without repeats. -/
def insAddr (x : Nat) : List Nat → List Nat
  | [] => [x]
  | y :: l => if x = y then y :: l else if x < y then x :: y :: l else y :: insAddr x l

/-- Send the lanes of a split to their addresses (R18): the split keeps its position for the lanes that fall through, new
splits follow it in ascending order of address. Without such lanes it stays whole for one address, and for several it is
left empty where it stood (log 74). -/
def Gang.scatter (g : Gang) (split : Nat) (lanes : Mask) (fall : Word) (dest : Nat → Word) : Gang :=
  let g := (lanesOf lanes).foldl (fun g i => g.modThread i (fun t => { t with pc := dest i })) g
  let at' := fun (a : Nat) => maskIf lanes (fun i => (dest i).toNat == a)
  let tgts := ((lanesOf lanes).foldl (fun l i => insAddr (dest i).toNat l) []).filter (· != fall.toNat)
  let stay := at' fall.toNat
  let groups := (if stay = 0#32 ∧ tgts.length = 1 then [] else [stay]) ++ tgts.map at'
  match groups with
  | [] => g
  | first :: rest =>
    let new := ((List.range rest.length).zip rest).map (fun e => ({ id := g.nextId + e.1, lanes := e.2, replay := none } : Split))
    { g with splits := insertAfter (g.setLanes split first).splits split new, nextId := g.nextId + rest.length }

/-- Threads return to EXEC as one split at an address, in the place of a split: its own place when it has no lanes left,
directly after it otherwise (R18, R20, R210, log 80). -/
def Gang.reseat (g : Gang) (lanes : Mask) (pc : Word) (seat : Nat) : Gang :=
  let g := g.modThreads lanes (fun t => { t with st := .exec, pc := pc })
  match g.splits.find? (fun x => x.id == seat) with
  | some x =>
      if x.lanes = 0#32 then
        { g with splits := g.splits.map (fun y => if y.id = seat then { y with lanes := lanes, replay := none, first := false, keep := 0#32 } else y) }
      else
        { g with splits := insertAfter g.splits seat [{ id := g.nextId, lanes := lanes, replay := none }], nextId := g.nextId + 1 }
  | none => { g with splits := g.splits ++ [{ id := g.nextId, lanes := lanes, replay := none }], nextId := g.nextId + 1 }

/-- A split of the gang is in EXEC (R295). -/
def Gang.ready (g : Gang) : Bool := g.splits.any (fun x => x.lanes != 0#32)

/-- The ready time of a gang whose splits have changed: it restarts only where the gang was not ready before and is in no run (R295). -/
def Gang.readyFrom (g old : Gang) (cycle : Nat) : Gang :=
  { g with readyAt := if old.run.isSome || old.ready then g.readyAt else cycle }

/-- Threads return to EXEC in a split of their own, whose number it gets here, directly after the split that issued most recently (R18). -/
def Gang.afterLast (g : Gang) (x : Split) (pc : Word) : Gang :=
  let g := g.modThreads x.lanes (fun t => { t with st := .exec, pc := pc })
  { g with splits := insertAfter g.splits g.last [{ x with id := g.nextId }], nextId := g.nextId + 1 }

/-- Threads that continue at an address join the split there, if there is one (R18). -/
def Gang.rejoin (g : Gang) (lanes : Mask) (pc : Word) : Gang :=
  match g.splits.find? (fun x => x.lanes != 0#32 && x.replay.isNone && g.splitPc x == pc) with
  | some x =>
      let g := g.modThreads lanes (fun t => { t with st := .exec, pc := pc })
      { g with splits := g.splits.map (fun y => if y.id = x.id then { y with lanes := y.lanes ||| lanes } else y) }
  | none => g.afterLast { id := 0, lanes := lanes, replay := none } pc

/-! ## The issuing word -/

/-- A word in issue: its gang and split, its address, the lanes of the split and those active (R116), opcode and fields. -/
structure Issue where
  wg    : Nat
  gang  : Nat
  split : Nat
  pc    : Word
  lanes : Mask
  act   : Mask
  op    : Nat
  w     : FullWord
  f     : Form
  deriving DecidableEq, Repr, Inhabited

/-- The lanes for which a guard holds (R116). -/
def Gang.guard (g : Gang) (m : Mask) (gp : Nat) (gi : Bool) : Mask := maskIf m (fun i => g.pGet i gp != gi)

/-- The lanes of the split in issue. -/
def State.splitLanes (s : State) (c : Cur) : Mask :=
  (s.gang c.wg c.gang).lanesAt c.split

/-- The issue that exec performs, from the model's record of which gang issues. -/
def State.issue (s : State) (op : Nat) (w : FullWord) : Option Issue :=
  match s.aux.cur with
  | none => none
  | some c =>
    let g := s.gang c.wg c.gang
    let lanes := s.splitLanes c
    let act := g.guard lanes w.gp.toNat w.gi
    some { wg := c.wg, gang := c.gang, split := c.split, pc := c.pc, lanes := lanes,
           act := match c.replay with
             | none => act
             | some m => act &&& m
           op := op, w := w, f := (form op w).getD default }

def Issue.g (c : Issue) (s : State) : Gang := s.gang c.wg c.gang
def Issue.mod (c : Issue) (s : State) (f : Gang → Gang) : State := s.modGang c.wg c.gang f
def Issue.key (c : Issue) (s : State) : Nat := s.ctxKey c.wg
/-- The lowest active lane. -/
def Issue.low (c : Issue) : Nat := (lowest c.act).getD 0

/-- Instructions that can park, and branches: each ends its run (R21, R169, R215, R273). -/
def endsRun (op : Nat) (w : FullWord) : Bool :=
  [0x01, 0x02, 0x03, 0x05, 0x06, 0x07, 0x08, 0x09, 0x0A, 0xA0, 0xA2, 0xA3, 0xA8, 0xA9, 0xAA, 0xC0, 0xC1, 0xC2, 0xC3, 0xC7, 0xC9,
   0xCA, 0xD0, 0xD1, 0xD2, 0xD3, 0xE1, 0xE3, 0xF3, 0xF6].contains op ||
  (op == 0xE0 && w.xb % 2 == 0) || (decide (0x90 ≤ op ∧ op ≤ 0x97) && w.xa % 2 == 1) ||
  (op == 0xA5 && w.ord / 2 == 1 && w.scope == 6)

/-! ## Warnings (R133, R134) -/

/-- Set warns bits; the first one latches warnpc. -/
def Gang.warn (g : Gang) (bits : Nat) (pc : Word) : Gang :=
  if bits = 0 then g
  else
    { g with
      warnpc := if g.warns = 0#64 then codeAddr pc else g.warnpc
      warns := g.warns ||| word bits }

def Issue.warn (c : Issue) (bits : Nat) (s : State) : State := c.mod s (fun g => g.warn bits c.pc)

/-! ## Ends of words and runs (R19, R21) -/

/-- A gang whose run ends: merging, the turn passes on, the ready time restarts (R295). -/
def Gang.endRun (g : Gang) (cycle : Nat) : Gang := { g.merge with run := none, readyAt := cycle }

/-- The words that a run has issued. -/
def Gang.issued (g : Gang) : Nat := match g.run with
  | some r => r.count
  | none => 0

/-- The run ends with this word: when the word says so, or with its eighth word. -/
def Issue.ends (c : Issue) (ends : Bool) (g : Gang) : Bool := ends || !c.w.h || decide (8 ≤ g.issued + 1)

/-- One more word of the run, which may end with it. -/
def Issue.count (c : Issue) (ends : Bool) (s : State) : State :=
  c.mod s (fun g =>
    let n := g.issued + 1
    if c.ends ends g then g.endRun s.cycle else { g with run := some { split := c.split, count := n } })

/-- The split goes on at the next word; a replayed word has been issued. -/
def Issue.advance (c : Issue) (s : State) : State :=
  c.mod s (fun g =>
    let g := g.modThreads c.lanes (fun t => { t with pc := c.pc + 8 })
    g.setLanes c.split (g.lanesAt c.split))

/-- The word is done: the split goes on at the next word. -/
def Issue.done (c : Issue) (s : State) : State := c.count (endsRun c.op c.w) (c.advance s)

/-! ## Joins (R20, R146) -/

/-- The threads waiting at JOIN kN at one address. -/
def Gang.joinWaiters (g : Gang) (k : Nat) (pc : Word) : Mask :=
  g.lanesWhere (fun t => match t.st with
    | .joinWait n _ => n.toNat == k && t.pc == pc
    | .exited | .exec | .parked => false)

/-- The JOIN on kN at an address releases: every lane of kN waits there or has exited. -/
def Gang.joinReady (g : Gang) (k : Nat) (pc : Word) : Bool :=
  let m := g.joinWaiters k pc
  m != 0#32 && (g.kGet k &&& ~~~m &&& g.live) == 0#32

/-- The first JOIN of kN that can release: its address. -/
def Gang.joinPc (g : Gang) (k : Nat) : Option Word :=
  ((List.range 32).filterMap (fun i => match (g.thread i).st with
    | .joinWait n _ => if n.toNat = k then some (g.thread i).pc else none
    | .exited | .exec | .parked => none)).find? (fun pc => g.joinReady k pc)

/-- The threads waiting at a JOIN on kN that can release go on as one split at the word after it, in the place where the lowest of
their lanes stood (R20). -/
def Gang.releaseJoin (x : Gang) (k cycle : Nat) : Gang :=
  match x.joinPc k with
  | none => x
  | some pc =>
    let m := x.joinWaiters k pc
    let seat := match (x.thread ((lowest m).getD 0)).st with
      | .joinWait _ seat => seat
      | .exited | .exec | .parked => 0
    ((x.reseat m (pc + 8) seat).tidy).readyFrom x cycle

/-- The JOINs on kN that can release do so, one after the other, n at most. -/
def Gang.releaseEach (k cycle : Nat) : Nat → Gang → Gang
  | 0, x => x
  | n + 1, x => if (x.joinPc k).isSome then Gang.releaseEach k cycle n (x.releaseJoin k cycle) else x

/-- Every JOIN of a gang that can release does so, before the gang's next turn (R146): at most 32 addresses for each mask. -/
def Gang.releaseJoins (x : Gang) (cycle : Nat) : Gang := (List.range 8).foldl (fun x k => Gang.releaseEach k cycle 32 x) x

/-! ## Traps (R296, R297) -/

/-- What trap entry and a diversion set aside (R296 step 2, R306). -/
def Gang.save (g : Gang) (split : Nat) (run : Option Run) : Saved :=
  { st := (List.range 32).map (fun i => (i, ((g.thread i).st, (g.thread i).pc)))
    splits := g.splits, parks := g.parks, last := g.last, lat := g.b, run := run, split := split }

/-- Every non-exited thread of the gang forms one split at an address (R296 step 4, R306). -/
def Gang.enter (g : Gang) (pc : Word) : Gang :=
  let live := g.live
  let g := g.modThreads live (fun t => { t with st := .exec, pc := pc })
  { g with splits := [{ id := g.nextId, lanes := live, replay := none }], parks := [], last := g.nextId, run := none,
           b := [], nextId := g.nextId + 1 }

/-- Entry of a trap with a handler (R296). JOINs that can release have done so before the handler's turn (R146). -/
def Gang.enterTrap (g : Gang) (split : Nat) (run : Option Run) (cause : Nat) (mask : Mask) (tinfo pc : Word) (cycle : Nat) :
    Gang :=
  let g := g.releaseJoins cycle
  let sv := g.save split run
  let g := { g with tpc := codeAddr pc, tcause := word cause, tmask := word mask.toNat, tinfo := tinfo }
  let g := g.exchange
  let g := g.enter (codeAddr g.tvec)
  { g with inTrap := true, saved := some sv, readyAt := cycle }

/-- TAKING A TRAP (R296, R297): cause, faulting lanes, tinfo and recorded address. With no handler, or in trap mode or a
diversion, the workgroup is killed. -/
def State.takeTrap (s : State) (w g split : Nat) (run : Option Run) (cause : Nat) (mask : Mask) (tinfo pc : Word) : State :=
  let x := s.gang w g
  let lane := (lowest mask).getD 0
  if x.inTrap || x.inUi then s.kill w 6 cause true (s.wid w g lane) pc mask tinfo
  else if codeAddr x.tvec = 0#64 then s.kill w 5 cause false (s.wid w g lane) pc mask tinfo
  else s.setGang w g (x.enterTrap split run cause mask tinfo pc s.cycle)

/-- A precise trap at the word in issue (R124, R296). -/
def Issue.trap (c : Issue) (cause : Nat) (mask : Mask) (tinfo : Word) (s : State) : State :=
  s.takeTrap c.wg c.gang c.split (c.g s).run cause mask tinfo c.pc

/-- The same with every lane of the split faulting (R124 checks 1 to 4). -/
def Issue.trapSplit (c : Issue) (cause : Nat) (tinfo : Nat) (s : State) : State := c.trap cause c.lanes (word tinfo) s

/-- The same with every active lane faulting (R135). -/
def Issue.trapAct (c : Issue) (cause : Nat) (tinfo : Nat) (s : State) : State := c.trap cause c.act (word tinfo) s

/-- ILLEGAL_INSN of the instruction's own check (R163, tinfo 6). -/
def Issue.illegal6 (c : Issue) (s : State) : State := c.trapAct cILLEGAL 6 s

/-- A trap whose instruction has retired (TRAP and BKPT, R282): the recorded address is that of the next word, and the run it
stands in goes on there. -/
def Issue.trapRetired (c : Issue) (cause : Nat) (tinfo : Word) (s : State) : State :=
  let n := (c.g s).issued + 1
  let run := if !c.w.h || decide (8 ≤ n) then none else some { split := c.split, count := n }
  (c.advance s).takeTrap c.wg c.gang c.split run cause c.act tinfo (c.pc + 8)

/-- A park without the lanes that have exited since; none: no lane is left. -/
def Park.only (p : Park) (live : Mask) : Option Park :=
  if p.lanes &&& live = 0#32 then none
  else some { p with lanes := p.lanes &&& live, todo := p.todo &&& live, act := p.act &&& live }

/-- What a return restores (R280, R283): registers exchanged back, latches, threads, splits and parks, all of them without the lanes
that have exited meanwhile (R143). -/
def Gang.restore (g : Gang) (sv : Saved) : Gang :=
  let g := g.exchange
  let g := (List.range 32).foldl (fun g i =>
    let e := Tab.get sv.st i
    g.modThread i (fun t => if t.st = .exited then t else { t with st := e.1, pc := e.2 })) g
  let live := g.live
  { g with b := sv.lat, splits := sv.splits.map (fun x => { x with lanes := x.lanes &&& live }), parks := sv.parks.filterMap (fun p => p.only live),
           last := sv.last, run := sv.run, saved := none }

/-- RETURN FROM A TRAP (R283): the trapped split stands at tpc, and its next run reads the latches restored (log 102). A word that it was
to replay is forgotten when the handler has sent it elsewhere. -/
def Gang.leaveTrap (g : Gang) (cycle : Nat) : Gang :=
  match g.saved with
  | none => { g with inTrap := false }
  | some sv =>
    let g := g.restore sv
    let m := g.lanesAt sv.split
    let moved := (lanesOf m).any (fun i => (g.thread i).pc != codeAddr g.tpc)
    let g := g.modThreads m (fun t => { t with pc := codeAddr g.tpc })
    let g := if moved then g.setLanes sv.split m else g
    let g : Gang := { g with splits := g.splits.map (fun (x : Split) => if x.id = sv.split then { x with keep := m } else x) }
    let g : Gang := { g with inTrap := false, readyAt := cycle }
    if g.run.isNone then g.merge else g

/-- A diversion to a user-interrupt handler (R306), after the JOINs that can release (R146). -/
def Gang.divert (g : Gang) (handler : Word) (cycle : Nat) : Gang :=
  let g := g.releaseJoins cycle
  let sv := g.save g.nextId none
  let g := g.exchange
  let g := g.enter handler
  { g with inUi := true, saved := some sv, readyAt := cycle }

/-- The end of a diversion (R280). -/
def Gang.leaveUi (g : Gang) (cycle : Nat) : Gang :=
  match g.saved with
  | none => { g with inUi := false }
  | some sv => ({ g.restore sv with inUi := false, readyAt := cycle }).merge

/-- Reports of parks that a return discards are withdrawn. -/
def State.dropParkReports (s : State) (w g : Nat) : State :=
  let ids := (s.gang w g).parks.map Park.id
  s.withdrawReports (fun r => r.wg == w && r.gang == g && ids.contains r.park)

/-! ## Parking (R298) -/

/-- Park lanes of the split in issue at its word; the other lanes of the split go on at the next word. The run ends. -/
def Issue.park (c : Issue) (lanes todo : Mask) (why : Why) (left : Option Nat) (s : State) : State :=
  c.mod s (fun g =>
    let rest := c.lanes &&& ~~~lanes
    let lat := g.b.filter (fun e => lanes.getLsbD (e.1 / 4))
    let p : Park := { id := g.nextId, lanes := lanes, todo := todo, act := c.act, pc := c.pc, lat := lat, why := why,
                      since := s.cycle, left := left, ready := none, org := s.aux.cur.bind Cur.org,
                      first := (s.aux.cur.map Cur.fetching).getD false }
    let g := g.modThreads rest (fun t => { t with pc := c.pc + 8 })
    let g := g.modThreads lanes (fun t => { t with st := .parked, pc := c.pc })
    let g := g.setLanes c.split rest
    ({ g with parks := g.parks ++ [p], nextId := g.nextId + 1 } : Gang).endRun s.cycle)

/-- The number the next park of the gang will have. -/
def Issue.parkId (c : Issue) (s : State) : Nat := (c.g s).nextId

/-- Park the whole split with lanes to replay (R72, R135). -/
def Issue.parkReplay (c : Issue) (todo : Mask) (why : Why) (s : State) : State := c.park c.lanes todo why none s

/-- A fault that parks and reports to an owner (R72, R74, R298): reason of R299. -/
def Issue.parkFault (c : Issue) (todo : Mask) (queue : FaultQueue) (reason : Nat) (host wr : Bool) (addr : Word) (s : State) :
    State :=
  let id := c.parkId s
  let (num, s) := s.report queue reason host wr addr c.wg c.gang id todo
  c.parkReplay todo (.fault (BitVec.ofNat 8 reason) host wr addr num) s

/-- A write that would append to a full dirty ring (R76): one full-ring exit until the ring has had room. -/
def Issue.parkDirty (c : Issue) (todo : Mask) (gpa : Nat) (s : State) : State :=
  let vif := vifOf (c.key s)
  let id := c.parkId s
  let s :=
    if (s.vif vif).exitSent then s
    else
      ((s.report (.host vif) 4 true true (word (gpa / 4096 * 4096)) c.wg c.gang id todo).2).modVif vif
        (fun v => { v with exitSent := true })
  c.parkReplay todo (.dirtyFull (word gpa)) s

/-- A park that is not parked any more leaves the list. -/
def Gang.unpark (g : Gang) (id : Nat) : Gang := { g with parks := g.parks.filter (fun p => p.id != id) }

/-- The gang's park with a number, if its wait is in force (waits set aside by a trap are not, R296). -/
def Gang.parkOf (g : Gang) (id : Nat) : Option Park := g.parks.find? (fun p => p.id == id)

/-- A parked split continues at the word after its instruction (R18). -/
def Gang.continue (g : Gang) (p : Park) (cycle : Nat) : Gang :=
  ((g.unpark p.id).rejoin p.lanes (p.pc + 8)).readyFrom g cycle

/-- The park is that of a write which waits for room in the dirty ring (R76). -/
def Park.isDirty (p : Park) : Bool :=
  match p.why with
  | .dirtyFull _ => true
  | _ => false

/-- Parked lanes leave their park, with the latches they had. -/
def Gang.wakeLat (g : Gang) (p : Park) : Gang :=
  let others : Tab Word := g.b.filter (fun e => !p.lanes.getLsbD (e.1 / 4))
  { g.unpark p.id with b := p.lat.foldl (fun t (e : Nat × Word) => Tab.set t e.1 e.2) others }

/-- A parked split replays its word, with its unfinished lanes and the latches it had (R18, R72, log 79). -/
def Gang.replay (g : Gang) (p : Park) (cycle : Nat) : Gang :=
  ((g.wakeLat p).afterLast { id := 0, lanes := p.lanes, replay := some p.todo, org := p.org, turn := p.isDirty, first := p.first,
                             keep := p.lanes } p.pc).readyFrom g cycle

/-- Parked lanes stand again at their word, as the split that traps there (R73, R184); the split's number. -/
def Gang.standAt (g : Gang) (p : Park) : Nat × Gang :=
  let id := g.nextId
  (id, (g.wakeLat p).afterLast { id := 0, lanes := p.lanes, replay := none } p.pc)

/-! ## Member forms and joins that can release (R20, R210) -/

/-- The arrivals at one member form: parks at one address. -/
def Gang.memberParks (g : Gang) (pc : Word) : List Park :=
  g.parks.filter (fun p => p.pc == pc && match p.why with
    | .member .. => true
    | _ => false)

/-- kN of a member form. -/
def memberK (w : FullWord) : Nat := w.sc.toNat % 8

/-- The member form at an address performs: every lane of kN has arrived there or has exited (R210). -/
def Gang.memberReady (g : Gang) (p : Park) : Bool :=
  match p.why with
  | .member _ w _ _ =>
      let arrived := (g.memberParks p.pc).foldl (fun m q => m ||| q.lanes) 0#32
      (g.kGet (memberK w) &&& ~~~arrived &&& g.live) == 0#32
  | _ => false

/-- Some JOIN or member form of the gang can release. -/
def Gang.anyRelease (g : Gang) : Bool :=
  (List.range 8).any (fun k => (g.joinPc k).isSome) || g.parks.any g.memberReady

/-- The mask number at which a thread waits in a JOIN or a member form. -/
def Gang.waitMask (g : Gang) (lane : Nat) : Option Nat :=
  match (g.thread lane).st with
  | .joinWait k _ => some k.toNat
  | .parked =>
      match g.parks.find? (fun p => p.lanes.getLsbD lane) with
      | some p => (match p.why with
        | .member _ w _ _ => some (memberK w)
        | _ => none)
      | none => none
  | .exited | .exec => none

/-- The BARW a thread waits at; none once its phase has completed. -/
def Gang.barOf (g : Gang) (lane : Nat) : Option (BitVec 3 × BitVec 3) :=
  match (g.thread lane).st with
  | .parked =>
      match g.parks.find? (fun p => p.lanes.getLsbD lane) with
      | some p => (match p.why with
        | .barw i sc => if p.ready.isNone then some (i, sc) else none
        | _ => none)
      | none => none
  | .exited | .exec | .joinWait .. => none

/-- The barrier that every non-exited thread of a gang waits at (R184). -/
def Gang.barAll (g : Gang) : Option (BitVec 3 × BitVec 3) :=
  match lanesOf g.live with
  | [] => none
  | l0 :: l => if l.all (fun i => g.barOf i == g.barOf l0) then g.barOf l0 else none

/-- Every BARW wait of a gang stands at its word again. -/
def Gang.standBars (g : Gang) : Gang :=
  (g.parks.filter (fun p => match p.why with
    | .barw .. => true
    | _ => false)).foldl (fun g p => (g.standAt p).2) g

/-- The waiting threads of a gang trap at their BARW words (R28, R184): the recorded word is the lowest lane's. -/
def State.trapBars (s : State) (w g cause tinfo : Nat) : State :=
  let x := s.gang w g
  let m := x.lanesWhere (fun t => t.st == .parked)
  let y := x.standBars
  let l0 := (lowest m).getD 0
  let split := match y.splits.find? (fun z => z.lanes.getLsbD l0) with
    | some z => z.id
    | none => y.nextId
  (s.setGang w g y).takeTrap w g split none cause m (word tinfo) (x.thread l0).pc

/-- The instance of a wired barrier at a scope code 2 wg, 3 clus, 4 die for a workgroup (R28). -/
def State.barInst (s : State) (w : Nat) (scope : BitVec 3) : Nat :=
  match scope.toNat with
  | 2 => w
  | 3 => clusterOf (s.wg w).core
  | _ => dieOf (s.wg w).core

/-- A barrier record is the instance that a workgroup's gangs reach. -/
def State.isBar (s : State) (w : Nat) (i scope : BitVec 3) (b : Barrier) : Bool :=
  b.launch == (s.wg w).launch && b.i == i && b.scope == scope && b.inst == s.barInst w scope

/-- A gang arrives at its instance; at a broken one it traps (R28). -/
def State.arriveBar (s : State) (w g : Nat) (i scope : BitVec 3) : State :=
  if s.sched.barriers.any (fun b => s.isBar w i scope b && b.broken) then s.trapBars w g cBARRIER i.toNat
  else
    s.modSched (fun c => { c with barriers := c.barriers.map (fun b =>
      if s.isBar w i scope b && !b.arrived.contains (w, g) then { b with arrived := b.arrived ++ [(w, g)] } else b) })

/-- Deadlock, arrivals and mismatched barriers of a gang (R20, R184, R210): checked whenever a word or a wait has changed
it. -/
def State.settleGang (s : State) (w g : Nat) : State :=
  let x := s.gang w g
  let live := lanesOf x.live
  match live.head? with
  | none => s
  | some l0 =>
    if live.all (fun i => (x.waitMask i).isSome) && !x.anyRelease then
      s.takeTrap w g x.nextId none cDEADLOCK x.live (word ((x.waitMask l0).getD 0)) (x.thread l0).pc
    else
      match x.barAll with
      | some (i, scope) => s.arriveBar w g i scope
      | none => if live.all (fun i => (x.barOf i).isSome) then s.trapBars w g cILLEGAL 6 else s

/-! ## Exits (R20, R143) -/

/-- Threads exit: their lanes leave every rejoin mask, split and wait. -/
def Gang.exitLanes (g : Gang) (m : Mask) : Gang :=
  let g := g.modThreads m (fun t => { t with st := .exited })
  let g := g.leave m
  { g with k := (List.range 8).foldl (fun t n => Tab.set t n (Tab.get t n &&& ~~~m)) g.k }

end Sys2Proof.Machine
end

