-- ==== Sys2Proof/Machine/Flags.lean ====
section
/-! DEFINITION. The floating flags of fpctl (spec/03_numbers.md R44 to R46). Flags are five bits in the order of R163's tinfo:
4 NV, 3 DZ, 2 OF, 1 UF, 0 NX. -/

namespace Sys2Proof.Machine

def fNV : Nat := 16
def fDZ : Nat := 8
def fOF : Nat := 4
def fUF : Nat := 2
def fNX : Nat := 1

/-- The sticky bits [15:11] take the flags raised (R45). -/
def Gang.raise (g : Gang) (fl : Nat) : Gang := { g with fpctl := g.fpctl ||| word (fl % 32 * 2 ^ 11) }

/-- The flags among those raised whose enable bit [10:6] is 1 (R46). -/
def Gang.enabled (g : Gang) (fl : Nat) : Nat := Nat.land (fl % 32) (Word.bits g.fpctl 6 5)

/-- fpctl.RM as a rounding mode 1 to 4 (R43): the override of a word, or the dynamic mode. -/
def Gang.mode (g : Gang) (rnd : Nat) : Nat := if rnd = 0 then Word.bits g.fpctl 0 2 + 1 else rnd

end Sys2Proof.Machine
end

