-- ==== Sys2Proof/Machine/Operands.lean ====
section
/-! DEFINITION. Operand forms, the checks made before a word performs, and the writing of results (spec/11_encoding.md R116 to
R119, R124, R135, spec/01_work.md R15, R22). -/

namespace Sys2Proof.Machine

/-! ## Reading operands -/

/-- A source field: a v register or a latch (R117). -/
def Gang.src (g : Gang) (lane : Nat) (f : BitVec 8) : Word :=
  if f.toNat < 128 then g.vGet lane f.toNat else g.bGet lane (f.toNat % 4)

/-- A value of w bits in every sub-element of a register. -/
def replicate (w x : Nat) : Nat := (List.range (64 / w)).foldl (fun a j => a + x % 2 ^ w * 2 ^ (w * j)) 0

/-- An imm8 sign-extended to the sub-element width and used in every sub-element (R119). -/
def immSx (w : Nat) (f : BitVec 8) : Word := word (replicate w (f.signExtend 64).toNat)

/-- An imm8 read as unsigned 0 to 255 (R119). -/
def immZx (f : BitVec 8) : Word := word f.toNat

def Issue.srcA (c : Issue) (g : Gang) (i : Nat) : Word := g.src i c.w.sa
/-- Source b; an imm8 is sign-extended to the width. -/
def Issue.srcB (c : Issue) (g : Gang) (w i : Nat) : Word :=
  if c.f.useB c.w = .raw then immSx w c.w.sb else g.src i c.w.sb
/-- Source b; an imm8 is a count, position or selector. -/
def Issue.srcBz (c : Issue) (g : Gang) (i : Nat) : Word :=
  if c.f.useB c.w = .raw then immZx c.w.sb else g.src i c.w.sb
def Issue.srcC (c : Issue) (g : Gang) (w i : Nat) : Word :=
  if c.f.useC c.w = .raw then immSx w c.w.sc else g.src i c.w.sc
def Issue.srcCz (c : Issue) (g : Gang) (i : Nat) : Word :=
  if c.f.useC c.w = .raw then immZx c.w.sc else g.src i c.w.sc

/-- Number in a field that names a register of n bits. -/
def nameOf (f : BitVec 8) (bits : Nat) : Nat := f.toNat % 2 ^ bits
def Issue.dstName (c : Issue) (bits : Nat) : Nat := c.w.dst.toNat % 2 ^ bits

/-- TYPE, SAT, RND of the word after its fallbacks (R132). -/
def Issue.ty (c : Issue) : Nat := c.f.typeEff c.w
def Issue.sat (c : Issue) : Bool := c.f.satEff c.w
def Issue.rnd (c : Issue) : Nat := c.f.rndEff c.w

/-! ## Checks before a word performs (R124) -/

/-- A v register is present for the gang (R15, R21). -/
def State.regOk (s : State) (w g r : Nat) : Bool :=
  decide (r < hdrRegs (s.hdr w)) || (((s.gang w g).inTrap || (s.gang w g).inUi) && decide (120 ≤ r ∧ r < 128))

/-- The lowest register of a list that is not present (R124 check 4). -/
def State.regBad (s : State) (w g : Nat) (l : List Nat) : Option Nat :=
  ((l.filter (fun r => !s.regOk w g r)).foldl (fun (a : Option Nat) r =>
    match a with
    | none => some r
    | some b => some (if r < b then r else b)) none)

/-- The word is a member form of a cross-lane instruction (R209): its members arrive even with no guard true (R116). -/
def isMember (op : Nat) (w : FullWord) : Bool := decide (0x90 ≤ op ∧ op ≤ 0x97) && w.xa % 2 == 1

/-- Checks 1 to 5 of R124, then the body. A word whose guard holds in no lane passes through the checks and does nothing else. -/
def Issue.checks (c : Issue) (body : Issue → State → State) (s : State) : State :=
  match form c.op c.w with
  | none => c.trapSplit cILLEGAL 1 s
  | some f =>
    if f.illegal c.w then c.trapSplit cILLEGAL 2 s
    else
      match s.regBad c.wg c.gang (f.regs c.w) with
      | some r => c.trapSplit cREGRANGE r s
      | none =>
        if c.act = 0#32 then (if isMember c.op c.w then body c s else c.done s)
        else body c (c.warn (f.warns c.op c.w) s)

/-- The meaning of a full-format word: the checks, the body, and what the gang must settle. -/
def runWord (op : Nat) (w : FullWord) (s : State) (body : Issue → State → State) : Host.Outcome State Fault Refusal :=
  match s.issue op w with
  | none => .fault .noIssuer
  | some c => .next ((c.checks body s).settleGang c.wg c.gang)

/-! ## Results -/

/-- What one lane's performance gives: a v result, a predicate, floating flags and warns bits. -/
structure LaneOut where
  val   : Option Word := none
  pred  : Option (Nat × Bool) := none
  flags : Nat := 0
  warns : Nat := 0
  deriving DecidableEq, Repr, Inhabited

/-- A v result alone. -/
def LaneOut.v (x : Word) : LaneOut := { val := some x }

/-- A predicate alone. -/
def LaneOut.p (n : Nat) (x : Bool) : LaneOut := { pred := some (n, x) }

/-- A v result of a lane: one latch entry, and the register unless NW is set (R22, R118). -/
def Gang.result (g : Gang) (nw : Bool) (dst lane : Nat) (x : Word) : Gang :=
  let g := g.latch lane x
  if nw then g else g.vSet lane dst x

/-- One lane's results. -/
def Gang.putLane (g : Gang) (nw : Bool) (dst lane : Nat) (o : LaneOut) : Gang :=
  let g := match o.val with
    | some x => g.result nw dst lane x
    | none => g
  match o.pred with
  | some (n, x) => g.pSet lane n x
  | none => g

/-- The results of several lanes. -/
def Gang.putLanes (g : Gang) (nw : Bool) (dst : Nat) (outs : List (Nat × LaneOut)) : Gang :=
  outs.foldl (fun g e => g.putLane nw dst e.1 e.2) g

def orAll (l : List Nat) : Nat := l.foldl Nat.lor 0

/-- Flags, FP_TRAP, warnings and results of the active lanes, then the next word (R45, R46). -/
def Issue.commit (c : Issue) (out : Nat → LaneOut) (s : State) : State :=
  let outs := (lanesOf c.act).map (fun i => (i, out i))
  let fl := orAll (outs.map (fun e => e.2.flags))
  let s := c.mod s (fun g => g.raise fl)
  let g := c.g s
  let bad := maskOf ((outs.filter (fun e => g.enabled e.2.flags != 0)).map Prod.fst)
  if bad ≠ 0#32 then c.trap cFPTRAP bad (word fl) s
  else
    let s := c.warn (orAll (outs.map (fun e => e.2.warns))) s
    c.done (c.mod s (fun g => g.putLanes c.w.nw c.w.dst.toNat outs))

/-- A lane-wise instruction: each active lane's result from the gang as it stands. -/
def laneWord (op : Nat) (w : FullWord) (s : State) (f : Issue → Gang → Nat → LaneOut) : Host.Outcome State Fault Refusal :=
  runWord op w s (fun c s => c.commit (f c (c.g s)) s)

/-- A lane-wise instruction with a v result. -/
def laneVal (op : Nat) (w : FullWord) (s : State) (f : Issue → Gang → Nat → Word) : Host.Outcome State Fault Refusal :=
  laneWord op w s (fun c g i => .v (f c g i))

/-! ## Uniform instructions (R135) -/

/-- Some active lane reads an operand that differs from the lowest active lane's. -/
def Issue.differs (c : Issue) (rd : Nat → List Word) : Bool := (lanesOf c.act).any (fun i => rd i != rd c.low)

/-- warns.UNIF when the operands differ. -/
def Issue.uniform (c : Issue) (rd : Nat → List Word) (s : State) : State :=
  if c.differs rd then c.warn wUNIF s else s

/-- The same v result in every active lane. -/
def Issue.putAll (c : Issue) (x : Word) (s : State) : State :=
  c.mod s (fun g => g.putLanes c.w.nw c.w.dst.toNat ((lanesOf c.act).map (fun i => (i, .v x))))

/-- The same predicate in every lane of a mask. -/
def Gang.predAll (g : Gang) (m : Mask) (n : Nat) (x : Bool) : Gang := (lanesOf m).foldl (fun g i => g.pSet i n x) g

end Sys2Proof.Machine
end

