-- ==== Sys2Proof/Machine/Fetch.lean ====
section
/-! DEFINITION. Instruction fetch (spec/00_scope.md R3, spec/05_memory.md R73, R74, spec/11_encoding.md R136). -/

namespace Sys2Proof.Machine

/-- The outcome of a fetch: a word, a fetch fault at the guest or the host stage, or a corrupted table. -/
inductive Fetched where
  | word (x : Nat)
  | fault (host : Bool)
  | corrupt
  deriving DecidableEq, Repr, Inhabited

/-- A word of a launch's code image at a device physical address. -/
def Launch.code (x : Launch) (pa : Nat) : Nat := leNat ((locs (locHbm pa) 8).map (Memory.read x.img))

/-- Fetch the word at a virtual address for a workgroup: X at both stages, the code image of its launch (R3). A discarded page
is a fetch fault (R74). -/
def State.fetch (s : State) (w va : Nat) : Fetched × State :=
  let (x, s) := s.translate (s.ctxKey w) va { rd := false, wr := false, ex := true }
  match x with
  | .ok pa _ none => (.word ((s.launch (s.wg w).launch).code pa), s)
  | .ok _ _ (some host) => (.fault host, s)
  | .fault host _ => (.fault host, s)
  | .dirtyFull _ => (.fault true, s)
  | .corrupt => (.corrupt, s)

/-- The queue of a stage's owner (R298). -/
def State.stageQueue (s : State) (w : Nat) (host : Bool) : FaultQueue :=
  if host then .host (vifOf (s.ctxKey w)) else .guest (s.ctxKey w)

/-- The 64-byte line of an address. -/
def lineOf (a : Nat) : Nat := a / 64 * 64

/-- Several fetches in turn: every word, or the first address that does not answer one. -/
def State.fetchAll (s : State) (w : Nat) : List Nat → (List Nat × Option (Nat × Fetched)) × State
  | [] => (([], none), s)
  | a :: l =>
    match s.fetch w a with
    | (.word x, s) =>
        let r := s.fetchAll w l
        ((x :: r.1.1, r.1.2), r.2)
    | (f, s) => (([], some (a, f)), s)

/-- A fetch of the word in issue (of a table or a target) that gives no word: the split parks, or the context goes (R70, R138). -/
def Issue.fetchStop (c : Issue) (a : Nat) (f : Fetched) (s : State) : State :=
  match f with
  | .word _ => s
  | .corrupt => s.teardownAt 8 c.wg c.gang c.pc c.act
  | .fault host => c.parkFault c.act (s.stageQueue c.wg host) 1 host false (word (lineOf a)) s

end Sys2Proof.Machine
end

