-- ==== Sys2Proof/Machine/Control.lean ====
section
/-! DEFINITION. Branches, calls, exits, rejoin masks, predicates and control registers (spec/13_isa_control.md R139 to R153,
spec/11_encoding.md R136 to R138, spec/01_work.md R18, R20). -/

namespace Sys2Proof.Machine

/-! ## NOP, YIELD, LPAD -/

/-- NOP (R122). -/
def execNop (w : FullWord) (s : State) : Host.Outcome State Fault Refusal := runWord 0x00 w s Issue.done

/-- YIELD (R144). -/
def execYield (w : FullWord) (s : State) : Host.Outcome State Fault Refusal := runWord 0x09 w s Issue.done

/-- LPAD (R137). -/
def execLpad (w : FullWord) (s : State) : Host.Outcome State Fault Refusal := runWord 0x04 w s Issue.done

/-! ## Branches (R18, R138, R141, R142) -/

/-- Send each active lane to its address and the others to the next word; the run ends. -/
def Issue.branch (c : Issue) (dest : Nat → Word) (s : State) : State :=
  let next := c.pc + 8
  c.count true (c.mod s (fun g =>
    g.scatter c.split c.lanes next (fun i => if c.act.getLsbD i then dest i else next)))

/-- Word offset imm32 from the word. -/
def Issue.target (c : Issue) : Word := c.pc + 8 * c.w.imm32.signExtend 64

/-- BRA (R141). -/
def execBra (w : FullWord) (s : State) : Host.Outcome State Fault Refusal :=
  runWord 0x01 w s (fun c s => c.branch (fun _ => c.target) s)

/-- BRC (R141). -/
def execBrc (w : FullWord) (s : State) : Host.Outcome State Fault Refusal :=
  runWord 0x02 w s (fun c s =>
    let g := c.g s
    c.branch (fun i => if g.pGet i (c.dstName 3) != (w.m2 % 2 == 1) then c.target else c.pc + 8) s)

/-- Push a return address on the stacks of the active lanes. -/
def Issue.pushAll (c : Issue) (s : State) : State :=
  c.mod s (fun g => g.modThreads c.act (fun t => { t with rstack := codeAddr (c.pc + 8) :: t.rstack }))

/-- The active lanes whose return stack is full. -/
def Issue.fullStacks (c : Issue) (s : State) : Mask := maskIf c.act (fun i => 32 ≤ ((c.g s).thread i).rstack.length)

/-- The active lanes whose return stack is empty. -/
def Issue.emptyStacks (c : Issue) (s : State) : Mask := maskIf c.act (fun i => ((c.g s).thread i).rstack.isEmpty)

/-- CALL (R142). -/
def execCall (w : FullWord) (s : State) : Host.Outcome State Fault Refusal :=
  runWord 0x05 w s (fun c s =>
    if c.fullStacks s ≠ 0#32 then c.trap cCALLDEPTH (c.fullStacks s) 32 s
    else c.branch (fun _ => c.target) (c.pushAll s))

/-- RET (R142). -/
def execRet (w : FullWord) (s : State) : Host.Outcome State Fault Refusal :=
  runWord 0x07 w s (fun c s =>
    if c.emptyStacks s ≠ 0#32 then c.trap cRETEMPTY (c.emptyStacks s) 0 s
    else
      let g := c.g s
      c.branch (fun i => (g.thread i).rstack.headD 0)
        (c.mod s (fun g => g.modThreads c.act (fun t => { t with rstack := t.rstack.tail }))))

/-- MARK of a table word (R136). -/
def tabMark (x : Nat) : Nat := fld x 54 10

/-- A word is the landing pad of a label (R137). -/
def isLpad (x label : Nat) : Bool := fld x 63 1 == 0 && fld x 54 8 == 0x04 && fld x 0 16 == label

/-- The checks of BRX and CALLX (R138); k goes on with the target of each active lane. -/
def Issue.table (c : Issue) (k : (Nat → Word) → State → State) (s : State) : State :=
  let hdrAt := c.target
  match s.fetch c.wg hdrAt.toNat with
  | (.word hdr, s) =>
      let bound := if tabMark hdr = 0x0FF then fld hdr 0 16 else 0
      let label := fld hdr 32 16
      let g := c.g s
      let idx := fun i => (c.srcA g i).toNat
      let bad := maskIf c.act (fun i => bound ≤ idx i)
      if bad ≠ 0#32 then c.trap cTABLE bad (word bound) s
      else
        let lanes := lanesOf c.act
        match s.fetchAll c.wg (lanes.map (fun i => (hdrAt + 8 * word (idx i + 1)).toNat)) with
        | ((_, some (a, f)), s) => c.fetchStop a f s
        | ((ents, none), s) =>
            let dests : Tab Word := (lanes.zip ents).map (fun e => (e.1, hdrAt + 8 * (BitVec.ofNat 32 (fld e.2 0 32)).signExtend 64))
            match s.fetchAll c.wg (dests.map (fun e => e.2.toNat)) with
            | ((_, some (a, f)), s) => c.fetchStop a f s
            | ((words, none), s) =>
                let miss := maskOf (((lanes.zip words).filter (fun e => !isLpad e.2 label)).map Prod.fst)
                if miss ≠ 0#32 then c.trap cLPAD miss (word label) s
                else k (Tab.get dests) s
  | (f, s) => c.fetchStop hdrAt.toNat f s

/-- BRX (R138). -/
def execBrx (w : FullWord) (s : State) : Host.Outcome State Fault Refusal :=
  runWord 0x03 w s (fun c s => c.table c.branch s)

/-- CALLX (R138, R142). -/
def execCallx (w : FullWord) (s : State) : Host.Outcome State Fault Refusal :=
  runWord 0x06 w s (fun c s =>
    c.table (fun dest s =>
      if c.fullStacks s ≠ 0#32 then c.trap cCALLDEPTH (c.fullStacks s) 32 s
      else c.branch dest (c.pushAll s)) s)

/-- EXIT (R143). -/
def execExit (w : FullWord) (s : State) : Host.Outcome State Fault Refusal :=
  runWord 0x08 w s (fun c s =>
    let g := c.g s
    if g.inTrap then
      let s := s.withdrawReports (fun r => r.wg == c.wg && r.gang == c.gang)
      c.count true (c.mod s (fun g =>
        let g := g.exitLanes g.live
        { g with inTrap := false, saved := none, parks := [] }))
    else c.count true (c.mod (c.advance s) (fun g => g.exitLanes c.act)))

/-! ## Rejoin masks (R20, R145 to R147) -/

/-- JOIN (R145). -/
def execJoin (w : FullWord) (s : State) : Host.Outcome State Fault Refusal :=
  runWord 0x0A w s (fun c s =>
    let k := w.sa.toNat % 8
    let g := c.g s
    let waits := c.act &&& g.kGet k
    let s := c.advance s
    c.count true (c.mod s (fun g =>
      let g := g.setLanes c.split (c.lanes &&& ~~~waits)
      g.modThreads waits (fun t => { t with st := .joinWait (BitVec.ofNat 3 k) c.split, pc := c.pc }))))

/-- JOIN_RELEASE (R20). -/
def execJoinRelease (w g k : Nat) (s : State) : Host.Outcome State Fault Refusal :=
  .next (s.modGang w g (fun x => x.releaseJoin k s.cycle))

/-- One rejoin mask written, exited lanes cleared (R146). -/
def Issue.kWrite (c : Issue) (x : Mask) (s : State) : State :=
  c.done (c.mod s (fun g => { g with k := Tab.set g.k (c.dstName 3) (x &&& g.live) }))

/-- kA of KOP. -/
def Issue.kSrc (c : Issue) (s : State) : Mask := (c.g s).kGet (nameOf c.w.sb 3)

/-- KOP_SET (R146). -/
def execKopSet (w : FullWord) (s : State) : Host.Outcome State Fault Refusal := runWord 0x0B w s (fun c s => c.kWrite c.act s)

/-- KOP_OR (R146). -/
def execKopOr (w : FullWord) (s : State) : Host.Outcome State Fault Refusal :=
  runWord 0x0B w s (fun c s => c.kWrite (c.kSrc s ||| c.act) s)

/-- KOP_AND (R146). -/
def execKopAnd (w : FullWord) (s : State) : Host.Outcome State Fault Refusal :=
  runWord 0x0B w s (fun c s => c.kWrite (c.kSrc s &&& c.act) s)

/-- KOP_ANDN (R146). -/
def execKopAndn (w : FullWord) (s : State) : Host.Outcome State Fault Refusal :=
  runWord 0x0B w s (fun c s => c.kWrite (c.kSrc s &&& ~~~c.act) s)

/-- KOP_COPY (R146). -/
def execKopCopy (w : FullWord) (s : State) : Host.Outcome State Fault Refusal :=
  runWord 0x0B w s (fun c s => c.kWrite (c.kSrc s) s)

/-- KOP_LOAD (R146). -/
def execKopLoad (w : FullWord) (s : State) : Host.Outcome State Fault Refusal :=
  runWord 0x0B w s (fun c s => c.kWrite ((c.srcA (c.g s) c.low).setWidth 32) s)

/-- KRD (R147). -/
def execKrd (w : FullWord) (s : State) : Host.Outcome State Fault Refusal :=
  laneVal 0x0C w s (fun _ g _ => (g.kGet (nameOf w.sa 3)).setWidth 64)

/-! ## Predicates (R148 to R150) -/

/-- The comparison of a condition code: 0 eq, 1 ne, 2 lt, 3 le, 4 gt, 5 ge (R148, R195). -/
def compareInt (cc : Nat) (x y : Int) : Bool :=
  match cc with
  | 0 => x == y
  | 1 => x != y
  | 2 => decide (x < y)
  | 3 => decide (x ≤ y)
  | 4 => decide (y < x)
  | _ => decide (y ≤ x)

/-- A value read in a type: two's complement for .sN, unsigned otherwise (R33). -/
def readIn (ty x : Nat) : Int :=
  if 4 ≤ ty ∧ ty < 8 then sextN (ewidth ty) x else (x % 2 ^ ewidth ty : Nat)

/-- The combining forms: 0 plain, 1 and, 2 or, 3 xor (R148). -/
def combine (xa : Nat) (old new : Bool) : Bool :=
  match xa with
  | 0 => new
  | 1 => old && new
  | 2 => old || new
  | _ => old != new

/-- One lane of CMP (R148). -/
def Issue.cmpLane (c : Issue) (g : Gang) (i : Nat) : LaneOut :=
  let ty := c.ty
  let r := compareInt c.w.sop (readIn ty (c.srcA g i).toNat) (readIn ty (c.srcB g 64 i).toNat)
  let n := c.dstName 3
  .p n (combine c.w.xa (g.pGet i n) r)

/-- CMP (R148). -/
def execCmp (w : FullWord) (s : State) : Host.Outcome State Fault Refusal := laneWord 0x10 w s Issue.cmpLane

/-- The operations of PLOP (R149). -/
def plop (op : Nat) (a b : Bool) : Bool :=
  match op with
  | 0 => a && b
  | 1 => a || b
  | 2 => a != b
  | 3 => a && !b
  | 4 => !(a && b)
  | 5 => !(a || b)
  | _ => a == b

/-- One lane of PLOP (R149). -/
def Issue.plopLane (c : Issue) (g : Gang) (i : Nat) : LaneOut :=
  .p (c.dstName 3) (plop c.w.sop (g.pGet i (nameOf c.w.sa 3)) (g.pGet i (nameOf c.w.sb 3)))

/-- PLOP (R149). -/
def execPlop (w : FullWord) (s : State) : Host.Outcome State Fault Refusal := laneWord 0x11 w s Issue.plopLane

/-- One lane of PMOV mode 0 (R150). -/
def Issue.pmovLane (c : Issue) (g : Gang) (i : Nat) : LaneOut := .p (c.dstName 3) (g.pGet i (nameOf c.w.sa 3))

/-- PMOV mode 0 (R150). -/
def execPmov (w : FullWord) (s : State) : Host.Outcome State Fault Refusal := laneWord 0x12 w s Issue.pmovLane

/-- PMOV_SAVE (R150). -/
def execPmovSave (w : FullWord) (s : State) : Host.Outcome State Fault Refusal :=
  laneVal 0x12 w s (fun _ g i => word (g.pAll i))

/-- PMOV_LOAD (R150). -/
def execPmovLoad (w : FullWord) (s : State) : Host.Outcome State Fault Refusal :=
  runWord 0x12 w s (fun c s =>
    c.done (c.mod s (fun g => (lanesOf c.act).foldl (fun h i =>
      (List.range 7).foldl (fun h j => h.pSet i (j + 1) (Word.bit (c.srcA g i) (j + 1))) h) g)))

/-- PMOV_NZ (R150). -/
def execPmovNz (w : FullWord) (s : State) : Host.Outcome State Fault Refusal :=
  laneWord 0x12 w s (fun c g i => .p (c.dstName 3) (c.srcA g i != 0#64))

/-! ## Control registers (R151 to R153) -/

/-- The index field. -/
def Issue.creg (c : Issue) : Nat := fld c.w.modN 0 12

/-- splitid (R153). -/
def Issue.splitId (c : Issue) (g : Gang) : Word :=
  let n := (g.splits.filter (fun x => x.lanes != 0#32)).length
  word (c.lanes.toNat * 2 ^ 32 + (n - 1) * 2 ^ 8 + (lowest c.lanes).getD 0)

/-- tstat (R153). -/
def Gang.tstat (g : Gang) : Word := word (bitN g.inTrap + 2 * bitN g.inUi)

/-- The value of a control register as a lane sees it (R152). -/
def Issue.cregRead (c : Issue) (s : State) (i : Nat) : Word :=
  let g := c.g s
  let x := s.ctx (c.key s)
  match c.creg with
  | 0x000 => s.wid c.wg c.gang i
  | 0x001 => word i
  | 0x002 => c.splitId g
  | 0x003 => (s.launch (s.wg c.wg).launch).id.setWidth 64
  | 0x004 => word s.cycle
  | 0x005 => word (g.thread i).rstack.length
  | 0x006 => (g.thread i).rstack.headD 0
  | 0x010 => g.fpctl
  | 0x011 => g.warns
  | 0x012 => g.warnpc
  | 0x020 => g.tvec
  | 0x021 => g.tpc
  | 0x022 => g.tcause
  | 0x023 => g.tmask
  | 0x024 => g.tinfo
  | 0x025 => g.tstat
  | 0x030 => x.uimask
  | 0x031 => x.uipend
  | 0x032 => x.uihnd
  | 0x033 => g.uivec
  | _ => g.uipay

/-- The bits of a control register whose access is RW (R44, R133, R134, R152, R153). -/
def cregMask (idx : Nat) : Word :=
  match idx with
  | 0x010 => 0xFFC3
  | 0x011 => 0x7F
  | 0x012 | 0x020 | 0x021 => 0x01FFFFFFFFFFFFF8
  | 0x022 => 0xFF
  | 0x023 => 0xFFFFFFFF
  | 0x024 | 0x030 | 0x032 => 0xFFFFFFFFFFFFFFFF
  | _ => 0

/-- Store the value of a control register. -/
def Issue.cregPut (c : Issue) (x : Word) (s : State) : State :=
  match c.creg with
  | 0x010 => c.mod s (fun g => { g with fpctl := x })
  | 0x011 => c.mod s (fun g => { g with warns := x })
  | 0x012 => c.mod s (fun g => { g with warnpc := x })
  | 0x020 => c.mod s (fun g => { g with tvec := x })
  | 0x021 => c.mod s (fun g => { g with tpc := x })
  | 0x022 => c.mod s (fun g => { g with tcause := x })
  | 0x023 => c.mod s (fun g => { g with tmask := x })
  | 0x024 => c.mod s (fun g => { g with tinfo := x })
  | 0x030 => s.modCtx (c.key s) (fun y => { y with uimask := x })
  | 0x032 => s.modCtx (c.key s) (fun y => { y with uihnd := x })
  | _ => s

/-- One lane's write: only the RW bits change. -/
def Issue.cregWrite (c : Issue) (f : Word → Word → Word) (a : Word) (i : Nat) (s : State) : State :=
  let old := c.cregRead s i
  let m := cregMask c.creg
  c.cregPut ((f old a &&& m) ||| (old &&& ~~~m)) s

/-- Lane by lane, in ascending order (R151). -/
def Issue.cregAll (c : Issue) (f : Word → Word → Word) (s : State) : State :=
  let g := c.g s
  c.done ((lanesOf c.act).foldl (fun s i => c.cregWrite f (c.srcA g i) i s) s)

/-- CSRD (R151). -/
def execCsrd (w : FullWord) (s : State) : Host.Outcome State Fault Refusal :=
  runWord 0x13 w s (fun c s => c.commit (fun i => .v (c.cregRead s i)) s)

/-- CSWR (R151). -/
def execCswr (w : FullWord) (s : State) : Host.Outcome State Fault Refusal := runWord 0x14 w s (fun c s => c.cregAll (fun _ a => a) s)

/-- CSOR (R151). -/
def execCsor (w : FullWord) (s : State) : Host.Outcome State Fault Refusal := runWord 0x15 w s (fun c s => c.cregAll (fun x a => x ||| a) s)

/-- CSANDN (R151). -/
def execCsandn (w : FullWord) (s : State) : Host.Outcome State Fault Refusal :=
  runWord 0x16 w s (fun c s => c.cregAll (fun x a => x &&& ~~~a) s)

/-- RSTACK_POP (R152). -/
def execRstackPop (w : FullWord) (s : State) : Host.Outcome State Fault Refusal :=
  runWord 0x13 w s (fun c s =>
    if c.emptyStacks s ≠ 0#32 then c.trap cRETEMPTY (c.emptyStacks s) 0 s
    else
      let g := c.g s
      c.commit (fun i => .v ((g.thread i).rstack.headD 0))
        (c.mod s (fun g => g.modThreads c.act (fun t => { t with rstack := t.rstack.tail }))))

/-- RSTACK_PUSH (R152). -/
def execRstackPush (w : FullWord) (s : State) : Host.Outcome State Fault Refusal :=
  runWord 0x14 w s (fun c s =>
    if c.fullStacks s ≠ 0#32 then c.trap cCALLDEPTH (c.fullStacks s) 32 s
    else
      let g := c.g s
      c.done ((lanesOf c.act).foldl (fun s i =>
        c.mod s (fun h => h.modThread i (fun t => { t with rstack := codeAddr (c.srcA g i) :: t.rstack }))) s))

end Sys2Proof.Machine
end

