-- ==== Sys2Proof/Machine/Integer.lean ====
section
/-! DEFINITION. 64-bit integer and address instructions (spec/13_isa_control.md R154 to R162). Each instruction has its value
in one lane and its word. -/

namespace Sys2Proof.Machine

/-! ## Delivering exact results (R33, R155) -/

/-- Least and greatest value of an integer type (R33). -/
def intMin (ty : Nat) : Int := if 4 ≤ ty ∧ ty < 8 then -(2 ^ (ewidth ty - 1) : Nat) else 0
def intMax (ty : Nat) : Int := if 4 ≤ ty ∧ ty < 8 then (2 ^ (ewidth ty - 1) : Nat) - 1 else (2 ^ ewidth ty : Nat) - 1

/-- Sat(x, T). -/
def satInt (ty : Nat) (x : Int) : Int := if x < intMin ty then intMin ty else if intMax ty < x then intMax ty else x

/-- The low n bits of an exact integer. -/
def lowBits (n : Nat) (x : Int) : Nat := (x % (2 ^ n : Nat)).toNat

/-- A result delivered in a type: saturated, or modulo 2^w (R155). -/
def deliver (ty : Nat) (sat : Bool) (x : Int) : Nat := lowBits (ewidth ty) (if sat then satInt ty x else x)

/-- Operands of a word read in its type. -/
def Issue.iA (c : Issue) (g : Gang) (i : Nat) : Int := readIn c.ty (c.srcA g i).toNat
def Issue.iB (c : Issue) (g : Gang) (i : Nat) : Int := readIn c.ty (c.srcB g 64 i).toNat
def Issue.iC (c : Issue) (g : Gang) (i : Nat) : Int := readIn c.ty (c.srcC g 64 i).toNat

/-- An exact result delivered as the word says. -/
def Issue.res (c : Issue) (x : Int) : Word := word (deliver c.ty c.sat x)

/-- Sources as bit patterns and counts. -/
def Issue.uA (c : Issue) (g : Gang) (i : Nat) : Nat := (c.srcA g i).toNat
def Issue.uB (c : Issue) (g : Gang) (i : Nat) : Nat := (c.srcB g 64 i).toNat
def Issue.uC (c : Issue) (g : Gang) (i : Nat) : Nat := (c.srcC g 64 i).toNat
/-- A shift count: b mod 64 (R159). -/
def Issue.count6 (c : Issue) (g : Gang) (i : Nat) : Nat := (c.srcBz g i).toNat % 64

/-! ## Values in one lane -/

/-- Quotient and remainder truncated toward zero (R158). -/
def Issue.quot (c : Issue) (g : Gang) (i : Nat) : Word :=
  if c.iB g i = 0 then -1 else c.res (Int.tdiv (c.iA g i) (c.iB g i))
def Issue.rmdr (c : Issue) (g : Gang) (i : Nat) : Word :=
  if c.iB g i = 0 then -1 else word (lowBits 64 (Int.tmod (c.iA g i) (c.iB g i)))
/-- warns.DIVZ of a lane. -/
def Issue.divz (c : Issue) (g : Gang) (i : Nat) : Nat := if c.iB g i = 0 then wDIVZ else 0

/-- Leading and trailing zeros of n bits. -/
def leadZeros (n x : Nat) : Nat := ((List.range n).takeWhile (fun j => !x.testBit (n - 1 - j))).length
def trailZeros (n x : Nat) : Nat := ((List.range n).takeWhile (fun j => !x.testBit j)).length
/-- Bits in the opposite order. -/
def revBits (n x : Nat) : Nat := (List.range n).foldl (fun a j => if x.testBit (n - 1 - j) then a + 2 ^ j else a) 0
/-- Rotation to the left of n bits. -/
def rotl (n x k : Nat) : Nat := (x * 2 ^ k + x / 2 ^ (n - k)) % 2 ^ n

/-- Length of a field at a position (R160). -/
def fieldLen (pos len : Nat) : Nat := if pos < 64 then Nat.min len (64 - pos) else 0

/-- BFE (R160). -/
def bfe (signed : Bool) (a pos len : Nat) : Word :=
  let l := fieldLen pos len
  let f := fld a pos l
  if l = 0 then 0 else if signed then BitVec.ofInt 64 (sextN l f) else word f

/-- BFI (R160). -/
def bfi (a base pos len : Nat) : Word :=
  let l := fieldLen pos len
  if l = 0 then word base else word (base - fld base pos l * 2 ^ pos + a % 2 ^ l * 2 ^ pos)

/-- The funnel shift (R159). -/
def fshf (left : Bool) (a b m : Nat) : Word :=
  let x := a * 2 ^ 64 + b
  if left then word (x * 2 ^ m / 2 ^ 64) else word (x / 2 ^ m)

def Issue.movLane (c : Issue) (g : Gang) (i : Nat) : Word := c.srcA g i
def Issue.addLane (c : Issue) (g : Gang) (i : Nat) : Word := c.res (c.iA g i + c.iB g i)
def Issue.subLane (c : Issue) (g : Gang) (i : Nat) : Word := c.res (c.iA g i - c.iB g i)
def Issue.mulLane (c : Issue) (g : Gang) (i : Nat) : Word := c.res (c.iA g i * c.iB g i)
def Issue.mulhLane (c : Issue) (g : Gang) (i : Nat) : Word := word (lowBits 64 (c.iA g i * c.iB g i / (2 ^ 64 : Nat)))
def Issue.madLane (c : Issue) (g : Gang) (i : Nat) : Word := c.res (c.iA g i * c.iB g i + c.iC g i)
def Issue.minLane (c : Issue) (g : Gang) (i : Nat) : Word := word (lowBits 64 (if c.iA g i ≤ c.iB g i then c.iA g i else c.iB g i))
def Issue.maxLane (c : Issue) (g : Gang) (i : Nat) : Word := word (lowBits 64 (if c.iA g i ≤ c.iB g i then c.iB g i else c.iA g i))
def Issue.absLane (c : Issue) (g : Gang) (i : Nat) : Word := c.res ((c.iA g i).natAbs : Int)
def Issue.negLane (c : Issue) (g : Gang) (i : Nat) : Word := c.res (-c.iA g i)
def Issue.andLane (c : Issue) (g : Gang) (i : Nat) : Word := c.srcA g i &&& c.srcB g 64 i
def Issue.orLane (c : Issue) (g : Gang) (i : Nat) : Word := c.srcA g i ||| c.srcB g 64 i
def Issue.xorLane (c : Issue) (g : Gang) (i : Nat) : Word := c.srcA g i ^^^ c.srcB g 64 i
def Issue.andnLane (c : Issue) (g : Gang) (i : Nat) : Word := c.srcA g i &&& ~~~(c.srcB g 64 i)
def Issue.notLane (c : Issue) (g : Gang) (i : Nat) : Word := ~~~(c.srcA g i)
def Issue.shlLane (c : Issue) (g : Gang) (i : Nat) : Word := word (c.uA g i * 2 ^ c.count6 g i)
def Issue.shrLane (c : Issue) (g : Gang) (i : Nat) : Word := word (c.uA g i / 2 ^ c.count6 g i)
def Issue.sarLane (c : Issue) (g : Gang) (i : Nat) : Word := BitVec.ofInt 64 (sextN 64 (c.uA g i) / (2 ^ c.count6 g i : Nat))
def Issue.rotLane (c : Issue) (g : Gang) (i : Nat) : Word := word (rotl 64 (c.uA g i) (c.count6 g i))
def Issue.fshfLane (c : Issue) (g : Gang) (i : Nat) : Word := fshf (c.w.xa == 1) (c.uA g i) (c.uB g i) ((c.srcCz g i).toNat % 64)
def Issue.popcLane (c : Issue) (g : Gang) (i : Nat) : Word := word (popCount 64 (c.uA g i))
def Issue.clzLane (c : Issue) (g : Gang) (i : Nat) : Word := word (leadZeros 64 (c.uA g i))
def Issue.ctzLane (c : Issue) (g : Gang) (i : Nat) : Word := word (trailZeros 64 (c.uA g i))
def Issue.brevLane (c : Issue) (g : Gang) (i : Nat) : Word := word (revBits 64 (c.uA g i))
def Issue.bfeLane (c : Issue) (g : Gang) (i : Nat) : Word := bfe (c.ty == 7) (c.uA g i) ((c.srcBz g i).toNat % 256) ((c.srcCz g i).toNat % 256)
def Issue.bfiLane (c : Issue) (g : Gang) (i : Nat) : Word := bfi (c.uA g i) (c.uC g i) (fld (c.uB g i) 0 8) (fld (c.uB g i) 8 8)
def Issue.selLane (c : Issue) (g : Gang) (i : Nat) : Word := if g.pGet i (nameOf c.w.sc 3) != (c.w.xa % 2 == 1) then c.srcA g i else c.srcB g 64 i
def Issue.sextLane (c : Issue) (g : Gang) (i : Nat) : Word := BitVec.ofInt 64 (sextN (ewidth c.ty) (c.uA g i))
def Issue.zextLane (c : Issue) (g : Gang) (i : Nat) : Word := word (c.uA g i % 2 ^ ewidth c.ty)
def Issue.addrLane (c : Issue) (g : Gang) (i : Nat) : Word := c.srcA g i + word (2 ^ c.w.xa) * c.srcB g 64 i + c.srcC g 64 i

/-- MOVI (R162). -/
def Issue.moviLane (c : Issue) (g : Gang) (i : Nat) : Word :=
  match c.w.m2 with
  | 0 => c.w.imm32.signExtend 64
  | 1 => c.w.imm32.setWidth 64
  | _ => word (c.w.imm32.toNat * 2 ^ 32 + if c.w.nw then 0 else (g.vGet i c.w.dst.toNat).toNat % 2 ^ 32)

/-- Carry in of ADDC and SUBB (R157). -/
def Issue.carry (c : Issue) (g : Gang) (i : Nat) : Nat := bitN (g.pGet i (nameOf c.w.sc 3))

/-- ADDC in one lane (R157). -/
def Issue.addcLane (c : Issue) (g : Gang) (i : Nat) : LaneOut :=
  let x := c.uA g i + c.uB g i + c.carry g i
  { val := some (word x), pred := some (nameOf c.w.sc 3, decide (2 ^ 64 ≤ x)) }

/-- SUBB in one lane (R157). -/
def Issue.subbLane (c : Issue) (g : Gang) (i : Nat) : LaneOut :=
  let x : Int := c.uA g i - c.uB g i - c.carry g i
  { val := some (word (lowBits 64 x)), pred := some (nameOf c.w.sc 3, decide (x < 0)) }

/-! ## The words -/

/-- MOV (R156). -/
def execMov (w : FullWord) (s : State) : Host.Outcome State Fault Refusal := laneVal 0x20 w s Issue.movLane

/-- ADD (R156). -/
def execAdd (w : FullWord) (s : State) : Host.Outcome State Fault Refusal := laneVal 0x22 w s Issue.addLane

/-- SUB (R156). -/
def execSub (w : FullWord) (s : State) : Host.Outcome State Fault Refusal := laneVal 0x24 w s Issue.subLane

/-- MUL (R156). -/
def execMul (w : FullWord) (s : State) : Host.Outcome State Fault Refusal := laneVal 0x26 w s Issue.mulLane

/-- MULH (R156). -/
def execMulh (w : FullWord) (s : State) : Host.Outcome State Fault Refusal := laneVal 0x27 w s Issue.mulhLane

/-- MAD (R156). -/
def execMad (w : FullWord) (s : State) : Host.Outcome State Fault Refusal := laneVal 0x28 w s Issue.madLane

/-- MIN (R156). -/
def execMin (w : FullWord) (s : State) : Host.Outcome State Fault Refusal := laneVal 0x2B w s Issue.minLane

/-- MAX (R156). -/
def execMax (w : FullWord) (s : State) : Host.Outcome State Fault Refusal := laneVal 0x2B w s Issue.maxLane

/-- ABS (R156). -/
def execAbs (w : FullWord) (s : State) : Host.Outcome State Fault Refusal := laneVal 0x2C w s Issue.absLane

/-- NEG (R156). -/
def execNeg (w : FullWord) (s : State) : Host.Outcome State Fault Refusal := laneVal 0x2C w s Issue.negLane

/-- AND (R159). -/
def execAnd (w : FullWord) (s : State) : Host.Outcome State Fault Refusal := laneVal 0x2D w s Issue.andLane

/-- OR (R159). -/
def execOr (w : FullWord) (s : State) : Host.Outcome State Fault Refusal := laneVal 0x2E w s Issue.orLane

/-- XOR (R159). -/
def execXor (w : FullWord) (s : State) : Host.Outcome State Fault Refusal := laneVal 0x2F w s Issue.xorLane

/-- ANDN (R159). -/
def execAndn (w : FullWord) (s : State) : Host.Outcome State Fault Refusal := laneVal 0x30 w s Issue.andnLane

/-- NOT (R159). -/
def execNot (w : FullWord) (s : State) : Host.Outcome State Fault Refusal := laneVal 0x31 w s Issue.notLane

/-- SHL (R159). -/
def execShl (w : FullWord) (s : State) : Host.Outcome State Fault Refusal := laneVal 0x32 w s Issue.shlLane

/-- SHR (R159). -/
def execShr (w : FullWord) (s : State) : Host.Outcome State Fault Refusal := laneVal 0x33 w s Issue.shrLane

/-- SAR (R159). -/
def execSar (w : FullWord) (s : State) : Host.Outcome State Fault Refusal := laneVal 0x34 w s Issue.sarLane

/-- ROT (R159). -/
def execRot (w : FullWord) (s : State) : Host.Outcome State Fault Refusal := laneVal 0x35 w s Issue.rotLane

/-- FSHF (R159). -/
def execFshf (w : FullWord) (s : State) : Host.Outcome State Fault Refusal := laneVal 0x36 w s Issue.fshfLane

/-- POPC (R159). -/
def execPopc (w : FullWord) (s : State) : Host.Outcome State Fault Refusal := laneVal 0x37 w s Issue.popcLane

/-- CLZ (R159). -/
def execClz (w : FullWord) (s : State) : Host.Outcome State Fault Refusal := laneVal 0x37 w s Issue.clzLane

/-- CTZ (R159). -/
def execCtz (w : FullWord) (s : State) : Host.Outcome State Fault Refusal := laneVal 0x37 w s Issue.ctzLane

/-- BREV (R159). -/
def execBrev (w : FullWord) (s : State) : Host.Outcome State Fault Refusal := laneVal 0x37 w s Issue.brevLane

/-- BFE (R160). -/
def execBfe (w : FullWord) (s : State) : Host.Outcome State Fault Refusal := laneVal 0x38 w s Issue.bfeLane

/-- BFI (R160). -/
def execBfi (w : FullWord) (s : State) : Host.Outcome State Fault Refusal := laneVal 0x39 w s Issue.bfiLane

/-- SEL (R161). -/
def execSel (w : FullWord) (s : State) : Host.Outcome State Fault Refusal := laneVal 0x3A w s Issue.selLane

/-- SEXT (R161). -/
def execSext (w : FullWord) (s : State) : Host.Outcome State Fault Refusal := laneVal 0x3B w s Issue.sextLane

/-- ZEXT (R161). -/
def execZext (w : FullWord) (s : State) : Host.Outcome State Fault Refusal := laneVal 0x3B w s Issue.zextLane

/-- ADDR (R161). -/
def execAddr (w : FullWord) (s : State) : Host.Outcome State Fault Refusal := laneVal 0x3C w s Issue.addrLane

/-- MOVI (R162). -/
def execMovi (w : FullWord) (s : State) : Host.Outcome State Fault Refusal := laneVal 0x21 w s Issue.moviLane

/-- ADDC (R157). -/
def execAddc (w : FullWord) (s : State) : Host.Outcome State Fault Refusal := laneWord 0x23 w s Issue.addcLane

/-- SUBB (R157). -/
def execSubb (w : FullWord) (s : State) : Host.Outcome State Fault Refusal := laneWord 0x25 w s Issue.subbLane

/-- DIV (R158). -/
def execDiv (w : FullWord) (s : State) : Host.Outcome State Fault Refusal :=
  laneWord 0x29 w s (fun c g i => { val := some (c.quot g i), warns := c.divz g i })

/-- REM (R158). -/
def execRem (w : FullWord) (s : State) : Host.Outcome State Fault Refusal :=
  laneWord 0x2A w s (fun c g i => { val := some (c.rmdr g i), warns := c.divz g i })

end Sys2Proof.Machine
end

