-- ==== Sys2Proof/Machine/Packed.lean ====
section
/-! DEFINITION. Packed integer instructions (spec/17_isa_vector.md R190 to R197). -/

namespace Sys2Proof.Machine

/-! ## Sub-elements (R15, R191) -/

/-- Sub(x, j, w). -/
def subEl (w x j : Nat) : Nat := fld x (w * j) w

/-- A register from its sub-elements. -/
def packEls (w n : Nat) (f : Nat → Nat) : Word :=
  word ((List.range n).foldl (fun a j => a + f j % 2 ^ w * 2 ^ (w * j)) 0)

/-- Width and count of the word's type. -/
def Issue.ew (c : Issue) : Nat := ewidth c.ty
def Issue.en (c : Issue) : Nat := 64 / c.ew

/-- Sub-elements of the sources as bit patterns. -/
def Issue.eA (c : Issue) (g : Gang) (i j : Nat) : Nat := subEl c.ew (c.srcA g i).toNat j
def Issue.eB (c : Issue) (g : Gang) (i j : Nat) : Nat := subEl c.ew (c.srcB g c.ew i).toNat j
def Issue.eC (c : Issue) (g : Gang) (i j : Nat) : Nat := subEl c.ew (c.srcC g c.ew i).toNat j

/-- The same read in T. -/
def Issue.xA (c : Issue) (g : Gang) (i j : Nat) : Int := readIn c.ty (c.eA g i j)
def Issue.xB (c : Issue) (g : Gang) (i j : Nat) : Int := readIn c.ty (c.eB g i j)
def Issue.xC (c : Issue) (g : Gang) (i j : Nat) : Int := readIn c.ty (c.eC g i j)

/-- The shift count of a sub-element: its low bits, or the imm8, modulo w (R119, R193). -/
def Issue.eCount (c : Issue) (g : Gang) (i j : Nat) : Nat :=
  (if c.f.useB c.w = .raw then c.w.sb.toNat else c.eB g i j) % c.ew

/-- Every sub-element from a bit pattern. -/
def Issue.each (c : Issue) (f : Nat → Nat) : Word := packEls c.ew c.en f

/-- Every sub-element from an exact result, delivered by R191. -/
def Issue.eachRes (c : Issue) (f : Nat → Int) : Word := c.each (fun j => deliver c.ty c.sat (f j))

/-- Every sub-element from an exact result that never saturates. -/
def Issue.eachLow (c : Issue) (f : Nat → Int) : Word := c.each (fun j => lowBits c.ew (f j))

/-! ## Dot products and differences (R194) -/

def sumInt (n : Nat) (f : Nat → Int) : Int := (List.range n).foldl (fun a j => a + f j) 0

/-- The signed or unsigned code of a width of 32 or 64. -/
def accType (signed : Bool) (m : Nat) : Nat := (if signed then 4 else 8) + (if m = 64 then 3 else 2)

def Issue.vdotLane (c : Issue) (g : Gang) (i : Nat) : Word :=
  let m := if c.ew ≤ 16 then 32 else 64
  let per := m / c.ew
  let signed := decide (4 ≤ c.ty ∧ c.ty < 8)
  let mix := c.w.xa % 2 == 1
  let t := accType signed m
  let z := (c.srcC g c.ew i).toNat
  packEls m (64 / m) (fun h =>
    deliver t c.sat (readIn t (subEl m z h) + sumInt per (fun q =>
      let j := per * h + q
      c.xA g i j * (if mix then (c.eB g i j : Int) else c.xB g i j))))

def Issue.vsadLane (c : Issue) (g : Gang) (i : Nat) : Word :=
  let r : Int := (c.srcC g c.ew i).toNat + sumInt c.en (fun j => ((c.xA g i j - c.xB g i j).natAbs : Int))
  word (deliver 11 c.sat r)

/-! ## Narrowing and widening (R196) -/

/-- VPACK of one source value. -/
def Issue.narrow (c : Issue) (x : Nat) : Nat :=
  let half := c.ew / 2
  if c.sat then
    if c.w.xa % 2 = 1 then
      let v := sextN c.ew x
      lowBits half (if v < 0 then 0 else if (2 ^ half : Nat) ≤ v then (2 ^ half : Nat) - 1 else v)
    else lowBits half (satInt (c.ty - 1) (readIn c.ty x))
  else x % 2 ^ half

def Issue.vpackLane (c : Issue) (g : Gang) (i : Nat) : Word :=
  packEls (c.ew / 2) (2 * c.en) (fun j => c.narrow (if j < c.en then c.eA g i j else c.eB g i (j - c.en)))

def Issue.vunpkLane (c : Issue) (g : Gang) (i : Nat) : Word :=
  packEls (2 * c.ew) (c.en / 2) (fun j => lowBits (2 * c.ew) (c.xA g i (c.w.xa % 2 * (c.en / 2) + j)))

/-! ## Rearranging (R197) -/

def Issue.vpermLane (c : Issue) (g : Gang) (i : Nat) : Word :=
  c.each (fun j =>
    let s := c.eC g i j
    let k := s % (2 * c.en)
    if s.testBit (c.ew - 1) then 0 else if k < c.en then c.eA g i k else c.eB g i (k - c.en))

def Issue.vswzLane (c : Issue) (g : Gang) (i : Nat) : Word :=
  let imm := c.w.sb.toNat
  c.each (fun j =>
    match c.ew with
    | 32 => c.eA g i (fld imm j 1)
    | 16 => c.eA g i (fld imm (2 * j) 2)
    | _ => c.eA g i (j / 4 * 4 + fld imm (2 * (j % 4)) 2))

/-- Entry of the 16-byte table of VTBL. -/
def tblByte (a b k : Nat) : Nat := if k < 8 then subEl 8 a k else subEl 8 b (k - 8)

def Issue.vtblLane (c : Issue) (g : Gang) (i : Nat) : Word :=
  let a := c.uA g i
  let b := c.uB g i
  packEls 8 8 (fun j =>
    let x := subEl 8 (c.uC g i) j
    match c.w.xa with
    | 0 => if x.testBit 7 then 0 else tblByte a b (x % 16)
    | 1 => tblByte a b (x % 16)
    | _ => tblByte a b (x / 16))

/-! ## Element-wise values (R193, R195) -/

def Issue.vaddLane (c : Issue) (g : Gang) (i : Nat) : Word :=
  c.eachRes (fun j => c.xA g i j + c.xB g i j)
def Issue.vsubLane (c : Issue) (g : Gang) (i : Nat) : Word :=
  c.eachRes (fun j => c.xA g i j - c.xB g i j)
def Issue.vmulLane (c : Issue) (g : Gang) (i : Nat) : Word :=
  c.eachRes (fun j => c.xA g i j * c.xB g i j)
def Issue.vmulhLane (c : Issue) (g : Gang) (i : Nat) : Word :=
  c.eachLow (fun j => c.xA g i j * c.xB g i j / (2 ^ c.ew : Nat))
def Issue.vmadLane (c : Issue) (g : Gang) (i : Nat) : Word :=
  c.eachRes (fun j => c.xA g i j * c.xB g i j + c.xC g i j)
def Issue.vminLane (c : Issue) (g : Gang) (i : Nat) : Word :=
  c.each (fun j => if c.xA g i j ≤ c.xB g i j then c.eA g i j else c.eB g i j)
def Issue.vmaxLane (c : Issue) (g : Gang) (i : Nat) : Word :=
  c.each (fun j => if c.xA g i j ≤ c.xB g i j then c.eB g i j else c.eA g i j)
def Issue.vabsLane (c : Issue) (g : Gang) (i : Nat) : Word :=
  c.eachRes (fun j => ((c.xA g i j).natAbs : Int))
def Issue.vavgLane (c : Issue) (g : Gang) (i : Nat) : Word :=
  c.eachLow (fun j => (c.xA g i j + c.xB g i j + (if c.w.xa % 2 = 1 then 0 else 1)) / 2)
def Issue.vshlLane (c : Issue) (g : Gang) (i : Nat) : Word :=
  c.eachRes (fun j => c.xA g i j * (2 ^ c.eCount g i j : Nat))
def Issue.vshrLane (c : Issue) (g : Gang) (i : Nat) : Word :=
  c.each (fun j => c.eA g i j / 2 ^ c.eCount g i j)
def Issue.vsarLane (c : Issue) (g : Gang) (i : Nat) : Word :=
  c.eachLow (fun j => sextN c.ew (c.eA g i j) / (2 ^ c.eCount g i j : Nat))
def Issue.vcmpLane (c : Issue) (g : Gang) (i : Nat) : Word :=
  c.each (fun j => if compareInt c.w.sop (c.xA g i j) (c.xB g i j) then 2 ^ c.ew - 1 else 0)
def Issue.vselLane (c : Issue) (g : Gang) (i : Nat) : Word :=
  (c.srcA g i &&& c.srcC g 64 i) ||| (c.srcB g 64 i &&& ~~~(c.srcC g 64 i))

/-! ## The words -/

/-- VADD (R193). -/
def execVadd (w : FullWord) (s : State) : Host.Outcome State Fault Refusal := laneVal 0x40 w s Issue.vaddLane

/-- VSUB (R193). -/
def execVsub (w : FullWord) (s : State) : Host.Outcome State Fault Refusal := laneVal 0x41 w s Issue.vsubLane

/-- VMUL (R193). -/
def execVmul (w : FullWord) (s : State) : Host.Outcome State Fault Refusal := laneVal 0x42 w s Issue.vmulLane

/-- VMULH (R193). -/
def execVmulh (w : FullWord) (s : State) : Host.Outcome State Fault Refusal := laneVal 0x43 w s Issue.vmulhLane

/-- VMAD (R193). -/
def execVmad (w : FullWord) (s : State) : Host.Outcome State Fault Refusal := laneVal 0x44 w s Issue.vmadLane

/-- VMIN (R193). -/
def execVmin (w : FullWord) (s : State) : Host.Outcome State Fault Refusal := laneVal 0x46 w s Issue.vminLane

/-- VMAX (R193). -/
def execVmax (w : FullWord) (s : State) : Host.Outcome State Fault Refusal := laneVal 0x47 w s Issue.vmaxLane

/-- VABS (R193). -/
def execVabs (w : FullWord) (s : State) : Host.Outcome State Fault Refusal := laneVal 0x48 w s Issue.vabsLane

/-- VAVG (R193). -/
def execVavg (w : FullWord) (s : State) : Host.Outcome State Fault Refusal := laneVal 0x49 w s Issue.vavgLane

/-- VSHL (R193). -/
def execVshl (w : FullWord) (s : State) : Host.Outcome State Fault Refusal := laneVal 0x4B w s Issue.vshlLane

/-- VSHR (R193). -/
def execVshr (w : FullWord) (s : State) : Host.Outcome State Fault Refusal := laneVal 0x4C w s Issue.vshrLane

/-- VSAR (R193). -/
def execVsar (w : FullWord) (s : State) : Host.Outcome State Fault Refusal := laneVal 0x4D w s Issue.vsarLane

/-- VCMP (R195). -/
def execVcmp (w : FullWord) (s : State) : Host.Outcome State Fault Refusal := laneVal 0x4E w s Issue.vcmpLane

/-- VSEL (R195). -/
def execVsel (w : FullWord) (s : State) : Host.Outcome State Fault Refusal := laneVal 0x4F w s Issue.vselLane

/-- VDOT (R194). -/
def execVdot (w : FullWord) (s : State) : Host.Outcome State Fault Refusal := laneVal 0x45 w s Issue.vdotLane

/-- VSAD (R194). -/
def execVsad (w : FullWord) (s : State) : Host.Outcome State Fault Refusal := laneVal 0x4A w s Issue.vsadLane

/-- VPACK (R196). -/
def execVpack (w : FullWord) (s : State) : Host.Outcome State Fault Refusal := laneVal 0x50 w s Issue.vpackLane

/-- VUNPK (R196). -/
def execVunpk (w : FullWord) (s : State) : Host.Outcome State Fault Refusal := laneVal 0x51 w s Issue.vunpkLane

/-- VPERM (R197). -/
def execVperm (w : FullWord) (s : State) : Host.Outcome State Fault Refusal := laneVal 0x52 w s Issue.vpermLane

/-- VTBL (R197). -/
def execVtbl (w : FullWord) (s : State) : Host.Outcome State Fault Refusal := laneVal 0x53 w s Issue.vtblLane

/-- VSWZ (R197). -/
def execVswz (w : FullWord) (s : State) : Host.Outcome State Fault Refusal := laneVal 0x54 w s Issue.vswzLane

end Sys2Proof.Machine
end

