-- ==== Sys2Proof/Machine/FloatFmt.lean ====
section
/-! DEFINITION. Floating formats, rounding, and arithmetic on single values (spec/03_numbers.md R35, R40 to R49). A finite value
is m × 2^e with a sign; every arithmetic result is exact before its one rounding. -/

namespace Sys2Proof.Machine

/-! ## Formats (R35) -/

/-- What the all-ones exponent field stands for: infinities and NaNs; NaN at all ones only (E4M3); nothing. -/
inductive Tops where
  | ieee | nanOnly | plain
  deriving DecidableEq, Repr, Inhabited

/-- Exponent bits, fraction bits, bias. -/
structure Fmt where
  eb   : Nat
  fb   : Nat
  bias : Nat
  tops : Tops := .ieee
  deriving DecidableEq, Repr, Inhabited

/-- The format of a TYPE or EFMT code (R62). -/
def fmtOf (code : Nat) : Fmt :=
  match code with
  | 12 => { eb := 5, fb := 10, bias := 15 }
  | 13 => { eb := 8, fb := 7, bias := 127 }
  | 14 => { eb := 8, fb := 23, bias := 127 }
  | 15 => { eb := 11, fb := 52, bias := 1023 }
  | 16 | 18 => { eb := 4, fb := 3, bias := 7, tops := .nanOnly }
  | 17 | 19 => { eb := 5, fb := 2, bias := 15 }
  | 20 => { eb := 3, fb := 2, bias := 3, tops := .plain }
  | 21 => { eb := 2, fb := 3, bias := 1, tops := .plain }
  | _ => { eb := 2, fb := 1, bias := 1, tops := .plain }

/-- Width in bits. -/
def Fmt.width (t : Fmt) : Nat := 1 + t.eb + t.fb
/-- Exponent of the least normal number. -/
def Fmt.emin (t : Fmt) : Int := 1 - (t.bias : Int)
/-- A pattern from its sign and the rest. -/
def Fmt.pat (t : Fmt) (s : Bool) (x : Nat) : Nat := bitN s * 2 ^ (t.eb + t.fb) + x
/-- ±∞; E4M3 has its NaN there. -/
def Fmt.infPat (t : Fmt) (s : Bool) : Nat :=
  t.pat s (match t.tops with
    | .ieee => (2 ^ t.eb - 1) * 2 ^ t.fb
    | .nanOnly | .plain => 2 ^ (t.eb + t.fb) - 1)
/-- ±max finite. -/
def Fmt.maxPat (t : Fmt) (s : Bool) : Nat :=
  t.pat s (match t.tops with
    | .ieee => (2 ^ t.eb - 1) * 2 ^ t.fb - 1
    | .nanOnly => 2 ^ (t.eb + t.fb) - 2
    | .plain => 2 ^ (t.eb + t.fb) - 1)
/-- A quiet NaN with a fraction below the quiet bit. -/
def Fmt.nanPat (t : Fmt) (s : Bool) (frac : Nat) : Nat :=
  match t.tops with
  | .ieee => t.pat s ((2 ^ t.eb - 1) * 2 ^ t.fb + 2 ^ (t.fb - 1) + frac % 2 ^ (t.fb - 1))
  | .nanOnly | .plain => t.pat s (2 ^ (t.eb + t.fb) - 1)
/-- The canonical NaN (R41). -/
def Fmt.canonNan (t : Fmt) : Nat := t.nanPat false 0

/-! ## Values -/

inductive FV where
  | nan (s quiet : Bool) (frac : Nat)
  | inf (s : Bool)
  | fin (s : Bool) (m : Nat) (e : Int)
  deriving DecidableEq, Repr, Inhabited

/-- The value of a pattern. -/
def Fmt.decode (t : Fmt) (x : Nat) : FV :=
  let s := x.testBit (t.eb + t.fb)
  let e := fld x t.fb t.eb
  let f := x % 2 ^ t.fb
  let normal : FV := .fin s (2 ^ t.fb + f) ((e : Int) - t.bias - t.fb)
  if e = 0 then .fin s f (t.emin - t.fb)
  else if e = 2 ^ t.eb - 1 then
    match t.tops with
    | .ieee => if f = 0 then .inf s else .nan s (f.testBit (t.fb - 1)) f
    | .nanOnly => if f = 2 ^ t.fb - 1 then .nan s true 0 else normal
    | .plain => normal
  else normal

/-- The pattern is a nonzero subnormal number. -/
def Fmt.isSub (t : Fmt) (x : Nat) : Bool := fld x t.fb t.eb == 0 && x % 2 ^ t.fb != 0

def FV.sign : FV → Bool
  | .nan s _ _ => s
  | .inf s => s
  | .fin s _ _ => s

def FV.isNan : FV → Bool
  | .nan .. => true
  | .inf _ | .fin .. => false

def FV.isSig : FV → Bool
  | .nan _ q _ => !q
  | .inf _ | .fin .. => false

def FV.isZero : FV → Bool
  | .fin _ m _ => m == 0
  | .inf _ | .nan .. => false

def FV.neg : FV → FV
  | .nan s q f => .nan s q f
  | .inf s => .inf (!s)
  | .fin s m e => .fin (!s) m e

/-! ## Rounding (R43, R45, R47) -/

/-- A pattern with the flags it raises. -/
structure Rounded where
  bits  : Nat
  flags : Nat
  deriving DecidableEq, Repr, Inhabited

/-- m × 2^e as a multiple of 2^q under a mode: the multiple, and whether it is inexact. -/
def roundMul (mode : Nat) (s : Bool) (m : Nat) (e q : Int) : Nat × Bool :=
  if q ≤ e then (m * 2 ^ (e - q).toNat, false)
  else
    let d := 2 ^ (q - e).toNat
    let k := m / d
    let r := m % d
    let up := match mode with
      | 1 => decide (d < 2 * r) || (2 * r == d && k % 2 == 1)
      | 2 => false
      | 3 => s && r != 0
      | _ => !s && r != 0
    (if up then k + 1 else k, r != 0)

/-- Exponent of the leading bit of m × 2^e. -/
def topExp (m : Nat) (e : Int) : Int := (Nat.log2 m : Int) + e

/-- Encode a multiple k of 2^q, k at most 2^(fb+1): the pattern and whether it lies beyond max finite. -/
def Fmt.encode (t : Fmt) (s : Bool) (k : Nat) (q : Int) : Nat × Bool :=
  let (k, q) := if k = 2 ^ (t.fb + 1) then (2 ^ t.fb, q + 1) else (k, q)
  if k < 2 ^ t.fb then (t.pat s k, false)
  else
    let x := (q + t.fb + t.bias).toNat * 2 ^ t.fb + (k - 2 ^ t.fb)
    (t.pat s x, decide (t.maxPat false < x))

/-- An overflow is delivered as infinity rather than max finite (R47, R199). -/
def overToInf (mode : Nat) (s : Bool) : Bool := mode == 1 || (mode == 3 && s) || (mode == 4 && !s)

/-- What an overflow delivers. -/
def Fmt.overflow (t : Fmt) (mode : Nat) (sat s : Bool) : Rounded :=
  { bits := if !sat && overToInf mode s then t.infPat s else t.maxPat s, flags := fOF + fNX }

/-- The exact value m × 2^e, rounded once to the format under a mode 1 to 4. -/
def Fmt.round (t : Fmt) (mode : Nat) (sat s : Bool) (m : Nat) (e : Int) : Rounded :=
  if m = 0 then { bits := t.pat s 0, flags := 0 }
  else
    let top := topExp m e
    let q := (if top < t.emin then t.emin else top) - t.fb
    let (k, inexact) := roundMul mode s m e q
    let (x, beyond) := t.encode s k q
    if beyond then t.overflow mode sat s
    else
      -- tininess after rounding with unbounded exponent
      let free := (roundMul mode s m e (top - t.fb)).1
      let tiny := decide (top < t.emin) && !(decide (top + 1 = t.emin) && free == 2 ^ (t.fb + 1))
      { bits := x, flags := (if inexact then fNX else 0) + (if inexact && tiny then fUF else 0) }

/-- A result flush of FTZ (R40). -/
def Fmt.flush (t : Fmt) (ftz : Bool) (r : Rounded) : Rounded :=
  if ftz && t.isSub r.bits then { bits := t.pat (r.bits.testBit (t.eb + t.fb)) 0, flags := Nat.lor r.flags (fUF + fNX) } else r

/-- An input with FTZ: a subnormal is a zero of the same sign (R40). -/
def Fmt.input (t : Fmt) (ftz : Bool) (x : Nat) : FV :=
  if ftz && t.isSub x then .fin (x.testBit (t.eb + t.fb)) 0 0 else t.decode x

/-! ## NaNs (R41) -/

/-- A signalling NaN among the sources raises NV. -/
def sigFlags (l : List FV) : Nat := if l.any FV.isSig then fNV else 0

/-- The first NaN of the sources made quiet, if there is one. -/
def Fmt.firstNan (t : Fmt) (l : List FV) : Option Nat :=
  l.findSome? (fun v => match v with
    | .nan s _ f => some (t.nanPat s f)
    | .inf _ | .fin .. => none)

/-- A NaN result when a source is NaN, with further flags; otherwise what the values give. -/
def Fmt.nanOr (t : Fmt) (l : List FV) (extra : Nat) (k : Rounded) : Rounded :=
  match t.firstNan l with
  | some x => { bits := x, flags := Nat.lor (sigFlags l) extra }
  | none => k

/-- The invalid case. -/
def Fmt.invalid (t : Fmt) : Rounded := { bits := t.canonNan, flags := fNV }

/-! ## Sums and products (R199) -/

/-- Exact sum of two finite values as a signed number of units 2^e. -/
def finSum (s1 : Bool) (m1 : Nat) (e1 : Int) (s2 : Bool) (m2 : Nat) (e2 : Int) : Int × Int :=
  let e := if e1 ≤ e2 then e1 else e2
  let a : Int := m1 * 2 ^ (e1 - e).toNat
  let b : Int := m2 * 2 ^ (e2 - e).toNat
  ((if s1 then -a else a) + (if s2 then -b else b), e)

/-- Sum of two values that are not NaN. -/
def Fmt.sum (t : Fmt) (mode : Nat) (x y : FV) : Rounded :=
  match x, y with
  | .inf s1, .inf s2 => if s1 = s2 then { bits := t.infPat s1, flags := 0 } else t.invalid
  | .inf s, _ => { bits := t.infPat s, flags := 0 }
  | _, .inf s => { bits := t.infPat s, flags := 0 }
  | .fin s1 m1 e1, .fin s2 m2 e2 =>
      let (v, e) := finSum s1 m1 e1 s2 m2 e2
      if v = 0 then { bits := t.pat (if s1 = s2 then s1 else mode == 3) 0, flags := 0 }
      else t.round mode false (decide (v < 0)) v.natAbs e
  | _, _ => t.invalid

/-- Exact product of two values that are not NaN; none: 0 × ∞. -/
def prod (x y : FV) : Option FV :=
  match x, y with
  | .fin s1 m1 e1, .fin s2 m2 e2 => some (.fin (s1 != s2) (m1 * m2) (e1 + e2))
  | .inf s1, y => if y.isZero then none else some (.inf (s1 != y.sign))
  | x, .inf s2 => if x.isZero then none else some (.inf (x.sign != s2))
  | _, _ => none

/-- A value that is exact in itself, delivered. -/
def Fmt.deliverV (t : Fmt) (mode : Nat) (sat : Bool) (v : FV) : Rounded :=
  match v with
  | .nan s _ f => { bits := t.nanPat s f, flags := 0 }
  | .inf s => { bits := t.infPat s, flags := 0 }
  | .fin s m e => t.round mode sat s m e

def Fmt.add (t : Fmt) (mode : Nat) (ftz : Bool) (a b : Nat) : Rounded :=
  let x := t.input ftz a
  let y := t.input ftz b
  t.flush ftz (t.nanOr [x, y] 0 (t.sum mode x y))

def Fmt.sub (t : Fmt) (mode : Nat) (ftz : Bool) (a b : Nat) : Rounded :=
  let x := t.input ftz a
  let y := t.input ftz b
  t.flush ftz (t.nanOr [x, y] 0 (t.sum mode x y.neg))

def Fmt.mul (t : Fmt) (mode : Nat) (ftz : Bool) (a b : Nat) : Rounded :=
  let x := t.input ftz a
  let y := t.input ftz b
  t.flush ftz (t.nanOr [x, y] 0 (match prod x y with
    | none => t.invalid
    | some v => t.deliverV mode false v))

def Fmt.fma (t : Fmt) (mode : Nat) (ftz : Bool) (a b c : Nat) : Rounded :=
  let x := t.input ftz a
  let y := t.input ftz b
  let z := t.input ftz c
  let p := if x.isNan || y.isNan then some x else prod x y
  t.flush ftz (t.nanOr [x, y, z] (if p.isNone then fNV else 0) (match p with
    | none => t.invalid
    | some v => t.sum mode v z))

/-! ## Order (R42, R201) -/

/-- x < y of two values that are not NaN; −0 equals +0. -/
def FV.lt (x y : FV) : Bool :=
  match x, y with
  | .inf s1, .inf s2 => s1 && !s2
  | .inf s, _ => s
  | _, .inf s => !s
  | .fin s1 m1 e1, .fin s2 m2 e2 => decide ((finSum s1 m1 e1 (!s2) m2 e2).1 < 0)
  | _, _ => false

/-- x < y with −0 below +0. -/
def FV.below (x y : FV) : Bool := x.lt y || (x.isZero && y.isZero && x.sign && !y.sign)

/-- minimumNumber or maximumNumber (R42). -/
def Fmt.pick (t : Fmt) (greater ftz : Bool) (a b : Nat) : Rounded :=
  let x := t.input ftz a
  let y := t.input ftz b
  let fl := sigFlags [x, y]
  let bitsA := if ftz && t.isSub a then t.pat x.sign 0 else a
  let bitsB := if ftz && t.isSub b then t.pat y.sign 0 else b
  if x.isNan && y.isNan then t.nanOr [x, y] 0 default
  else if x.isNan then { bits := bitsB, flags := fl }
  else if y.isNan then { bits := bitsA, flags := fl }
  else { bits := if (if greater then x.below y else y.below x) then bitsB else bitsA, flags := fl }

/-- A condition of FCMP (R201), with the flag it raises. -/
def fcompare (cc : Nat) (x y : FV) : Bool × Nat :=
  let un := x.isNan || y.isNan
  let fl := if 2 ≤ cc ∧ cc < 6 then (if un then fNV else 0) else sigFlags [x, y]
  let lt := !un && x.lt y
  let gt := !un && y.lt x
  (match cc with
   | 0 => !un && !lt && !gt
   | 1 => un || lt || gt
   | 2 => lt
   | 3 => !un && !gt
   | 4 => gt
   | 5 => !un && !lt
   | 6 => un
   | _ => !un, fl)

/-- The one-hot class (R202). -/
def Fmt.classOf (t : Fmt) (a : Nat) : Nat :=
  match t.decode a with
  | .inf s => if s then 2 ^ 0 else 2 ^ 7
  | .nan _ q _ => if q then 2 ^ 9 else 2 ^ 8
  | .fin s m _ =>
      if m = 0 then (if s then 2 ^ 3 else 2 ^ 4)
      else if t.isSub a then (if s then 2 ^ 2 else 2 ^ 5)
      else if s then 2 ^ 1 else 2 ^ 6

/-! ## Integral values, scaling (R199, R203) -/

/-- FRND; x: an inexact result raises NX (R203). -/
def Fmt.integral (t : Fmt) (mode : Nat) (x : Bool) (a : Nat) : Rounded :=
  match t.decode a with
  | .fin s m e =>
      let (k, inexact) := roundMul mode s m e 0
      if e < 0 then
        { bits := (t.round mode false s k 0).bits, flags := if inexact && x then fNX else 0 }
      else { bits := a, flags := 0 }
  | .inf s => { bits := t.infPat s, flags := 0 }
  | .nan s q f => { bits := t.nanPat s f, flags := if q then 0 else fNV }

/-- FSCL; an exponent beyond every format's reach acts as one at that reach. -/
def Fmt.scale (t : Fmt) (mode : Nat) (a : Nat) (k : Int) : Rounded :=
  let k := if k < -10000 then -10000 else if 10000 < k then 10000 else k
  match t.decode a with
  | .fin s m e => t.round mode false s m (e + k)
  | .inf s => { bits := t.infPat s, flags := 0 }
  | .nan s q f => { bits := t.nanPat s f, flags := if q then 0 else fNV }

/-! ## Conversions (R47 to R49) -/

/-- The fraction of a NaN moved between formats. -/
def moveFrac (src dst : Fmt) (f : Nat) : Nat :=
  if src.tops ≠ .ieee then 0
  else if src.fb ≤ dst.fb then f * 2 ^ (dst.fb - src.fb) else f / 2 ^ (src.fb - dst.fb)

/-- Stochastic rounding of a finite value (R48): r random bits. Whether it underflows is judged on the value delivered (log 99). -/
def Fmt.stochastic (t : Fmt) (sat s : Bool) (m : Nat) (e : Int) (r rand : Nat) : Rounded :=
  if m = 0 then { bits := t.pat s 0, flags := 0 }
  else
    let top := topExp m e
    let q := (if top < t.emin then t.emin else top) - t.fb
    let (k, inexact) := roundMul 2 s m e q
    -- |x| in units of 2^(q - r), cut off
    let low := (roundMul 2 s m e (q - r)).1 % 2 ^ r
    let k := if 2 ^ r ≤ low + rand % 2 ^ r then k + 1 else k
    let (x, beyond) := t.encode s k q
    if beyond then t.overflow 1 sat s
    else { bits := x, flags := (if inexact then fNX else 0) + (if inexact && decide (k < 2 ^ t.fb) then fUF else 0) }

/-- FCVT of one value: mode 1 to 4, or 5 with its random integer of r bits. -/
def fcvt (src dst : Nat) (mode : Nat) (sat ftz : Bool) (r rand a : Nat) : Rounded :=
  let t := fmtOf src
  let d := fmtOf dst
  let inFtz := ftz && [12, 13, 14].contains src
  let outFtz := ftz && [12, 13, 14].contains dst
  match t.input inFtz a with
  | .nan s q f => { bits := d.nanPat s (moveFrac t d f), flags := if q then 0 else fNV }
  | .inf s => { bits := if sat then d.maxPat s else d.infPat s, flags := 0 }
  | .fin s m e => d.flush outFtz (if mode = 5 then d.stochastic sat s m e r rand else d.round mode sat s m e)

/-- Floating to integer; whether a value lies outside the range is judged on the rounded value (R49; assumption 90). -/
def toInt (src dst mode a : Nat) : Rounded :=
  let w := ewidth dst
  let clamp := fun (x : Int) => if x < intMin dst then some (intMin dst) else if intMax dst < x then some (intMax dst) else none
  match (fmtOf src).decode a with
  | .nan .. => { bits := 0, flags := fNV }
  | .inf s => { bits := lowBits w (if s then intMin dst else intMax dst), flags := fNV }
  | .fin s m e =>
      let (k, inexact) := roundMul mode s m e 0
      let v : Int := if s then -(k : Int) else k
      match clamp v with
      | some x => { bits := lowBits w x, flags := fNV }
      | none => { bits := lowBits w v, flags := if inexact then fNX else 0 }

/-- Integer to floating (R49). -/
def ofInt (src dst mode : Nat) (sat : Bool) (a : Nat) : Rounded :=
  let v := readIn src a
  (fmtOf dst).round mode sat (decide (v < 0)) v.natAbs 0

end Sys2Proof.Machine
end

