-- ==== Sys2Proof/Machine/Float.lean ====
section
/-! DEFINITION. Floating instructions (spec/17_isa_vector.md R198 to R204). -/

namespace Sys2Proof.Machine

/-- The format of the word's TYPE. -/
def Issue.fmt (c : Issue) : Fmt := fmtOf c.ty

/-- FTZ of the word after its fallback. -/
def Issue.ftz (c : Issue) : Bool := c.f.ftzEff c.op c.w

/-- The rounding mode of the word (R43). -/
def Issue.mode (c : Issue) (g : Gang) : Nat := g.mode c.rnd

/-- A v result whose sub-elements are rounded values; the flags of all (R45). -/
def outOf (w n : Nat) (f : Nat → Rounded) : LaneOut :=
  { val := some (packEls w n (fun j => (f j).bits)), flags := orAll ((List.range n).map (fun j => (f j).flags)) }

/-- Every sub-element of the word's type. -/
def Issue.eachF (c : Issue) (f : Nat → Rounded) : LaneOut := outOf c.ew c.en f

def Issue.faddLane (c : Issue) (g : Gang) (i : Nat) : LaneOut :=
  c.eachF (fun j => c.fmt.add (c.mode g) c.ftz (c.eA g i j) (c.eB g i j))
def Issue.fsubLane (c : Issue) (g : Gang) (i : Nat) : LaneOut :=
  c.eachF (fun j => c.fmt.sub (c.mode g) c.ftz (c.eA g i j) (c.eB g i j))
def Issue.fmulLane (c : Issue) (g : Gang) (i : Nat) : LaneOut :=
  c.eachF (fun j => c.fmt.mul (c.mode g) c.ftz (c.eA g i j) (c.eB g i j))
def Issue.fmaLane (c : Issue) (g : Gang) (i : Nat) : LaneOut :=
  c.eachF (fun j => c.fmt.fma (c.mode g) c.ftz (c.eA g i j) (c.eB g i j) (c.eC g i j))
def Issue.fminLane (c : Issue) (g : Gang) (i : Nat) : LaneOut :=
  c.eachF (fun j => c.fmt.pick false c.ftz (c.eA g i j) (c.eB g i j))
def Issue.fmaxLane (c : Issue) (g : Gang) (i : Nat) : LaneOut :=
  c.eachF (fun j => c.fmt.pick true c.ftz (c.eA g i j) (c.eB g i j))

/-- The sign bit of a sub-element. -/
def Issue.signBit (c : Issue) : Nat := 2 ^ (c.ew - 1)

def Issue.fabsLane (c : Issue) (g : Gang) (i : Nat) : Word := c.each (fun j => c.eA g i j % c.signBit)
def Issue.fnegLane (c : Issue) (g : Gang) (i : Nat) : Word :=
  c.each (fun j => if c.eA g i j < c.signBit then c.eA g i j + c.signBit else c.eA g i j - c.signBit)

/-- FADD (R199). -/
def execFadd (w : FullWord) (s : State) : Host.Outcome State Fault Refusal := laneWord 0x60 w s Issue.faddLane

/-- FSUB (R199). -/
def execFsub (w : FullWord) (s : State) : Host.Outcome State Fault Refusal := laneWord 0x61 w s Issue.fsubLane

/-- FMUL (R199). -/
def execFmul (w : FullWord) (s : State) : Host.Outcome State Fault Refusal := laneWord 0x62 w s Issue.fmulLane

/-- FMA (R199). -/
def execFma (w : FullWord) (s : State) : Host.Outcome State Fault Refusal := laneWord 0x63 w s Issue.fmaLane

/-- FMIN (R200). -/
def execFmin (w : FullWord) (s : State) : Host.Outcome State Fault Refusal := laneWord 0x64 w s Issue.fminLane

/-- FMAX (R200). -/
def execFmax (w : FullWord) (s : State) : Host.Outcome State Fault Refusal := laneWord 0x65 w s Issue.fmaxLane

/-- FABS (R200). -/
def execFabs (w : FullWord) (s : State) : Host.Outcome State Fault Refusal := laneVal 0x66 w s Issue.fabsLane

/-- FNEG (R200). -/
def execFneg (w : FullWord) (s : State) : Host.Outcome State Fault Refusal := laneVal 0x67 w s Issue.fnegLane

/-- One lane of FCMP: a mask, or a predicate of sub-element 0, of all, of any (R201). NV is raised by the sub-elements the
result takes part in: all of them. -/
def Issue.fcmpLane (c : Issue) (g : Gang) (i : Nat) : LaneOut :=
  let t := c.fmt
  let r := fun j => fcompare c.w.sop (t.decode (c.eA g i j)) (t.decode (c.eB g i j))
  let js := List.range c.en
  let fl := orAll (js.map (fun j => (r j).2))
  match c.w.xa with
  | 0 => { val := some (c.each (fun j => if (r j).1 then 2 ^ c.ew - 1 else 0)), flags := fl }
  | 1 => { pred := some (c.dstName 3, (r 0).1), flags := fl }
  | 2 => { pred := some (c.dstName 3, js.all (fun j => (r j).1)), flags := fl }
  | _ => { pred := some (c.dstName 3, js.any (fun j => (r j).1)), flags := fl }

/-- FCMP (R201). -/
def execFcmp (w : FullWord) (s : State) : Host.Outcome State Fault Refusal := laneWord 0x68 w s Issue.fcmpLane

/-- FCLS (R202). -/
def execFcls (w : FullWord) (s : State) : Host.Outcome State Fault Refusal :=
  laneVal 0x69 w s (fun c g i => c.each (fun j => c.fmt.classOf (c.eA g i j)))

/-- FRND (R203). -/
def execFrnd (w : FullWord) (s : State) : Host.Outcome State Fault Refusal :=
  laneWord 0x6A w s (fun c g i => c.eachF (fun j => c.fmt.integral (c.mode g) (c.w.xa % 2 == 1) (c.eA g i j)))

/-- FSCL (R199). -/
def execFscl (w : FullWord) (s : State) : Host.Outcome State Fault Refusal :=
  laneWord 0x6D w s (fun c g i => c.eachF (fun j => c.fmt.scale (c.mode g) (c.eA g i j) (sextN c.ew (c.eB g i j))))

/-- The placing of converted sub-elements by part (R204): source code, destination code, and conv of a source pattern for
the destination's sub-element index. -/
def Issue.byPart (c : Issue) (g : Gang) (i src dst : Nat) (conv : Nat → Nat → Rounded) : LaneOut :=
  let ws := ewidth src
  let wd := ewidth dst
  let ns := 64 / ws
  let nd := 64 / wd
  let part := cvtPart c.w
  let a := (c.srcA g i).toNat
  if ns ≤ nd then
    let old := if c.w.nw then 0 else (g.vGet i c.w.dst.toNat).toNat
    let res := (List.range ns).map (fun j => conv (part * ns + j) (subEl ws a j))
    { val := some (packEls wd nd (fun j =>
        if part * ns ≤ j ∧ j < part * ns + ns then (res.getD (j - part * ns) default).bits else subEl wd old j)),
      flags := orAll (res.map Rounded.flags) }
  else outOf wd nd (fun j => conv j (subEl ws a (part * nd + j)))

/-- The mode of FCVT: 5 is stochastic (R43). -/
def Issue.fcvtLane (c : Issue) (g : Gang) (i : Nat) : LaneOut :=
  let src := fcvtSrc c.w
  let dst := plainType c.w.type
  let r := ewidth dst
  let rand := (c.srcC g 64 i).toNat
  let mode := if c.rnd = 5 then 5 else c.mode g
  c.byPart g i src dst (fun j x => fcvt src dst mode c.sat c.ftz r (subEl r rand j) x)

/-- FCVT (R204, R47, R48). -/
def execFcvt (w : FullWord) (s : State) : Host.Outcome State Fault Refusal := laneWord 0x6B w s Issue.fcvtLane

def Issue.icvtLane (c : Issue) (g : Gang) (i : Nat) : LaneOut :=
  let src := icvtSrc c.w
  let dst := plainType c.ty
  c.byPart g i src dst (fun _ x => if 12 ≤ src then toInt src dst (c.mode g) x else ofInt src dst (c.mode g) c.sat x)

/-- ICVT (R204, R49). -/
def execIcvt (w : FullWord) (s : State) : Host.Outcome State Fault Refusal := laneWord 0x6C w s Issue.icvtLane

end Sys2Proof.Machine
end

