-- ==== Sys2Proof/Machine/Special.lean ====
section
/-! DEFINITION. Special functions (spec/17_isa_vector.md R205 to R207). The special cases are delivered exactly. Elsewhere the
part's own result (Config.special) is delivered when it lies within the bound of R207, and otherwise the exact value rounded
to nearest: whatever Config.special is, the delivered result meets the bound (notes/assumptions/20). The exact value is held as
an interval that contains it. -/

namespace Sys2Proof.Machine

/-! ## Fixed-point values with 256 fraction bits -/

def fxP : Nat := 256
def fxOne : Nat := 2 ^ 256
/-- π and ln 2. -/
def fxPi : Nat := 0x3243f6a8885a308d313198a2e03707344a4093822299f31d0082efa98ec4e6c89
def fxLn2 : Nat := 0xb17217f7d1cf79abc9e3b39803f2f6af40f343267298b62d8a0d175b8baafa2b

/-- The integer square root, bit by bit. -/
def isqrtFrom (n : Nat) : Nat → Nat → Nat
  | 0, r => if (r + 1) * (r + 1) ≤ n then r + 1 else r
  | b + 1, r => isqrtFrom n b (if (r + 2 ^ (b + 1)) * (r + 2 ^ (b + 1)) ≤ n then r + 2 ^ (b + 1) else r)
def isqrt (n : Nat) : Nat := isqrtFrom n (Nat.log2 n / 2 + 1) 0

/-- e^t by its series, 0 ≤ t < 1. -/
def fxExp (t : Nat) : Nat → Nat → Nat
  | 0, _ => fxOne
  | f + 1, k => fxOne + t * fxExp t f (k + 1) / (k * fxOne)

/-- The sine's series divided by t, in u = t². -/
def fxSinc (u : Nat) : Nat → Nat → Nat
  | 0, _ => fxOne
  | f + 1, k => fxOne - u * fxSinc u f (k + 2) / (k * (k + 1) * fxOne)

/-- sin t, 0 ≤ t ≤ π/2. -/
def fxSin (t : Nat) : Nat := t * fxSinc (t * t / fxOne) 50 2 / fxOne

/-- Bits of log2 of a number in [1, 2) by repeated squaring. -/
def fxLogBits : Nat → Nat → Nat → Nat
  | 0, _, acc => acc
  | f + 1, x, acc =>
    let y := x * x / fxOne
    if 2 * fxOne ≤ y then fxLogBits f (y / 2) (2 * acc + 1) else fxLogBits f y (2 * acc)

/-- m × 2^e in fixed point, cut off. -/
def fxOf (m : Nat) (e : Int) : Nat := if 0 ≤ e + fxP then m * 2 ^ (e + fxP).toNat else m / 2 ^ (-(e + fxP)).toNat

/-! ## Values outside the special cases -/

/-- A real value known closely: its sign, and a magnitude no further than d × 2^e from m × 2^e. -/
structure Near where
  s : Bool
  m : Nat
  e : Int
  d : Nat
  deriving DecidableEq, Repr, Inhabited

/-- Power-of-two test of a value: the exponent. -/
def powTwo (m : Nat) (e : Int) : Option Int := if m = 2 ^ Nat.log2 m then some (topExp m e) else none

/-- A value with an even exponent. -/
def evenExp (m : Nat) (e : Int) : Nat × Int := if e % 2 = 0 then (m, e) else (2 * m, e - 1)

/-- Allowance for the cut-off steps of a series: at most some hundreds of units of its last place. -/
def fxErr : Nat := 2 ^ 16

def rcpNear (s : Bool) (m : Nat) (e : Int) : Near :=
  let n := fxP + Nat.log2 m
  { s := s, m := 2 ^ n / m, e := -e - n, d := if 2 ^ n % m = 0 then 0 else 1 }

def rsqNear (m : Nat) (e : Int) : Near :=
  let (m, e) := evenExp m e
  let n := fxP + Nat.log2 m
  let r := isqrt (2 ^ (2 * n) / m)
  { s := false, m := r, e := -(e / 2) - n, d := if r * r * m = 2 ^ (2 * n) then 0 else 2 }

/-- 2^x for a number x below 2^16 in magnitude. -/
def exp2Near (s : Bool) (m : Nat) (e : Int) : Near :=
  let v : Int := if s then -(fxOf m e : Int) else fxOf m e
  let n := v / (fxOne : Int)
  let f := (v % (fxOne : Int)).toNat
  { s := false, m := fxExp (f * fxLn2 / fxOne) 90 1, e := n - fxP, d := fxErr }

def log2Near (m : Nat) (e : Int) : Near :=
  let k := Nat.log2 m
  let bits := fxLogBits 120 (m * 2 ^ fxP / 2 ^ k) 0
  let v : Int := topExp m e * 2 ^ 120 + bits
  { s := decide (v < 0), m := v.natAbs, e := -120, d := 4 }

/-- x modulo 2 in fixed point. -/
def fxMod2 (m : Nat) (e : Int) : Nat := if 1 ≤ e then 0 else fxOf m e % (2 * fxOne)

/-- sin(π r) for 0 ≤ r ≤ 1. -/
def sinHalf (r : Nat) : Nat := fxSin ((if 2 * r ≤ fxOne then r else fxOne - r) * fxPi / fxOne)

def sinpNear (s : Bool) (m : Nat) (e : Int) : Near :=
  let r := fxMod2 m e
  if r < fxOne then { s := s, m := sinHalf r, e := -fxP, d := fxErr } else { s := !s, m := sinHalf (r - fxOne), e := -fxP, d := fxErr }

def cospNear (m : Nat) (e : Int) : Near :=
  let r := fxMod2 m e
  let r := if fxOne < r then 2 * fxOne - r else r
  if 2 * r ≤ fxOne then { s := false, m := sinHalf (fxOne / 2 - r), e := -fxP, d := fxErr }
  else { s := true, m := sinHalf (r - fxOne / 2), e := -fxP, d := fxErr }

def tanhNear (s : Bool) (m : Nat) (e : Int) : Near :=
  if 6 ≤ topExp m e then { s := s, m := 2 ^ 90 - 1, e := -90, d := 1 }
  else
    let t := 2 * fxOf m e
    let n := t / fxLn2
    let ex := fxExp (t % fxLn2) 90 1 * 2 ^ n
    { s := s, m := (ex - fxOne) * fxOne / (ex + fxOne), e := -fxP, d := fxErr }

/-! ## Delivery within the bound (R207) -/

/-- The bound: ulps of the destination at the exact result, or an absolute error 2^-k. -/
inductive Bound where
  | ulps (n : Nat)
  | absolute (k : Nat)
  deriving DecidableEq, Repr, Inhabited

/-- A pattern lies within the bound of a value: of both ends of the interval that holds it, so of the value. Where the bound is in
ulps, a result that underflows to 0 has the sign of the value (R206). -/
def Fmt.within (t : Fmt) (b : Bound) (y : Near) (x : Nat) : Bool :=
  match t.decode x with
  | .fin s m e =>
      let top := topExp y.m y.e
      let (lm, le) : Nat × Int := match b with
        | .ulps n => (n, (if top < t.emin then t.emin else top) - t.fb)
        | .absolute k => (1, -(k : Int))
      let near := fun (ym : Nat) =>
        let (d, u) := finSum s m e (!y.s) ym y.e
        decide ((finSum false d.natAbs u true lm le).1 ≤ 0)
      let sign := match b with
        | .ulps _ => m != 0 || s == y.s
        | .absolute _ => true
      sign && near (y.m - y.d) && near (y.m + y.d)
  | .inf _ | .nan .. => false

/-- Deliver a result that is not exact. -/
def Fmt.approx (t : Fmt) (b : Bound) (part : Nat) (y : Near) : Rounded :=
  let own := t.round 1 false y.s y.m y.e
  let x := if t.within b y part then part else own.bits
  { bits := x, flags := fNX + (if fld x t.fb t.eb = 0 then fUF else 0) }

/-- Bound of an operation: 0 RCP, 1 RSQ, 3 EXP2, 4 LOG2, 5 SINP, 6 COSP, 7 TANH; `mid`: the operand lies in [0.5, 2]. -/
def boundOf (op code : Nat) (mid : Bool) : Bound :=
  let abs : Bound := .absolute (if code = 14 then 22 else 9)
  match op with
  | 0 | 1 => .ulps 1
  | 4 => if mid then abs else .ulps (if code = 14 then 2 else 1)
  | 5 | 6 => abs
  | _ => .ulps (if code = 14 then 2 else 1)

/-- A finite value is an integer; its parity and half-integers. -/
def isInt (m : Nat) (e : Int) : Bool := decide (0 ≤ e) || m % 2 ^ (-e).toNat == 0
/-- ⌊x⌋ of a magnitude. -/
def floorOf (m : Nat) (e : Int) : Nat := if 0 ≤ e then m * 2 ^ e.toNat else m / 2 ^ (-e).toNat
/-- Odd integer part. -/
def oddFloor (m : Nat) (e : Int) : Bool := decide (e < 1) && floorOf m e % 2 == 1

/-- One in a format. -/
def Fmt.one (t : Fmt) (s : Bool) : Nat := (t.round 1 false s 1 0).bits

/-- A special function of one pattern (R206, R207); `part`: the part's own result for it. -/
def special (op code mode part a : Nat) : Rounded :=
  let t := fmtOf code
  let ok := fun (x : Nat) => ({ bits := x, flags := 0 } : Rounded)
  let dz := fun (x : Nat) => ({ bits := x, flags := fDZ } : Rounded)
  match t.decode a with
  | .nan s q f => { bits := t.nanPat s f, flags := if q then 0 else fNV }
  | .inf s =>
      match op with
      | 0 => ok (t.pat s 0)
      | 1 => if s then t.invalid else ok (t.pat false 0)
      | 2 => if s then t.invalid else ok (t.infPat false)
      | 3 => if s then ok (t.pat false 0) else ok (t.infPat false)
      | 4 => if s then t.invalid else ok (t.infPat false)
      | 5 | 6 => t.invalid
      | _ => ok (t.one s)
  | .fin s m e =>
      if m = 0 then
        match op with
        | 0 | 1 => dz (t.infPat s)
        | 2 | 5 | 7 => ok a
        | 3 | 6 => ok (t.one false)
        | _ => dz (t.infPat true)
      else
        let mid := decide (-1 ≤ topExp m e) && (decide (topExp m e < 1) || powTwo m e == some 1)
        let give := t.approx (boundOf op code mid) part
        match op with
        | 0 =>
            match powTwo m e with
            | some k => t.round 1 false s 1 (-k)
            | none =>
              let y := rcpNear s m e
              if (t.round 1 false s y.m y.e).bits = t.infPat s then t.overflow 1 false s else give y
        | 1 =>
            if s then t.invalid
            else
              match powTwo m e with
              | some k => if k % 2 = 0 then t.round 1 false false 1 (-(k / 2)) else give (rsqNear m e)
              | none => give (rsqNear m e)
        | 2 =>
            if s then t.invalid
            else
              let (m, e) := evenExp m e
              let n := m * 2 ^ 256
              let r := isqrt n
              t.round mode false false (2 * r + (if r * r = n then 0 else 1)) (e / 2 - 129)
        | 3 =>
            if 15 ≤ topExp m e then (if s then { bits := t.pat false 0, flags := fUF + fNX } else t.overflow 1 false false)
            else if isInt m e then
              let k : Int := floorOf m e
              t.round 1 false false 1 (if s then -k else k)
            else
              let y := exp2Near s m e
              let own := t.round 1 false false y.m y.e
              if own.bits = t.infPat false ∨ own.bits = 0 then own else give y
        | 4 =>
            if s then t.invalid
            else
              match powTwo m e with
              | some k => t.round 1 false (decide (k < 0)) k.natAbs 0
              | none => give (log2Near m e)
        | 5 =>
            if isInt m e then ok (t.pat s 0)
            else if isInt m (e + 1) then ok (t.one (s != oddFloor m e))
            else give (sinpNear s m e)
        | 6 =>
            if isInt m e then ok (t.one (oddFloor m e))
            else if isInt m (e + 1) then ok (t.pat false 0)
            else give (cospNear m e)
        | _ => give (tanhNear s m e)

/-- One lane of a special function. -/
def Issue.specialLane (op : Nat) (c : Issue) (g : Gang) (i : Nat) : LaneOut :=
  c.eachF (fun j =>
    let a := c.eA g i j
    special op c.ty (c.mode g) ((Config.special op c.ty (word a)).toNat % 2 ^ c.ew) a)

/-- RCP (R205). -/
def execRcp (w : FullWord) (s : State) : Host.Outcome State Fault Refusal := laneWord 0x80 w s (Issue.specialLane 0)

/-- RSQ (R205). -/
def execRsq (w : FullWord) (s : State) : Host.Outcome State Fault Refusal := laneWord 0x81 w s (Issue.specialLane 1)

/-- SQRT (R205). -/
def execSqrt (w : FullWord) (s : State) : Host.Outcome State Fault Refusal := laneWord 0x82 w s (Issue.specialLane 2)

/-- EXP2 (R205). -/
def execExp2 (w : FullWord) (s : State) : Host.Outcome State Fault Refusal := laneWord 0x83 w s (Issue.specialLane 3)

/-- LOG2 (R205). -/
def execLog2 (w : FullWord) (s : State) : Host.Outcome State Fault Refusal := laneWord 0x84 w s (Issue.specialLane 4)

/-- SINP (R205). -/
def execSinp (w : FullWord) (s : State) : Host.Outcome State Fault Refusal := laneWord 0x85 w s (Issue.specialLane 5)

/-- COSP (R205). -/
def execCosp (w : FullWord) (s : State) : Host.Outcome State Fault Refusal := laneWord 0x86 w s (Issue.specialLane 6)

/-- TANH (R205). -/
def execTanh (w : FullWord) (s : State) : Host.Outcome State Fault Refusal := laneWord 0x87 w s (Issue.specialLane 7)

end Sys2Proof.Machine
end

