-- ==== Sys2Proof/Machine/CrossLane.lean ====
section
/-! DEFINITION. Cross-lane instructions in their split and member forms (spec/17_isa_vector.md R208 to R214). -/

namespace Sys2Proof.Machine

/-! ## What each lane brings and receives -/

/-- A cross-lane word as it performs: its form, rounding mode, contributors and what each of them brought (R209). -/
structure Cross where
  op    : Nat
  w     : FullWord
  f     : Form
  mode  : Nat
  who   : Mask
  arr   : Tab Arrival
  deriving DecidableEq, Repr, Inhabited

def Cross.has (x : Cross) (l : Nat) : Bool := decide (l < 32) && x.who.getLsbD l
def Cross.a (x : Cross) (l : Nat) : Word := (Tab.get x.arr l).a
def Cross.b (x : Cross) (l : Nat) : Word := (Tab.get x.arr l).b
def Cross.ty (x : Cross) : Nat := x.f.typeEff x.w
def Cross.ew (x : Cross) : Nat := ewidth x.ty
def Cross.en (x : Cross) : Nat := 64 / x.ew
def Cross.el (x : Cross) (l j : Nat) : Nat := subEl x.ew (x.a l).toNat j
/-- The contributors whose pS is 1 (R213). -/
def Cross.yes (x : Cross) : Mask := maskIf x.who (fun l => (Tab.get x.arr l).ps)

/-- SHF (R212). -/
def Cross.shf (x : Cross) (i : Nat) : Word :=
  packEls x.ew x.en (fun j =>
    let sel := subEl 8 (x.b i).toNat j % (32 * x.en)
    let l := sel / x.en
    if x.has l then x.el l (sel % x.en) else x.el i j)

/-- SHFI (R212). -/
def Cross.shfi (x : Cross) (i : Nat) : Word :=
  let imm := x.w.sb.toNat
  let k := imm % 32
  let wid := 2 ^ (5 - imm / 32)
  let base := i / wid * wid
  let q := i % wid
  let src : Option Nat := match x.w.sop with
    | 0 => if k ≤ q then some (q - k) else none
    | 1 => some (q + k)
    | 2 => some (Nat.xor q k)
    | _ => some ((q + k) % wid)
  match src with
  | some s => if s < wid ∧ x.has (base + s) then x.a (base + s) else x.a i
  | none => x.a i

/-- BCAST (R212). -/
def Cross.bcast (x : Cross) (i : Nat) : Word :=
  let l := (x.b i).toNat % 32
  if x.has l then x.a l else x.a i

/-- VOTE (R213). -/
def Cross.vote (x : Cross) (i : Nat) : LaneOut :=
  let p := x.yes
  let n := x.w.dst.toNat % 8
  match x.w.sop with
  | 0 => .p n (p != 0#32)
  | 1 => .p n (p == x.who)
  | 2 => .p n (p == 0#32 || p == x.who)
  | 3 => .v (p.setWidth 64)
  | 4 => .v (word (lanesOf p).length)
  | _ => .v (word ((lanesOf p).filter (· < i)).length)

/-- MATCH (R213). -/
def Cross.matches (x : Cross) (i : Nat) : Word := (maskIf x.who (fun l => x.el l 0 == x.el i 0)).setWidth 64

/-- ELECT (R213). -/
def Cross.elect (x : Cross) (i : Nat) : Bool := lowest (if x.w.sop = 1 then x.yes else x.who) == some i

/-! ## Reductions and prefixes (R214) -/

/-- One combination of two sub-elements. -/
def Cross.comb (x : Cross) (p q : Nat) : Rounded :=
  let t := fmtOf x.ty
  let isF := 12 ≤ x.ty
  let int := fun (n : Nat) => ({ bits := n, flags := 0 } : Rounded)
  match x.w.sop with
  | 0 => if isF then t.add x.mode false p q else int (lowBits x.ew (readIn x.ty p + readIn x.ty q))
  | 1 => if isF then t.pick false false p q else int (if readIn x.ty p ≤ readIn x.ty q then p else q)
  | 2 => if isF then t.pick true false p q else int (if readIn x.ty p ≤ readIn x.ty q then q else p)
  | 3 => int (Nat.land p q)
  | 4 => int (Nat.lor p q)
  | _ => int (Nat.xor p q)

/-- The identity of an operation. -/
def Cross.unit (x : Cross) : Nat :=
  let t := fmtOf x.ty
  let isF := 12 ≤ x.ty
  match x.w.sop with
  | 0 => if isF then t.pat true 0 else 0
  | 1 => if isF then t.infPat false else lowBits x.ew (intMax x.ty)
  | 2 => if isF then t.infPat true else lowBits x.ew (intMin x.ty)
  | 3 => 2 ^ x.ew - 1
  | _ => 0

/-- Combination of values that may be absent; the flags accumulate. -/
def Cross.join (x : Cross) (p q : Option Nat) (fl : Nat) : Option Nat × Nat :=
  match p, q with
  | none, q => (q, fl)
  | p, none => (p, fl)
  | some a, some b => let r := x.comb a b; (some r.bits, Nat.lor fl r.flags)

/-- One level of the tree: neighbours combined, lower first. -/
def Cross.level (x : Cross) : List (Option Nat) → Nat → List (Option Nat) × Nat
  | a :: b :: l, fl =>
      let (v, fl) := x.join a b fl
      let (r, fl) := x.level l fl
      (v :: r, fl)
  | l, fl => (l, fl)

/-- True for an integer sum, which .sat saturates once, as a whole (R214; DEDUCED, log 49). -/
def Cross.adds (x : Cross) : Bool := x.w.sop == 0 && decide (x.ty < 12)

/-- The exact sum of one sub-element over some lanes, delivered in the type (R214). -/
def Cross.total (x : Cross) (lanes : List Nat) (j : Nat) : Nat :=
  deliver x.ty (x.f.satEff x.w) ((lanes.map (fun l => readIn x.ty (x.el l j))).foldl (· + ·) 0)

/-- RED of one sub-element. -/
def Cross.red (x : Cross) (j : Nat) : Rounded :=
  if x.adds then { bits := x.total (lanesOf x.who) j, flags := 0 } else
  let l0 := (List.range 32).map (fun l => if x.has l then some (x.el l j) else none)
  let (l, fl) := (List.range 5).foldl (fun (p : List (Option Nat) × Nat) _ => x.level p.1 p.2) (l0, 0)
  { bits := (l.headD none).getD x.unit, flags := fl }

/-- SCAN of one sub-element: the value of each lane, ascending, and the flags. -/
def Cross.scan (x : Cross) (j : Nat) : List Nat × Nat :=
  let excl := x.w.xa / 2 % 2 == 1
  if x.adds then
    ((List.range 32).map (fun l =>
      x.total ((lanesOf x.who).filter (fun k => if excl then decide (k < l) else decide (k ≤ l))) j), 0)
  else
    let step := fun (p : List Nat × Option Nat × Nat) (l : Nat) =>
      let (out, y, fl) := p
      let (y', fl) := if x.has l then x.join y (some (x.el l j)) fl else (y, fl)
      (out ++ [(if excl then y else y').getD x.unit], y', fl)
    let (out, _, fl) := (List.range 32).foldl step ([], none, 0)
    (out, fl)

/-- What a contributor receives. -/
def Cross.out (x : Cross) : Nat → LaneOut :=
  match x.op with
  | 0x90 => fun i => .v (x.shf i)
  | 0x91 => fun i => .v (x.shfi i)
  | 0x92 => fun i => x.vote i
  | 0x93 => let r := outOf x.ew x.en x.red; fun _ => r
  | 0x94 =>
      let rows := (List.range x.en).map x.scan
      let fl := orAll (rows.map Prod.snd)
      fun i => { val := some (packEls x.ew x.en (fun j => (rows.getD j default).1.getD i 0)), flags := fl }
  | 0x95 => fun i => .v (x.bcast i)
  | 0x96 => fun i => .v (x.matches i)
  | _ => fun i => .p (x.w.dst.toNat % 8) (x.elect i)

/-! ## The two forms (R209, R210) -/

/-- What the lanes of a mask bring. -/
def Issue.arrivals (c : Issue) (g : Gang) (m : Mask) : Tab Arrival :=
  (lanesOf m).foldl (fun t i => Tab.set t i
    { act := c.act.getLsbD i, a := c.srcA g i, b := c.srcBz g i, ps := g.pGet i (nameOf c.w.sa 3) }) []

/-- Performance over contributors of the issuing split. -/
def Issue.cross (c : Issue) (g : Gang) (who : Mask) : Cross :=
  { op := c.op, w := c.w, f := c.f, mode := c.mode g, who := who, arr := c.arrivals g who }

/-- The arrived threads of one member form leave their parks. -/
def Gang.unparkAll (g : Gang) (ps : List Park) : Gang := ps.foldl (fun g p => g.unpark p.id) g

/-- The member form at a park performs once over every arrived member (R210 item 4): the contributors are the lanes of kN whose guard
was true at arrival; every arrived thread goes on, as one split where the split of the lowest of them stood. Rounding mode and enables are
those of fpctl at the performance (log 107). -/
def State.memberPerform (s : State) (w g : Nat) (p : Park) : State :=
  let x := s.gang w g
  match p.why with
  | .member op word' _ _ =>
      let ps := x.memberParks p.pc
      let lanes := ps.foldl (fun m q => m ||| q.lanes) 0#32
      let arr := ps.foldl (fun (t : Tab Arrival) q => match q.why with
        | .member _ _ _ a => a.foldl (fun t e => Tab.set t e.1 e.2) t
        | _ => t) []
      let who := maskIf (lanes &&& x.kGet (memberK word')) (fun i => (Tab.get arr i).act)
      let seat := ((ps.filter (fun q => q.lanes.getLsbD ((lowest lanes).getD 0))).head?.map (fun q => match q.why with
        | .member _ _ seat _ => seat
        | _ => 0)).getD 0
      let f := (form op.toNat word').getD default
      let c : Cross := { op := op.toNat, w := word', f := f, mode := x.mode (f.rndEff word'), who := who, arr := arr }
      let outs := (lanesOf who).map (fun i => (i, c.out i))
      let fl := orAll (outs.map (fun e => e.2.flags))
      let y := (x.unparkAll ps).raise fl
      if y.enabled fl ≠ 0 then
        let y := (y.reseat lanes p.pc seat).tidy
        let split := ((y.splits.find? (fun z => z.lanes.getLsbD ((lowest lanes).getD 0))).map Split.id).getD 0
        (s.setGang w g y).takeTrap w g split none cFPTRAP who (word fl) p.pc
      else
        let y := y.putLanes word'.nw word'.dst.toNat outs
        s.setGang w g (((y.reseat lanes (p.pc + 8) seat).tidy).readyFrom x s.cycle)
  | _ => s

/-- MEMBER_FORM_PERFORM (R210). -/
def execMemberFormPerform (w g park : Nat) (s : State) : Host.Outcome State Fault Refusal :=
  let x := s.gang w g
  match x.parkOf park with
  | none => .next s
  | some p => .next (if x.memberReady p then s.memberPerform w g p else s)

/-- Every member form of a gang that can perform does so, before the gang's next turn (R210 item 3). -/
def State.memberForms (s : State) (w g : Nat) : State :=
  ((s.gang w g).parks.map Park.id).foldl (fun s id =>
    match (s.gang w g).parkOf id with
    | none => s
    | some p => if (s.gang w g).memberReady p then s.memberPerform w g p else s) s

/-- A cross-lane word. In the member form, with kN within the issuing split, it performs at once: over that split alone, or together
with the threads that have arrived at the word before. -/
def crossWord (op : Nat) (w : FullWord) (s : State) : Host.Outcome State Fault Refusal :=
  runWord op w s (fun c s =>
    let g := c.g s
    if w.xa % 2 = 0 then c.commit (c.cross g c.act).out s
    else
      let k := g.kGet (memberK w)
      let mine := c.lanes &&& k
      if k &&& ~~~c.lanes = 0#32 ∧ !(g.memberParks c.pc).isEmpty then
        let id := g.nextId
        let s := c.park mine mine (.member (BitVec.ofNat 8 op) w c.split (c.arrivals g mine)) none s
        match (c.g s).parkOf id with
        | some p => s.memberPerform c.wg c.gang p
        | none => s
      else if k &&& ~~~c.lanes = 0#32 then
        let c := { c with act := c.act &&& mine }
        c.commit (c.cross g c.act).out s
      else if mine = 0#32 then c.done s
      else c.park mine mine (.member (BitVec.ofNat 8 op) w c.split (c.arrivals g mine)) none s)

/-- SHF (R212). -/
def execShf (w : FullWord) (s : State) : Host.Outcome State Fault Refusal := crossWord 0x90 w s

/-- SHFI (R212). -/
def execShfi (w : FullWord) (s : State) : Host.Outcome State Fault Refusal := crossWord 0x91 w s

/-- VOTE (R213). -/
def execVote (w : FullWord) (s : State) : Host.Outcome State Fault Refusal := crossWord 0x92 w s

/-- RED (R214). -/
def execRed (w : FullWord) (s : State) : Host.Outcome State Fault Refusal := crossWord 0x93 w s

/-- SCAN (R214). -/
def execScan (w : FullWord) (s : State) : Host.Outcome State Fault Refusal := crossWord 0x94 w s

/-- BCAST (R212). -/
def execBcast (w : FullWord) (s : State) : Host.Outcome State Fault Refusal := crossWord 0x95 w s

/-- MATCH (R213). -/
def execMatchLanes (w : FullWord) (s : State) : Host.Outcome State Fault Refusal := crossWord 0x96 w s

/-- ELECT (R213). -/
def execElect (w : FullWord) (s : State) : Host.Outcome State Fault Refusal := crossWord 0x97 w s

end Sys2Proof.Machine
end

