-- ==== Sys2Proof/Machine/Scratch.lean ====
section
/-! DEFINITION. Scratch addresses and buffer records (spec/05_memory.md R57 to R67, spec/29_system.md R318). -/

namespace Sys2Proof.Machine

/-! ## Scratch addresses (R58, R59): levels 1 core, 2 clus, 3 die -/

/-- Bits of the OFFSET field. -/
def offBits (lvl : Nat) : Nat := if lvl = 1 then 19 else if lvl = 2 then 24 else 27

/-- An address with its OFFSET advanced, and whether the field holds the result (R59). -/
def scratchAdv (lvl a : Nat) (d : Int) : Nat × Bool :=
  let m := 2 ^ offBits lvl
  let n : Int := (a % m : Nat) + d
  (a / m * m + (n % (m : Int)).toNat, decide (0 ≤ n ∧ n < m))

/-- The must-be-0 bits and MEMBER under PEER = 0 hold (R58). -/
def scratchFormed (lvl a : Nat) : Bool :=
  match lvl with
  | 3 => a / 2 ^ 27 == 0
  | 1 => a / 2 ^ 27 == 0 && (fld a 26 1 == 1 || fld a 19 7 == 0)
  | _ => a / 2 ^ 32 == 0 && (fld a 31 1 == 1 || fld a 24 7 == 0)

/-- Where a scratch access lands: the location of its first byte, a member without a region, or a violation. -/
inductive Scr where
  | loc (x : Nat)
  | void
  | bad
  deriving DecidableEq, Repr, Inhabited

/-- The die-store region of a context on a die (R318): offset and size in bytes. -/
def State.dieRegion (s : State) (key die : Nat) : Nat × Nat :=
  let g := (s.creg key (0x301 + die)).toNat
  (g % 128 * 2 ^ 20, fld g 8 7 * 2 ^ 20)

/-- A workgroup holds its regions. -/
def Workgroup.hasRegion (r : Workgroup) : Bool := r.status == .running || r.status == .saving || r.status == .saved

/-- The member of a workgroup's cluster group with a field-2 value, if it holds a region now (R59). -/
def State.memberOf (s : State) (w m : Nat) : Option Nat :=
  let r := s.wg w
  let h := s.hdr w
  let ord := r.ord - ordField h r.ord 2 + m
  (s.wgs.find? (fun e => e.2.launch == r.launch && e.2.ord == ord && e.2.hasRegion)).map Prod.fst

/-- Resolve n bytes at a scratch address (R59). -/
def State.scratch (s : State) (w lvl a n : Nat) : Scr :=
  if !scratchFormed lvl a then .bad
  else
    let off := a % 2 ^ offBits lvl
    if lvl = 3 then
      let die := dieOf (s.wg w).core
      let (lo, size) := s.dieRegion (s.ctxKey w) die
      if off + n ≤ size then .loc (locDst die (lo + off)) else .bad
    else
      let h := s.hdr w
      let lim := (if lvl = 1 then hdrCstk h else hdrKstk h) * 1024
      let at' := fun (v : Nat) => Scr.loc (if lvl = 1 then locCst v off else locKst v off)
      if lim < off + n then .bad
      else
        let peer := if lvl = 1 then fld a 26 1 else fld a 31 1
        let mem := if lvl = 1 then fld a 19 7 else fld a 24 7
        if peer = 0 then (if (s.wg w).hasRegion then at' w else .void)
        else if !hdrCb h || hdrExt h 2 ≤ mem then .bad
        else
          match s.memberOf w mem with
          | some v => at' v
          | none => .void

/-- The same for an address advanced by an offset. -/
def State.scratchAt (s : State) (w lvl : Nat) (a : Nat × Bool) (n : Nat) : Scr :=
  if a.2 then s.scratch w lvl a.1 n else .bad

/-- The cause of a scratch violation (R59). -/
def scrCause (lvl : Nat) : Nat := if lvl = 3 then cSCRATCH else cBUDGET

/-! ## Buffer records -/

/-- The level of a scratch kind. -/
def kindLevel (kind : Nat) : Option Nat := if 0x20 ≤ kind ∧ kind ≤ 0x22 then some (kind - 0x1F) else none

/-- The kinds of R57. -/
def kindOk (kind : Nat) : Bool := [0x01, 0x02, 0x03, 0x10, 0x11, 0x20, 0x21, 0x22].contains kind

def isPow2 (n : Nat) : Bool := n != 0 && n == 2 ^ Nat.log2 n

/-- The word of the first failing field of a record (R64); none: it passes. -/
def recCheck (d : BitVec 256) : Option Nat :=
  let e := recEfmt d
  let es := esize e
  let swzBad := 3 ≤ recSwz d || (recSwz d != 0 && (0x14 ≤ e || !(isPow2 (recSwp d) && decide (recSwp d ≤ 2048))))
  let pitch := if recSwz d = 1 then recSwp d * 32 else recSwp d * 16
  let scr := match kindLevel (recKind d) with
    | some lvl => !scratchFormed lvl (recBase d)
    | none => false
  if !kindOk (recKind d) || (e < 0x14 && recBase d % es != 0) || scr then some 0
  else if 0x17 ≤ e || swzBad then some 1
  else if (recSwz d != 0 && recRowstride d % pitch != 0) || (e < 0x14 && (recLstride d % es != 0 || recRowstride d % es != 0)) then
    some 2
  else none

/-- Row and element of an index (R65). -/
def idxRow (u : Nat) : Nat := fld u 40 24
def idxEl (u : Nat) : Nat := fld u 0 40

/-- What the swizzle makes of an offset within a row (R65). -/
def swizzle (d : BitVec 256) (r off : Nat) : Nat :=
  let p := recSwp d
  match recSwz d with
  | 1 => Nat.xor off (r % p * 32)
  | 2 => Nat.xor off (r % p * 16)
  | _ => off

/-- What is added to BASE for a row, an element and a lane (R65). -/
def recSum (d : BitVec 256) (r e lane : Nat) : Nat :=
  r * recRowstride d + swizzle d r (e * esize (recEfmt d)) + lane * recLstride d

/-- Out of extent for sz bytes (R66, R172). -/
def recOut (d : BitVec 256) (r e sz : Nat) : Bool :=
  decide (recExtent d ≤ e) || decide (recRows d ≤ r) || decide (recExtent d * esize (recEfmt d) < e * esize (recEfmt d) + sz)

/-- What an access needs of a record. -/
inductive Need where
  | load | store | atomic
  deriving DecidableEq, Repr, Inhabited

/-- Checks 1 to 3 of R67: cause and tinfo. -/
def recPerm (d : BitVec 256) (n : Need) : Option (Nat × Nat) :=
  let k := recKind d
  if 0x14 ≤ recEfmt d then some (cILLEGAL, 6)
  else if n ≠ .store ∧ (k = 2 ∨ k = 3) then some (cREMOTELOAD, k)
  else if n ≠ .store ∧ k = 0x10 then some (cTXWREAD, k)
  else if !(match n with | .load => recR d | .store => recW d | .atomic => recA d) then some (cRECORDPERM, recBehav d)
  else none

end Sys2Proof.Machine
end

