-- ==== Sys2Proof/Machine/Reach.lean ====
section
/-! DEFINITION. The lanes of one memory instruction: grouping by line, translation, the bytes that each lane reaches, and
parking for the lanes that cannot perform (spec/05_memory.md R67, R68, R72 to R78). -/

namespace Sys2Proof.Machine

/-! ## Bytes and lines -/

/-- Why lanes stay unfinished. -/
inductive Stop where
  | fault (host : Bool)
  | discard (host : Bool)
  | dirty (gpa : Nat)
  | corrupt
  deriving DecidableEq, Repr, Inhabited

/-- The 64-byte lines that n bytes touch. -/
def linesOf (a n : Nat) : List Nat := (List.range ((a + n - 1) / 64 - a / 64 + 1)).map (fun j => (a / 64 + j) * 64)

/-- Distinct numbers in ascending order. -/
def ascending (l : List Nat) : List Nat := l.foldl (fun t x => insAddr x t) []

/-- Translate lines in ascending order, each once (R68). -/
def State.xlatLines (s : State) (key : Nat) (a : Access) : List Nat → List (Nat × Xlat) × State
  | [] => ([], s)
  | l :: ls =>
    let (x, s) := s.translate key l a
    let (r, s) := s.xlatLines key a ls
    ((l, x) :: r, s)

/-- The outcome recorded for a line. -/
def xlatAt (r : List (Nat × Xlat)) (line : Nat) : Xlat :=
  match r.find? (fun e => e.1 == line) with
  | some e => e.2
  | none => .corrupt

/-- What stops an access at a line (R72, R74, R76). -/
def lineStop (wr : Bool) (x : Xlat) : Option Stop :=
  match x with
  | .ok _ _ none => none
  | .ok _ _ (some host) => if wr then some (.discard host) else none
  | .fault host _ => some (.fault host)
  | .corrupt => some .corrupt
  | .dirtyFull gpa => some (.dirty gpa)

/-- The byte that a physical address means through a record kind; none: a window that does not reach it (R275). -/
def State.byteAt (s : State) (vif kind pa : Nat) : Option Byt :=
  if kind = 0x10 then
    let e := Tab.get (s.vif vif).txw (fld pa 32 12)
    if txValid e && decide (pa % 2 ^ 32 ≤ txSize e) then some (.win e (pa % 2 ^ 32)) else none
  else if kind = 2 ∨ kind = 3 then some (.host pa)
  else some (.loc (locHbm pa))

/-- The bytes of an access whose lines are translated, or the first line that stops it. -/
def State.reachBytes (s : State) (vif kind : Nat) (wr : Bool) (r : List (Nat × Xlat)) : List Nat → Except (Nat × Stop) (List Byt)
  | [] => .ok []
  | a :: as =>
    let x := xlatAt r (lineOf a)
    match lineStop wr x with
    | some st => .error (lineOf a, st)
    | none =>
      match x with
      | .ok pa _ none =>
          match s.byteAt vif kind (pa + a % 64), s.reachBytes vif kind wr r as with
          | none, _ => .error (lineOf a, .fault true)
          | some b, .ok bs => .ok (b :: bs)
          | some _, .error e => .error e
      | _ =>
          match s.reachBytes vif kind wr r as with
          | .ok bs => .ok (.zero :: bs)
          | .error e => .error e

/-! ## Plans -/

/-- What the lanes of an instruction reach: those that can perform, ascending; those that stay unfinished, with the lowest
stopping line, or a line that met a corrupted table, and the discarded lines among those that stop them. -/
structure Plan where
  go   : List LanePlan := []
  todo : Mask := 0#32
  stop : Option (Nat × Stop) := none
  disc : List Nat := []
  deriving DecidableEq, Repr, Inhabited

/-- One more lane of a plan. -/
def Plan.add (p : Plan) (lane addr : Nat) (r : Except (Nat × Stop) (List Byt)) : Plan :=
  match r with
  | .ok bs => { p with go := p.go ++ [{ lane := lane, addr := addr, bytes := bs }] }
  | .error (l, st) =>
      { p with
        todo := p.todo ||| laneBit lane
        stop := match p.stop with
          | some (l', st') => if st' = .corrupt ∨ (l' ≤ l ∧ st ≠ .corrupt) then some (l', st') else some (l, st)
          | none => some (l, st)
        disc := match st with
          | .discard _ => p.disc ++ [l]
          | .fault _ | .dirty _ | .corrupt => p.disc }

/-- Virtual accesses of n bytes by lanes: translate every line once and plan each lane. -/
def State.planVirtual (s : State) (key kind : Nat) (n : Need) (lanes : List (Nat × Nat)) (sz : Nat) : Plan × State :=
  let wr := n != .load
  let a : Access := { rd := n != .store, wr := wr, ex := false, kind := kind }
  let lines := ascending (lanes.flatMap (fun e => linesOf e.2 sz))
  let (r, s) := s.xlatLines key a lines
  let vif := vifOf key
  (lanes.foldl (fun p e => p.add e.1 e.2 (s.reachBytes vif kind wr r ((List.range sz).map (e.2 + ·)))) {}, s)

/-- The locations of a lane. -/
def LanePlan.locs (p : LanePlan) : List Nat := p.bytes.filterMap (fun b => match b with
  | .loc x => some x
  | .zero | .host _ | .win .. => none)

/-- The unit address of a byte of a lane as software names it: the virtual line, or the scratch word (R163). -/
def LanePlan.unitAddr (p : LanePlan) (j : Nat) : Nat :=
  match p.bytes.getD j .zero with
  | .loc x => if isHbm x then lineOf (p.addr + j) else (p.addr + j) / 8 * 8
  | .zero | .host _ | .win .. => p.addr

/-- The lowest poisoned unit that a lane reads. -/
def LanePlan.poison (p : LanePlan) (m : MemSys) : Option Nat :=
  let bad := (List.range p.bytes.length).filter (fun j => match p.bytes.getD j .zero with
    | .loc x => m.poisoned x
    | .zero | .host _ | .win .. => false)
  (ascending (bad.map p.unitAddr)).head?

/-- The lanes of a plan that read poison, and the lowest unit (R78). -/
def Plan.poison (p : Plan) (m : MemSys) : Mask × Nat :=
  let bad := p.go.filterMap (fun l => (l.poison m).map (fun a => (l.lane, a)))
  (maskOf (bad.map Prod.fst), (ascending (bad.map Prod.snd)).headD 0)

/-- Lanes put back among the unfinished ones. -/
def Plan.hold (p : Plan) (m : Mask) : Plan :=
  { p with go := p.go.filter (fun l => !m.getLsbD l.lane), todo := p.todo ||| m }

/-- Some byte of a lane that can perform reaches nothing. -/
def Plan.zeroAt (p : Plan) (lane : Nat) : Bool := p.go.any (fun l => l.lane == lane && l.bytes.contains .zero)

/-- Lanes that can perform. -/
def Plan.lanes (p : Plan) : Mask := maskOf (p.go.map LanePlan.lane)

/-! ## Reading and writing a lane's bytes -/

/-- A lane's load: each byte from the lane's view, 0 where nothing is reached (R84). -/
def State.loadLane (s : State) (w g : Nat) (p : LanePlan) : Nat :=
  leNat (p.bytes.map (fun b => match b with
    | .loc x => s.ms.readByte (.lane w g p.lane) .thread x
    | .zero | .host _ | .win .. => 0#8))

/-- The latest writes of a lane's bytes, as an atomic reads them (R84). -/
def State.latestLane (s : State) (p : LanePlan) : Nat :=
  leNat (p.bytes.map (fun b => match b with
    | .loc x => Memory.read s.ms.mem x
    | .zero | .host _ | .win .. => 0#8))

/-- Bytes written for a workgroup by an agent of a class, in single-copy units of aligned blocks of n bytes (R92): poison marks of whole
units clear (R78), and bytes of HBM reach the code image of later launches when the workgroup's launch is over, at once if it is over already (R3,
logs 76 and 94). -/
def State.put (s : State) (w : Nat) (i : Inst) (c : PathClass) (n : Nat) (xs : List Nat) (bs : List Byte) : State :=
  let l := (s.wg w).launch
  s.modMs (fun m =>
    let m := ((m.write i c xs bs).tie n xs).clearWhole xs
    if (s.launch l).isOver then m.intoImage xs bs else m.ofLaunch l xs bs)

/-- A lane's store of its location bytes. -/
def State.storeLane (s : State) (w g : Nat) (p : LanePlan) (bs : List Byte) : State :=
  let l := (p.bytes.zip bs).filterMap (fun e => match e.1 with
    | .loc x => some (x, e.2)
    | .zero | .host _ | .win .. => none)
  if l.isEmpty then s
  else s.put w (.lane w g p.lane) .thread (accessUnit (l.map Prod.fst)) (l.map Prod.fst) (l.map Prod.snd)

/-! ## Ending an instruction that has unfinished lanes -/

/-- Park for the lanes that could not perform, or tear the context down (R70, R72, R74, R76). -/
def Issue.parkStop (c : Issue) (p : Plan) (wr : Bool) (s : State) : State :=
  match p.stop with
  | none => c.done s
  | some (line, st) =>
    match st with
    | .corrupt => s.teardownAt 8 c.wg c.gang c.pc p.todo
    | .fault host => c.parkFault p.todo (s.stageQueue c.wg host) 1 host wr (word line) s
    | .discard host =>
        let id := c.parkId s
        c.mod (c.parkFault p.todo (s.stageQueue c.wg host) 2 host wr (word line) s) (fun g =>
          { g with parks := g.parks.map (fun q => if q.id = id then { q with lines := p.disc } else q) })
    | .dirty gpa => c.parkDirty p.todo gpa s

/-- Some line of a plan met a corrupted table. -/
def Plan.corrupt (p : Plan) : Bool := match p.stop with
  | some (_, .corrupt) => true
  | _ => false

end Sys2Proof.Machine
end

