-- ==== Sys2Proof/Machine/Reflect.lean ====
section
/-! DEFINITION. The sender's side of reflection and of the host path: appending entries, outstanding counts, posted stores
(spec/07_ordering.md R86, R94, R100, spec/25_isa_fabric_system.md R275, spec/05_memory.md R80). -/

namespace Sys2Proof.Machine

/-! ## Counts (R83, R97) -/

/-- A(g, p) (R83). -/
def State.outCount (s : State) (w g path : Nat) : Nat :=
  (s.fab.outst.filter (fun o => o.wg == w && o.gang == g && o.path.toNat == path)).length

/-- Some reflected store numbered below a bound that satisfies a test is not acknowledged. -/
def State.owes (s : State) (bound : Nat) (p : Outstanding → Bool) : Bool := s.fab.outst.any (fun o => decide (o.id < bound) && p o)

/-- Whose stores an RFENCE counts: the gang (1), the workgroup (2), the context on this device (R97). -/
def State.mine (s : State) (w g scope : Nat) (o : Outstanding) : Bool :=
  match scope with
  | 1 => o.wg == w && o.gang == g
  | 2 => o.wg == w
  | _ => o.ctx == s.ctxKey w

/-! ## Appending (R94) -/

/-- The queue of a member of a window for a sender context and path. -/
def State.queueOf (s : State) (key : Nat) (e : BitVec 256) (path k : Nat) : QueueKey :=
  { sctx := s.ctxid key, path := BitVec.ofNat 2 path, pod := BitVec.ofNat 7 (s.txPod e), pkg := BitVec.ofNat 9 (txMember e k),
    rwin := BitVec.ofNat 12 (txRwin e) }

/-- Append one entry for each member of a window; the gang's count rises by one. -/
def State.reflect (s : State) (w g : Nat) (e : BitVec 256) (path woff : Nat) (bytes : List Byte) (ord : Bool) (org : Origin) :
    State :=
  let id := s.fab.nextId
  let key := s.ctxKey w
  let mems := List.range (txCount e)
  let ents : List Entry := mems.map (fun k =>
    { id := id, key := s.queueOf key e path k, member := k, kind := 1, woff := woff, bytes := bytes, unit := bytes.length,
      pmask := 0, rop := 0, ord := ord, org := org, gang := some (w, g), flow := none })
  s.modFab (fun f => { f with
    rq := f.rq ++ ents
    nextId := id + 1
    outst := f.outst ++ [{ id := id, wg := w, gang := g, ctx := key, path := BitVec.ofNat 2 path, left := mems }] })

/-- Runs of a lane's bytes that reach consecutive offsets of one window. -/
def winRuns (l : List (Byt × Byte)) : List (BitVec 256 × Nat × List Byte) :=
  l.foldl (fun (acc : List (BitVec 256 × Nat × List Byte)) p =>
    match p.1 with
    | .win e off =>
        match acc.getLast? with
        | some (e', o', bs) => if e' = e ∧ o' + bs.length = off then acc.dropLast ++ [(e', o', bs ++ [p.2])] else acc ++ [(e, off, [p.2])]
        | none => [(e, off, [p.2])]
    | .loc _ | .zero | .host _ => acc) []

/-- Runs of a lane's bytes at consecutive host addresses. -/
def hostRuns (l : List (Byt × Byte)) : List (Nat × List Byte) :=
  l.foldl (fun (acc : List (Nat × List Byte)) p =>
    match p.1 with
    | .host a =>
        match acc.getLast? with
        | some (o', bs) => if o' + bs.length = a then acc.dropLast ++ [(o', bs ++ [p.2])] else acc ++ [(a, [p.2])]
        | none => [(a, [p.2])]
    | .loc _ | .zero | .win .. => acc) []

/-- A lane's window store (R275). -/
def State.windowLane (s : State) (w g : Nat) (p : LanePlan) (path : Nat) (bs : List Byte) (ord : Bool) (org : Origin) : State :=
  (winRuns (p.bytes.zip bs)).foldl (fun s r => s.reflect w g r.1 path r.2.1 r.2.2 ord org) s

/-- The host port of an interface (vicfg.HPORT, R313, R317). -/
def State.hport (s : State) (vif : Nat) : Nat := fld (s.vreg vif 0x200).toNat 3 1

/-- A lane's posted store (R80): accepted by the host port in program order. -/
def State.hostLane (s : State) (w g : Nat) (p : LanePlan) (bs : List Byte) (pers : Bool) (org : Origin) : State :=
  (hostRuns (p.bytes.zip bs)).foldl (fun s r =>
    s.modPrim (fun x => { x with
      posted := x.posted ++ [{ id := x.nextPosted, wg := w, gang := g, lane := p.lane, addr := r.1, bytes := r.2, pers := pers,
                               ctx := s.ctxKey w, org := org, port := s.hport (vifOf (s.ctxKey w)) }]
      nextPosted := x.nextPosted + 1 })) s

/-- The origin entry of a word (R270): the WID of the lowest active lane. A replay names the entry that the word has written. -/
def Issue.origin (c : Issue) (s : State) : Origin × State :=
  match s.aux.cur.bind Cur.org with
  | some o => (o, s)
  | none =>
    let (o, s) := s.origin c.wg c.gang c.low c.pc
    (o, { s with aux := { s.aux with cur := s.aux.cur.map (fun x => { x with org := some o }) } })

/-! ## Release and acquire of a word (R86, R181) -/

def Issue.releases (c : Issue) : Bool := c.f.ordEff c.w / 2 == 1
def Issue.acquires (c : Issue) : Bool := c.f.ordEff c.w % 2 == 1
def Issue.scope (c : Issue) : Nat := c.f.scopeEff c.op c.w

/-- Whether the word is issued to replay unfinished lanes: what it waited for at its first issue is done. -/
def State.replaying (s : State) : Bool := match s.aux.cur with
  | some c => c.replay.isSome
  | none => false

/-- The accesses of the word in issue enter Q(t) and perform later (R85); a release at fab, which parks, performs when it issues. -/
def Issue.late (c : Issue) (s : State) : Bool :=
  (match s.aux.cur with
   | some x => x.late
   | none => false) && !(c.releases && c.scope == 6)

/-- Step 2 of the word's release; that of a word whose accesses perform later is theirs. -/
def Issue.release (c : Issue) (s : State) : State := if c.releases && !c.late s then s.releaseAll c.wg c.gang c.act c.scope else s

/-- A release at fab that must wait: an earlier reflected store of the gang is not acknowledged (R86). -/
def Issue.mustWait (c : Issue) (s : State) : Bool :=
  c.releases && c.scope == 6 && !s.replaying && s.owes s.fab.nextId (fun o => s.mine c.wg c.gang 1 o)

/-- The word's release, then what follows it; a release at fab parks while it waits. -/
def Issue.afterRelease (c : Issue) (k : State → State) (s : State) : State :=
  let s := c.release s
  if c.mustWait s then c.parkReplay c.act (.acks s.fab.nextId) s else k s

/-- The acquire of lanes that have read. -/
def Issue.acquire (c : Issue) (m : Mask) (s : State) : State := if c.acquires then s.acquireAll c.wg c.gang m c.scope else s

end Sys2Proof.Machine
end

