-- ==== Sys2Proof/Machine/Queue.lean ====
section
/-! DEFINITION. The program-order queues Q(t): what an access does when it performs, and which entries must perform before it
(spec/07_ordering.md R83 to R86, spec/15_isa_memory.md R167, R177 to R180). -/

namespace Sys2Proof.Machine

/-! ## Values (R167) -/

/-- Ext(x, TYPE). -/
def extend (ty x : Nat) : Word :=
  if 4 ≤ ty ∧ ty < 8 then BitVec.ofInt 64 (sextN (ewidth ty) x) else word (x % 2 ^ ewidth ty)

/-- The low bytes of a value. -/
def lowBytes (n : Nat) (x : Word) : List Byte := leBytes n x.toNat

/-! ## Atomic steps (R84, R177 to R180) -/

/-- One atomic step of a lane (R84): the old value, and the write unless there is none. -/
def State.atomicLane (s : State) (w g : Nat) (p : LanePlan) (f : Nat → Option Nat) : Nat × State :=
  if p.bytes.contains .zero then (0, s)
  else
    let x := s.latestLane p
    let s := s.modMs (fun m => m.seen (.lane w g p.lane) .thread p.locs)
    match f x with
    | none => (x, s)
    | some y => (x, s.storeLane w g p (leBytes p.bytes.length y))

/-- ATOM's new value (R177). -/
def atomNew (op ty sz x b : Nat) : Nat :=
  let n := 8 * sz
  let b := b % 2 ^ n
  let lesser := decide (readIn ty x ≤ readIn ty b)
  match op with
  | 0 => b
  | 1 => (x + b) % 2 ^ n
  | 2 => (x + 2 ^ n - b) % 2 ^ n
  | 3 => Nat.land x b
  | 4 => Nat.lor x b
  | 5 => Nat.xor x b
  | 6 => if lesser then x else b
  | 7 => if lesser then b else x
  | 8 => if b ≤ x then 0 else x + 1
  | _ => if x = 0 ∨ b < x then b else x - 1

/-- ATOMF's new value (R179): rounded to nearest even, no flag. -/
def atomfNew (op ty x b : Nat) : Nat :=
  let t := fmtOf ty
  match op with
  | 0 => (t.add 1 false x (b % 2 ^ ewidth ty)).bits
  | 1 => (t.pick false false x (b % 2 ^ ewidth ty)).bits
  | _ => (t.pick true false x (b % 2 ^ ewidth ty)).bits

/-- The value that an atomic writes, none when it writes none (R177 to R179). -/
def Rmw.write (r : Rmw) (x : Nat) : Option Nat :=
  match r with
  | .atom op ty sz b => some (atomNew op ty sz x b)
  | .cas expect new cmp bits => if x = expect % 2 ^ cmp then some (new % 2 ^ bits) else none
  | .atomf op ty b => some (atomfNew op ty x b)

/-! ## Entries that perform (R84, R86) -/

/-- A result of an entry reaches its register: in the trap bank when that has been exchanged since; with a latch entry in the run of its
word (R21, R22). -/
def Gang.arrive (g : Gang) (e : QEntry) (dst : Nat) (nw : Bool) (x : Word) : Gang :=
  if e.bank then (if nw then g else { g with bankV := Tab.set g.bankV (e.lane * 8 + (dst - 120)) x })
  else if e.run then g.result nw dst e.lane x
  else if nw then g
  else g.vSet e.lane dst x

/-- An access through an MX-unit has made its block and scale one unit (R93). -/
def State.tieAt (s : State) (xs : List Nat) : State := if xs.isEmpty then s else s.modMs (fun m => m.tieUnit xs)

/-- An entry performs: its release, its access, its acquire (R84, R86). -/
def State.performEntry (s : State) (w g : Nat) (e : QEntry) : State :=
  let s := match e.rel with
    | some scope => s.release w g e.lane scope
    | none => s
  let s := match e.act with
    | .load dst nw ty => s.modGang w g (fun x => x.arrive e dst nw (extend ty (s.loadLane w g e.plan)))
    | .store bytes tie => (s.storeLane w g e.plan bytes).tieAt tie
    | .host bytes pers org => s.hostLane w g e.plan bytes pers org
    | .window bytes path ord org => s.windowLane w g e.plan path bytes ord org
    | .rmw r dst nw ty =>
        let (x, s) := s.atomicLane w g e.plan r.write
        s.modGang w g (fun y => y.arrive e dst nw (extend ty x))
    | .rmwMx r dst nw scale tie =>
        let sc := s.latestLane scale
        let s := s.modMs (fun m => m.seen (.lane w g e.lane) .thread scale.locs)
        let (x, s) := s.atomicLane w g e.plan (fun x => r.write (x + 256 * sc))
        (s.tieAt tie).modGang w g (fun y => y.arrive e dst nw (word (x % 256 + 256 * sc)))
  match e.acq with
  | some scope => s.acquire w g e.lane scope
  | none => s

/-! ## What must perform first (R85) -/

/-- The bytes that an entry touches. -/
def QEntry.bytes (e : QEntry) : List Byt :=
  (match e.act with
   | .rmwMx _ _ _ scale tie => scale.bytes ++ tie.map .loc
   | .store _ tie => tie.map .loc
   | .load .. | .host .. | .window .. | .rmw .. => []) ++ e.plan.bytes.filter (· != .zero)

/-- An earlier entry must perform before a later one (R85): of one thread, when they touch a common byte, when the earlier is an acquire or
the later a release, and a reflected or posted store after another one (R94, R100); of one word, when they touch a common byte, and
lane by lane into queues (R168, R94). -/
def QEntry.before (a e : QEntry) : Bool :=
  let touch := e.bytes.any a.bytes.contains
  let queued := match a.act, e.act with
    | .window .., .window .. | .host .., .host .. => true
    | _, _ => false
  (a.lane == e.lane && (touch || a.acq.isSome || e.rel.isSome || queued)) || (a.num == e.num && (touch || queued))

/-- The entries that a test names, with those that must perform before one of them; and the others. -/
def needed (p : QEntry → Bool) : List QEntry → List QEntry × List QEntry
  | [] => ([], [])
  | e :: l =>
    let (now, rest) := needed p l
    if p e || now.any (fun x => e.before x) then (e :: now, rest) else (now, e :: rest)

/-- The entries of a gang that a test names perform, after those that must go before them. -/
def State.performWhere (s : State) (w g : Nat) (p : QEntry → Bool) : State :=
  if (s.gang w g).queue.isEmpty then s
  else
    let (now, rest) := needed p (s.gang w g).queue
    now.foldl (fun s e => s.performEntry w g e) (s.modGang w g (fun x => { x with queue := rest }))

/-- One entry performs, if none must perform before it (R85). -/
def State.performAt (s : State) (w g k : Nat) : State :=
  let q := (s.gang w g).queue
  match q[k]? with
  | none => s
  | some e => if (q.take k).any (fun a => a.before e) then s else (s.modGang w g (fun x => { x with queue := q.eraseIdx k })).performEntry w g e

/-! ## Entering the queue -/

/-- The entry of a lane of the word in issue. -/
def Issue.entry (c : Issue) (s : State) (l : LanePlan) (act : QAct) : QEntry :=
  { num := ((c.g s).queue.map QEntry.num).foldl Nat.max 0 + 1
    lane := l.lane
    plan := l
    act := act
    rel := if c.releases then some c.scope else none
    acq := if c.acquires then some c.scope else none
    run := !c.ends (endsRun c.op c.w) (c.g s) }

/-- The accesses of a word enter Q(t), lane by lane. -/
def Issue.defer (c : Issue) (p : Plan) (act : LanePlan → QAct) (s : State) : State :=
  let es := p.go.map (fun l => c.entry s l (act l))
  c.mod s (fun g => { g with queue := g.queue ++ es })

end Sys2Proof.Machine
end

