-- ==== Sys2Proof/Machine/Memory.lean ====
section
/-! DEFINITION. Loads, stores, buffer records and atomics (spec/15_isa_memory.md R164 to R180, spec/05_memory.md R57 to R78,
spec/25_isa_fabric_system.md R275). -/

namespace Sys2Proof.Machine

/-! ## Values (R167) -/

/-- Size of the word's access. -/
def Issue.sz (c : Issue) : Nat := esize c.w.type

/-- v results of lanes. -/
def Issue.results (c : Issue) (l : List (Nat × Word)) (s : State) : State :=
  c.mod s (fun g => g.putLanes c.w.nw c.w.dst.toNat (l.map (fun e => (e.1, .v e.2))))

/-! ## Scratch accesses by lanes (R59, R173) -/

/-- Lanes whose scratch access is a violation, and the lowest one's address. -/
def State.scrBad (s : State) (w lvl sz : Nat) (l : List (Nat × (Nat × Bool))) : Mask × Nat :=
  let bad := l.filter (fun e => s.scratchAt w lvl e.2 sz = .bad)
  (maskOf (bad.map Prod.fst), ((bad.map (fun e => e.2.1)).head?).getD 0)

/-- Lanes that reach a member without a region. -/
def State.scrVoid (s : State) (w lvl sz : Nat) (l : List (Nat × (Nat × Bool))) : Bool :=
  l.any (fun e => s.scratchAt w lvl e.2 sz = .void)

/-- The plan of scratch accesses. -/
def State.planScratch (s : State) (w lvl sz : Nat) (l : List (Nat × (Nat × Bool))) : Plan :=
  { go := l.map (fun e =>
      { lane := e.1, addr := e.2.1,
        bytes := match s.scratchAt w lvl e.2 sz with
          | .loc x => (locs x sz).map .loc
          | .void | .bad => List.replicate sz .zero }) }

/-! ## Accesses through a record -/

/-- A lane's row, element and what is added to BASE. -/
structure RecLane where
  lane : Nat
  idx  : Nat
  row  : Nat
  el   : Nat
  deriving DecidableEq, Repr, Inhabited

/-- The lanes of a mask with the indices they bring. -/
def recLanes (m : Mask) (idx : Nat → Word) : List RecLane :=
  (lanesOf m).map (fun i => { lane := i, idx := (idx i).toNat, row := idxRow (idx i).toNat, el := idxEl (idx i).toNat })

/-- Scratch address of a lane through a record. -/
def recScratch (d : BitVec 256) (lvl : Nat) (l : RecLane) : Nat × Bool := scratchAdv lvl (recBase d) (recSum d l.row l.el l.lane)

/-- Virtual address of a lane through a record. -/
def recVirtual (d : BitVec 256) (l : RecLane) : Nat := recBase d + recSum d l.row l.el l.lane

def RecLane.out (d : BitVec 256) (sz : Nat) (l : RecLane) : Bool := recOut d l.row l.el sz

/-- Checks 1 to 4 of R67, and the scratch checks of 5: cause, faulting lanes, tinfo. -/
def State.recTrap (s : State) (w : Nat) (d : BitVec 256) (n : Need) (sz : Nat) (act : Mask) (ls : List RecLane) :
    Option (Nat × Mask × Nat) :=
  match recPerm d n with
  | some (cause, tinfo) => some (cause, act, tinfo)
  | none =>
    let outs := ls.filter (RecLane.out d sz)
    if recOobt d ∧ outs ≠ [] then some (cBOUND, maskOf (outs.map RecLane.lane), ((outs.map RecLane.idx).head?).getD 0)
    else
      match kindLevel (recKind d) with
      | none => none
      | some lvl =>
        let ins := (ls.filter (fun l => !RecLane.out d sz l)).map (fun l => (l.lane, recScratch d lvl l))
        let (bad, addr) := s.scrBad w lvl sz ins
        if bad ≠ 0#32 then some (scrCause lvl, bad, addr) else none

/-- The plan of the in-extent lanes, with warns.BOUND where R59 and R66 set it. -/
def Issue.planRecord (c : Issue) (d : BitVec 256) (n : Need) (sz : Nat) (ls : List RecLane) (s : State) : Plan × State :=
  let ins := ls.filter (fun l => !RecLane.out d sz l)
  let s := if ins.length < ls.length then c.warn wBOUND s else s
  match kindLevel (recKind d) with
  | some lvl =>
      let l := ins.map (fun x => (x.lane, recScratch d lvl x))
      (s.planScratch c.wg lvl sz l, if s.scrVoid c.wg lvl sz l then c.warn wBOUND s else s)
  | none => s.planVirtual (c.key s) (recKind d) n (ins.map (fun x => (x.lane, recVirtual d x))) sz

/-- Check 6 of R67: a trap when every lane translated; otherwise the poisoned lanes stay unfinished. -/
def Issue.poisonCheck (c : Issue) (p : Plan) (k : Plan → State → State) (s : State) : State :=
  let (bad, addr) := p.poison s.ms
  if bad = 0#32 then k p s
  else if p.stop.isNone then c.trap cPOISON bad (word addr) s
  else k (p.hold bad) s

/-- dN of an address field (R165). -/
def afDn (f : BitVec 8) : Nat := f.toNat % 16
def afMode (f : BitVec 8) : Nat := f.toNat / 64
def afOfs (f : BitVec 8) : Nat := f.toNat % 64

/-! ## LDB and STB (R172, R275) -/

/-- LDB (R172). -/
def execLdb (w : FullWord) (s : State) : Host.Outcome State Fault Refusal :=
  runWord 0xA2 w s (fun c s =>
    let g := c.g s
    let d := g.dGet (afDn w.sc)
    let ls := recLanes c.act (c.srcA g)
    match s.recTrap c.wg d .load c.sz c.act ls with
    | some (cause, m, tinfo) => c.trap cause m (word tinfo) s
    | none =>
      let (p, s) := c.planRecord d .load c.sz ls s
      if p.corrupt then c.parkStop p false s
      else
        c.poisonCheck p (fun p s =>
          let outs := (ls.filter (RecLane.out d c.sz)).map (fun l => (l.lane, (0 : Word)))
          let vals := p.go.map (fun l => (l.lane, extend w.type (s.loadLane c.wg c.gang l)))
          if c.late s ∧ p.stop.isNone then c.done (c.defer p (fun _ => .load w.dst.toNat w.nw w.type) (c.results outs s))
          else c.parkStop p false (c.acquire p.lanes (c.results (outs ++ vals) s))) s)

/-- The linked record of an MX record: LV, LDN, and an EFMT of .b8 or .n8 (R227). -/
def Gang.scaleRec (g : Gang) (d : BitVec 256) : Option (BitVec 256) :=
  let ix := recScaleix d
  let l := g.dGet (ix % 16)
  if ix / 2 ^ 15 % 2 = 1 ∧ (recEfmt l = 0 ∨ recEfmt l = 8) then some l else none

/-- The location of one byte that a record's row and element name for a lane, if it can be told without a fault. -/
def State.recLoc (s : State) (w : Nat) (d : BitVec 256) (l : RecLane) : Option Nat :=
  match kindLevel (recKind d) with
  | some lvl =>
      (match s.scratchAt w lvl (recScratch d lvl l) 1 with
       | .loc x => some x
       | .void | .bad => none)
  | none =>
      if recKind d = 1 ∨ recKind d = 0x11 then
        (s.peek (s.ctxKey w) (recVirtual d l) { rd := true, wr := false, kind := recKind d }).map locHbm
      else none

/-- The locations of the MX block of an element with its scale (R93). -/
def State.mxUnit (s : State) (w : Nat) (g : Gang) (d : BitVec 256) (l : RecLane) : List Nat :=
  (List.range 32).filterMap (fun j => s.recLoc w d { l with el := l.el / 32 * 32 + j }) ++
  (match g.scaleRec d with
   | some sd => (s.recLoc w sd { l with el := l.el / 32 }).toList
   | none => [])

/-- The same for a lane of a word. -/
def State.mxLane (s : State) (w : Nat) (g : Gang) (d : BitVec 256) (ls : List RecLane) (lane : Nat) : List Nat :=
  match ls.find? (fun l => l.lane == lane) with
  | some l => s.mxUnit w g d l
  | none => []

/-- A write through an MX-unit access has made its block and scale one unit (R93). -/
def State.tieMx (s : State) (w : Nat) (g : Gang) (d : BitVec 256) (ls : List RecLane) (lane : Nat) : State :=
  s.tieAt (s.mxLane w g d ls lane)

/-- Accesses through a record of an MX format with MXU = 1 are MX-unit accesses (R63, R93). -/
def recIsMx (d : BitVec 256) : Bool := recMxu d && (recEfmt d == 0x12 || recEfmt d == 0x13)

/-- Path of a window store: named by the word, or the record's (R275). -/
def Issue.path (c : Issue) (d : BitVec 256) : Nat := if fld c.w.xb 6 1 = 1 then fld c.w.xb 4 2 else recPath d

/-- The stores of a plan's lanes enter Q(t) (R85). -/
def Issue.storeLater (c : Issue) (d : BitVec 256) (val : Nat → Word) (p : Plan) (s : State) : State :=
  let g := c.g s
  let k := recKind d
  let bytes := fun (l : LanePlan) => lowBytes c.sz (val l.lane)
  if p.go.isEmpty then s
  else if k = 0x10 then
    let (org, s) := c.origin s
    c.defer p (fun l => .window (bytes l) (c.path d) (fld c.w.xb 7 1 == 1) org) s
  else if k = 2 ∨ k = 3 then
    let (org, s) := c.origin s
    c.defer p (fun l => .host (bytes l) (k == 3) org) s
  else
    c.defer p (fun l => .store (bytes l) (if recIsMx d then s.mxLane c.wg g d (recLanes c.act (c.srcA g)) l.lane else [])) s

/-- The stores of a plan's lanes, ascending: into memory, a window, or the host path. -/
def Issue.storeAll (c : Issue) (d : BitVec 256) (val : Nat → Word) (p : Plan) (s : State) : State :=
  let k := recKind d
  if p.go.isEmpty then s
  else if k = 0x10 then
    let (org, s) := c.origin s
    p.go.foldl (fun s l => s.windowLane c.wg c.gang l (c.path d) (lowBytes c.sz (val l.lane)) (fld c.w.xb 7 1 == 1) org) s
  else if k = 2 ∨ k = 3 then
    let (org, s) := c.origin s
    p.go.foldl (fun s l => s.hostLane c.wg c.gang l (lowBytes c.sz (val l.lane)) (k == 3) org) s
  else p.go.foldl (fun s l =>
    let s := s.storeLane c.wg c.gang l (lowBytes c.sz (val l.lane))
    if recIsMx d then s.tieMx c.wg (c.g s) d (recLanes c.act (c.srcA (c.g s))) l.lane else s) s

/-- STB through a record (R172, R275). -/
def Issue.stb (c : Issue) (s : State) : State :=
  let g := c.g s
  let d := g.dGet (afDn c.w.sc)
  let ls := recLanes c.act (c.srcA g)
  let s := if recKind d ≠ 0x10 ∧ 64 ≤ c.w.xb then c.warn wIGN s else s
  match s.recTrap c.wg d .store c.sz c.act ls with
  | some (cause, m, tinfo) => c.trap cause m (word tinfo) s
  | none =>
    c.afterRelease (fun s =>
      let (p, s) := c.planRecord d .store c.sz ls s
      if p.corrupt then c.parkStop p true s
      else if c.late s ∧ p.stop.isNone then c.done (c.storeLater d (fun i => c.srcB g 64 i) p s)
      else c.parkStop p true (c.storeAll d (fun i => c.srcB g 64 i) p s)) s

/-- STB (R172). -/
def execStb (w : FullWord) (s : State) : Host.Outcome State Fault Refusal := runWord 0xA3 w s Issue.stb

/-- STB_WINDOW: the STB of a record of kind 0x10 (R275). -/
def execStbWindow (w : FullWord) (s : State) : Host.Outcome State Fault Refusal := runWord 0xA3 w s Issue.stb

/-! ## LDS and STS (R173) -/

/-- The lanes' scratch addresses: vA with OFFSET advanced by the sign-extended imm16. -/
def Issue.scrLanes (c : Issue) (g : Gang) (lvl : Nat) : List (Nat × (Nat × Bool)) :=
  (lanesOf c.act).map (fun i => (i, scratchAdv lvl (c.srcA g i).toNat c.w.imm16.toInt))

/-- Loads of scratch lanes after their checks. -/
def Issue.ldsWith (c : Issue) (k : List (Nat × Word) → Plan → State → State) (s : State) : State :=
  let g := c.g s
  let lvl := c.w.xb % 4
  let l := c.scrLanes g lvl
  let (bad, addr) := s.scrBad c.wg lvl c.sz l
  if bad ≠ 0#32 then c.trap (scrCause lvl) bad (word addr) s
  else
    let p := s.planScratch c.wg lvl c.sz l
    let s := if s.scrVoid c.wg lvl c.sz l then c.warn wBOUND s else s
    c.poisonCheck p (fun p s => k (p.go.map (fun l => (l.lane, extend c.w.type (s.loadLane c.wg c.gang l)))) p s) s

/-- LDS (R173). -/
def execLds (w : FullWord) (s : State) : Host.Outcome State Fault Refusal :=
  runWord 0xA4 w s (fun c s => c.ldsWith (fun vals p s =>
    c.done (if c.late s then c.defer p (fun _ => .load w.dst.toNat w.nw w.type) s else c.acquire p.lanes (c.results vals s))) s)

/-- The checks of a scratch store, then what follows them. -/
def Issue.stsWith (c : Issue) (k : List (Nat × (Nat × Bool)) → State → State) (s : State) : State :=
  let lvl := c.w.xb % 4
  let l := c.scrLanes (c.g s) lvl
  let (bad, addr) := s.scrBad c.wg lvl c.sz l
  if bad ≠ 0#32 then c.trap (scrCause lvl) bad (word addr) s
  else k l (if s.scrVoid c.wg lvl c.sz l then c.warn wBOUND s else s)

/-- Scratch stores of lanes: the low bytes of vD. -/
def Issue.stsPut (c : Issue) (g : Gang) (l : List (Nat × (Nat × Bool))) (s : State) : State :=
  (s.planScratch c.wg (c.w.xb % 4) c.sz l).go.foldl
    (fun s x => s.storeLane c.wg c.gang x (lowBytes c.sz (g.vGet x.lane c.w.dst.toNat))) s

/-- The same into Q(t) (R85). -/
def Issue.stsLater (c : Issue) (g : Gang) (l : List (Nat × (Nat × Bool))) (s : State) : State :=
  c.defer (s.planScratch c.wg (c.w.xb % 4) c.sz l) (fun x => .store (lowBytes c.sz (g.vGet x.lane c.w.dst.toNat)) []) s

/-- STS (R173). -/
def execSts (w : FullWord) (s : State) : Host.Outcome State Fault Refusal :=
  runWord 0xA5 w s (fun c s => c.stsWith (fun l s => c.afterRelease (fun s =>
    c.done (if c.late s then c.stsLater (c.g s) l s else c.stsPut (c.g s) l s)) s) s)

/-! ## LDC (R174) -/

/-- One lane of LDC: the value, or out of range. -/
def Issue.ldcLane (c : Issue) (x : Launch) (g : Gang) (i : Nat) : LaneOut :=
  let o : Int := (c.srcA g i).toNat + c.w.imm16.toInt
  if o < 0 ∨ (hdrArglen x.hdr : Int) < o + c.sz then { val := some 0, warns := wBOUND }
  else .v (extend c.w.type (leNat ((x.args.drop o.toNat).take c.sz)))

/-- LDC (R174). -/
def execLdc (w : FullWord) (s : State) : Host.Outcome State Fault Refusal :=
  runWord 0xA6 w s (fun c s => c.commit (c.ldcLane (s.launch (s.wg c.wg).launch) (c.g s)) s)

/-! ## DLD and DMOD (R170, R171) -/

/-- A record as a d register holds it: the reserved bits of BEHAV read 0 (R6, R63). -/
def recClean (d : BitVec 256) : BitVec 256 := recPut d 3 7 9 0

/-- DLD (R170): an acquire by every active lane's thread (R86, R135). Through a record over a member without a region it reads a record of
zeros, whose KIND traps (R59, R64, log 96). -/
def execDld (w : FullWord) (s : State) : Host.Outcome State Fault Refusal :=
  runWord 0xA0 w s (fun c s =>
    let g := c.g s
    let s := c.uniform (fun i => [c.srcA g i]) s
    let d := g.dGet (afDn w.sc)
    let l : RecLane := (recLanes (laneBit c.low) (c.srcA g)).headD default
    match recPerm d .load with
    | some (cause, tinfo) => c.trapAct cause tinfo s
    | none =>
      if recRows d ≤ l.row ∨ recExtent d * esize (recEfmt d) < l.el * esize (recEfmt d) + 32 then c.trapAct cBOUND l.idx s
      else
        match s.recTrap c.wg (recPut d 3 3 1 0) .load 32 (laneBit c.low) [l] with
        | some (cause, _, tinfo) => c.trapAct cause tinfo s
        | none =>
          let (p, s) := c.planRecord d .load 32 [l] s
          -- a park parks the whole split and replays for every active lane
          let p := if p.todo = 0#32 then p else { p with todo := c.act }
          if p.stop.isSome then c.parkStop p false s
          else
            let (bad, addr) := p.poison s.ms
            if bad ≠ 0#32 then c.trapAct cPOISON addr s
            else
              let rec' := BitVec.ofNat 256 (match p.go with
                | q :: _ => s.loadLane c.wg c.gang q
                | [] => 0)
              match recCheck rec' with
              | some k => c.trapAct cBADRECORD k s
              | none =>
                c.done (c.acquire c.act (c.mod s (fun g => { g with d := Tab.set g.d (c.dstName 4) (recClean rec') }))))

/-- DMOD's field: word, lowest bit, bits (R171). -/
def dmodField (f : Nat) : Nat × Nat × Nat :=
  match f with
  | 0 => (0, 56, 8)
  | 1 | 2 => (0, 0, 56)
  | 3 => (1, 60, 4)
  | 4 => (1, 48, 12)
  | 5 => (1, 40, 8)
  | 6 => (1, 0, 40)
  | 7 => (2, 32, 32)
  | 8 => (2, 0, 32)
  | 9 => (3, 32, 32)
  | 10 => (3, 16, 16)
  | _ => (3, 0, 16)

/-- DMOD (R171). -/
def execDmod (w : FullWord) (s : State) : Host.Outcome State Fault Refusal :=
  runWord 0xA1 w s (fun c s =>
    let g := c.g s
    let s := c.uniform (fun i => [c.srcA g i]) s
    let f := w.xb % 16
    let (wd, lo, n) := dmodField f
    let a := (c.srcA g c.low).toNat
    let old := g.dGet (nameOf w.sb 4)
    let s := if f ≠ 2 ∧ 2 ^ n ≤ a then c.warn wFIELD s else s
    let base : Int := recBase old + sextN 64 a
    if f = 2 ∧ (base < 0 ∨ (2 ^ 56 : Nat) ≤ base) then c.trapAct cBADRECORD 0 s
    else
      let d := recPut old wd lo n (if f = 2 then base.toNat else a)
      match recCheck d with
      | some k => c.trapAct cBADRECORD k s
      | none => c.done (c.mod s (fun g => { g with d := Tab.set g.d (c.dstName 4) (recClean d) })))

/-! ## Atomics (R177 to R180) -/

/-- The lanes of an atomic step by step, ascending (R168). -/
def Issue.atomics (c : Issue) (p : Plan) (f : Nat → Nat → Option Nat) (s : State) : List (Nat × Nat) × State :=
  p.go.foldl (fun (acc : List (Nat × Nat) × State) l =>
    let (x, s) := acc.2.atomicLane c.wg c.gang l (f l.lane)
    (acc.1 ++ [(l.lane, x)], s)) ([], s)

/-- An atomic word on a type of 1 to 8 bytes: r is what a lane makes of the old value. -/
def Issue.atom (c : Issue) (r : Gang → Nat → Rmw) (s : State) : State :=
  let g := c.g s
  let f := fun (i : Nat) => (r g i).write
  let out := fun (x : Nat) => extend c.w.type x
  let finish := fun (outs : List (Nat × Word)) (p : Plan) (s : State) =>
    c.poisonCheck p (fun p s =>
      if c.late s ∧ p.stop.isNone then
        c.done (c.defer p (fun l => .rmw (r g l.lane) c.w.dst.toNat c.w.nw c.w.type) (c.results outs s))
      else
        let (xs, s) := c.atomics p f s
        c.parkStop p true (c.acquire p.lanes (c.results (outs ++ xs.map (fun e => (e.1, out e.2))) s))) s
  match afMode c.w.sc with
  | 0 =>
      let d := g.dGet (afDn c.w.sc)
      let ls := recLanes c.act (c.srcA g)
      match s.recTrap c.wg d .atomic c.sz c.act ls with
      | some (cause, m, tinfo) => c.trap cause m (word tinfo) s
      | none =>
        c.afterRelease (fun s =>
          let (p, s) := c.planRecord d .atomic c.sz ls s
          if p.corrupt then c.parkStop p true s
          else finish ((ls.filter (RecLane.out d c.sz)).map (fun l => (l.lane, 0))) p s) s
  | lvl =>
      let l := (lanesOf c.act).map (fun i => (i, scratchAdv lvl (c.srcA g i).toNat (afOfs c.w.sc * c.sz)))
      let (bad, addr) := s.scrBad c.wg lvl c.sz l
      if bad ≠ 0#32 then c.trap (scrCause lvl) bad (word addr) s
      else
        let s := if s.scrVoid c.wg lvl c.sz l then c.warn wBOUND s else s
        c.afterRelease (fun s => finish [] (s.planScratch c.wg lvl c.sz l) s) s

/-- Two plans of the same lanes: a lane performs when both do. -/
def Plan.both (p q : Plan) : Plan :=
  let p := p.hold (q.todo &&& p.lanes)
  { p with
    todo := p.todo ||| q.todo
    stop := match p.stop, q.stop with
      | some (a, x), some (b, y) => if x = .corrupt ∨ (a ≤ b ∧ y ≠ .corrupt) then some (a, x) else some (b, y)
      | none, y => y
      | x, none => x
    disc := p.disc ++ q.disc }

/-- An atomic on an MX type (R180): the element with its block's scale in one step. -/
def Issue.atomMx (c : Issue) (r : Gang → Nat → Rmw) (s : State) : State :=
  let g := c.g s
  let f := fun (i : Nat) => (r g i).write
  let d := g.dGet (afDn c.w.sc)
  if recEfmt d ≠ 0x12 ∧ recEfmt d ≠ 0x13 then c.trapAct cILLEGAL 6 s
  else
    let ls := recLanes c.act (c.srcA g)
    match s.recTrap c.wg d .atomic 1 c.act ls with
    | some (cause, m, tinfo) => c.trap cause m (word tinfo) s
    | none =>
      match g.scaleRec d with
      | none => c.trapAct cBADRECORD 3 s
      | some sd =>
        let ins := ls.filter (fun l => !RecLane.out d 1 l)
        let ss := ins.map (fun l => { l with el := l.el / 32 })
        match s.recTrap c.wg sd .load 1 c.act ss with
        | some (cause, m, tinfo) => c.trap cause m (word tinfo) s
        | none =>
          c.afterRelease (fun s =>
            let (p, s) := c.planRecord d .atomic 1 ls s
            let (q, s) := c.planRecord sd .load 1 ss s
            let b := p.both q
            if b.corrupt then c.parkStop b true s
            else
              let (badP, addrP) := p.poison s.ms
              let (badQ, addrQ) := q.poison s.ms
              let bad := badP ||| badQ
              if bad ≠ 0#32 ∧ b.stop.isNone then
                c.trap cPOISON bad (word (if badP = 0#32 then addrQ else if badQ = 0#32 then addrP else Nat.min addrP addrQ)) s
              else
                let b := b.hold (bad &&& b.lanes)
                let scale := fun (i : Nat) => match q.go.find? (fun l => l.lane == i) with
                  | some l => s.latestLane l
                  | none => 0
                -- a lane whose element or scale lies in a member without a region returns 0 and writes nothing (R59)
                let void := fun (i : Nat) => p.zeroAt i || ((kindLevel (recKind sd)).isSome && q.zeroAt i)
                let (gone, go) := b.go.partition (fun l => void l.lane)
                let outs := ((ls.filter (RecLane.out d 1)).map RecLane.lane ++ gone.map LanePlan.lane).map (fun i => (i, (0 : Word)))
                if c.late s ∧ b.stop.isNone then
                  c.done (c.defer { b with go := go } (fun l => .rmwMx (r g l.lane) c.w.dst.toNat c.w.nw
                    ((q.go.find? (fun x => x.lane == l.lane)).getD default) (s.mxLane c.wg g d ls l.lane)) (c.results outs s))
                else
                  -- each lane has read its scale too, and the block with its scale is one unit
                  let s := q.go.foldl (fun s l => if b.lanes.getLsbD l.lane && !void l.lane then
                    s.modMs (fun m => m.seen (.lane c.wg c.gang l.lane) .thread l.locs) else s) s
                  let (xs, s) := c.atomics { b with go := go } (fun i x => f i (x + 256 * scale i)) s
                  let s := go.foldl (fun s l => s.tieMx c.wg g d ls l.lane) s
                  let vals := xs.map (fun e => (e.1, word (e.2 % 256 + 256 * scale e.1)))
                  c.parkStop b true (c.acquire b.lanes (c.results (outs ++ vals) s))) s

/-- ATOM (R177, R180). -/
def execAtom (w : FullWord) (s : State) : Host.Outcome State Fault Refusal :=
  runWord 0xA8 w s (fun c s =>
    let r := fun (g : Gang) (i : Nat) => Rmw.atom (w.xb % 16) c.ty c.sz (c.srcB g 64 i).toNat
    if 18 ≤ w.type then c.atomMx r s else c.atom r s)

/-- CAS (R178, R180). -/
def execCas (w : FullWord) (s : State) : Host.Outcome State Fault Refusal :=
  runWord 0xA9 w s (fun c s =>
    let r := fun (g : Gang) (i : Nat) =>
      Rmw.cas (g.vGet i w.dst.toNat).toNat (c.srcB g 64 i).toNat (if 18 ≤ w.type then 16 else 8 * c.sz) (8 * c.sz)
    if 18 ≤ w.type then c.atomMx r s else c.atom r s)

/-- ATOMF (R179). -/
def execAtomf (w : FullWord) (s : State) : Host.Outcome State Fault Refusal :=
  runWord 0xAA w s (fun c s =>
    c.atom (fun g i => .atomf (w.xb % 16) w.type (c.srcB g 64 i).toNat) s)

end Sys2Proof.Machine
end

