-- ==== Sys2Proof/Machine/Pair.lean ====
section
/-! DEFINITION. Pair words (spec/11_encoding.md R125 to R130). -/

namespace Sys2Proof.Machine

/-- The issue of a half: the full-format word it performs as (R128), with the half's own guard. -/
def Issue.half (c : Issue) (f : HalfForm) (h : Half) (src : BitVec 8) (s : State) : Issue :=
  let w := f.word h src
  { c with
    op := f.op, w := w, f := (form f.op w).getD default
    act := (c.g s).guard c.lanes w.gp.toNat false }

/-- One lane of a half that does not access memory (R127). -/
def Issue.halfLane (c : Issue) (g : Gang) (i : Nat) : LaneOut :=
  match c.op with
  | 0x10 => c.cmpLane g i
  | 0x11 => c.plopLane g i
  | 0x12 => c.pmovLane g i
  | 0x20 => .v (c.movLane g i)
  | 0x21 => .v (c.moviLane g i)
  | 0x22 => .v (c.addLane g i)
  | 0x24 => .v (c.subLane g i)
  | 0x26 => .v (c.mulLane g i)
  | 0x2B => .v (if c.w.sop = 0 then c.minLane g i else c.maxLane g i)
  | 0x2C => .v (if c.w.sop = 0 then c.absLane g i else c.negLane g i)
  | 0x2D => .v (c.andLane g i)
  | 0x2E => .v (c.orLane g i)
  | 0x2F => .v (c.xorLane g i)
  | 0x30 => .v (c.andnLane g i)
  | 0x31 => .v (c.notLane g i)
  | 0x32 => .v (c.shlLane g i)
  | 0x33 => .v (c.shrLane g i)
  | 0x34 => .v (c.sarLane g i)
  | 0x35 => .v (c.rotLane g i)
  | 0x37 => .v (match c.w.sop with
    | 0 => c.popcLane g i
    | 1 => c.clzLane g i
    | _ => c.ctzLane g i)
  | 0x3A => .v (c.selLane g i)
  | _ => {}

/-- A half reads its sources and makes its checks; k goes on with its results and its stores. A trap ends the word. -/
def Issue.runHalf (c : Issue) (k : List (Nat × LaneOut) → (State → State) → State → State) (s : State) : State :=
  if c.act = 0#32 then k [] id s
  else
    match c.op with
    | 0xA4 => c.ldsWith (fun vals _ s => k (vals.map (fun e => (e.1, .v e.2))) id s) s
    | 0xA5 =>
        let g := c.g s
        c.stsWith (fun l s => k [] (c.stsPut g l) s) s
    | _ =>
        let g := c.g s
        k ((lanesOf c.act).map (fun i => (i, c.halfLane g i))) id s

/-- The two halves of a legal pair word (R128): both read before either writes, half A's results come first. -/
def Issue.runPair (c a b : Issue) (s : State) : State :=
  a.runHalf (fun outA putA s =>
    b.runHalf (fun outB putB s =>
      let s := c.mod s (fun g => (g.putLanes false a.w.dst.toNat outA).putLanes false b.w.dst.toNat outB)
      c.done (putB (putA s))) s) s

/-- Checks 1 to 5 of R124 on a pair word, then its halves. A NOP half sets no warns bit (R122, R132: any except NOP). -/
def Issue.pairChecks (c : Issue) (w : PairWord) (s : State) : State :=
  match halfForm w.a.hop.toNat, halfForm w.b.hop.toNat with
  | some fa, some fb =>
      if fa.badSrc w.a false || fb.badSrc w.b true then c.trapSplit cILLEGAL 2 s
      else if pairBroken fa fb w then c.trapSplit cILLEGAL 3 s
      else
        match s.regBad c.wg c.gang (fa.regs w.a ++ fb.regs w.b) with
        | some r => c.trapSplit cREGRANGE r s
        | none =>
          let a := c.half fa w.a w.srcA s
          let b := c.half fb w.b w.srcB s
          let s := if w.a.hop != 0 && fa.stray w.a && a.act != 0#32 then c.warn wFIELD s else s
          let s := if w.b.hop != 0 && fb.stray w.b && b.act != 0#32 then c.warn wFIELD s else s
          c.runPair a b s
  | _, _ => c.trapSplit cILLEGAL 1 s

/-- PAIR (R125 to R130). -/
def execPair (w : PairWord) (s : State) : Host.Outcome State Fault Refusal :=
  let u : FullWord := { h := w.h, gp := 0, gi := false, nw := false, dst := 0, sa := 0, sb := 0, sc := 0, mod := 0 }
  match s.issue 0 u with
  | none => .fault .noIssuer
  | some c => .next ((c.pairChecks w s).settleGang c.wg c.gang)

end Sys2Proof.Machine
end

