-- ==== Sys2Proof/Machine/Xfer.lean ====
section
/-! DEFINITION. What the transfers of an Iris have in common: their single-copy units, the bytes read and still to be written
(spec/07_ordering.md R90, R92, R93, spec/21_claims.md R240). -/

namespace Sys2Proof.Machine

/-- What a byte of a transfer belongs to as one unit: 0, the 64-byte unit of R92 in which a location lies; 1, an MX block of the end of
the transfer that is read or written (R93). -/
abbrev Tag := Nat × Nat × Nat
def lineTag (x : Nat) : Tag := (0, x / 8 / 64, x % 8)

/-- The tags of what a byte reaches. -/
def Byt.tags (b : Byt) : List Tag :=
  match b with
  | .loc x => [lineTag x]
  | .host a => [lineTag (locHost a)]
  | .zero | .win .. => []

/-- One more byte among the units of a transfer: those that share a tag with it are one unit. -/
def joinUnit (b : Nat) (ts : List Tag) (us : List (List Nat × List Tag)) : List (List Nat × List Tag) :=
  let hit := us.filter (fun u => u.2.any ts.contains)
  (b :: hit.flatMap Prod.fst, (ts ++ hit.flatMap Prod.snd).eraseDups) :: us.filter (fun u => !u.2.any ts.contains)

/-- The single-copy units of some bytes of a transfer (R92, R93), in the order of their first bytes. -/
def unitsOf (tags : Nat → List Tag) (bs : List Nat) : List (List Nat) :=
  (bs.foldr (fun b us => joinUnit b (tags b) us) []).map Prod.fst

/-- Iris reads one of the units that are left, within the turns that the transfer has had (R240). -/
def Xfer.readUnit (x : Xfer) (k : Nat) (val : Nat → Byte × Bool) : Xfer :=
  match x.reads[k]? with
  | none => x
  | some u =>
    if x.quota ≤ x.got.length then x
    else { x with reads := x.reads.eraseIdx k, got := u.foldl (fun t b => Tab.set t b (some (val b))) x.got }

/-- The values of a unit that is left to be written, once every source byte it takes has been read. -/
def Xfer.unitVals (x : Xfer) (k : Nat) (val : (Nat → Option (Byte × Bool)) → Nat → Option (Byte × Bool)) :
    Option (List (Nat × Byte × Bool)) :=
  match x.writes[k]? with
  | none => none
  | some u => u.mapM (fun b => (val (Tab.get x.got) b).map (fun v => (b, v)))

/-- A unit has been written. -/
def Xfer.wrote (x : Xfer) (k : Nat) : Xfer := { x with writes := x.writes.eraseIdx k }

/-- The bytes of one turn of an Iris (R240). -/
def turnBytes : Nat := 4096

end Sys2Proof.Machine
end

