-- ==== Sys2Proof/Machine/Sync.lean ====
section
/-! DEFINITION. Fences, barriers, waits and tile moves (spec/15_isa_memory.md R175, R176, R181 to R189, spec/07_ordering.md R86,
R89 to R91, R100, R101, spec/01_work.md R27 to R30, spec/05_memory.md R79). -/

namespace Sys2Proof.Machine

/-! ## Waits in force -/

/-- A park of a resident gang, unless a trap or a diversion has set it aside (R296). -/
def State.waiting (s : State) (w g id : Nat) : Option Park :=
  if (s.wg w).status = .running then (s.gang w g).parkOf id else none

/-- Write a predicate in the active lanes of a park and go on at the next word. -/
def State.finishWait (s : State) (w g : Nat) (p : Park) (pd : BitVec 3) (x : Nat → Bool) : State :=
  (s.modGang w g (fun y =>
    ((lanesOf p.act).foldl (fun y i => y.pSet i pd.toNat (x i)) y).continue p s.cycle)).settleGang w g

/-- Continue a park at the next word. -/
def State.continueAt (s : State) (w g : Nat) (p : Park) : State := (s.modGang w g (fun y => y.continue p s.cycle)).settleGang w g

/-- Replay a park (R72). -/
def State.replayAt (s : State) (w g : Nat) (p : Park) : State := (s.modGang w g (fun y => y.replay p s.cycle)).settleGang w g

/-- A parked split traps at its word (R73). -/
def State.trapAt (s : State) (w g : Nat) (p : Park) (cause : Nat) (mask : Mask) (tinfo : Word) : State :=
  let (split, y) := (s.gang w g).standAt p
  (s.setGang w g y).takeTrap w g split none cause mask tinfo p.pc

/-- The same v result in the active lanes of a park, then the next word. -/
def State.resultAt (s : State) (w g : Nat) (p : Park) (dst : BitVec 7) (nw : Bool) (x : Nat → Word) : State :=
  (s.modGang w g (fun y =>
    ((lanesOf p.act).foldl (fun y i => if nw then y else y.vSet i dst.toNat (x i)) y).continue p s.cycle)).settleGang w g

/-- The timeout of a wait (R188): c of the lowest active lane. -/
def timeoutOf (c : Word) : Option Nat := if c = 0xFFFFFFFFFFFFFFFF#64 then none else some c.toNat

/-- The timeout of a park has run out. -/
def State.expired (s : State) (p : Park) : Bool :=
  match p.left with
  | some n => decide (p.since + n ≤ s.cycle)
  | none => false

/-! ## FENCE, FENCEX, PERSIST (R182, R183) -/

/-- FENCE (R182). -/
def execFence (w : FullWord) (s : State) : Host.Outcome State Fault Refusal :=
  runWord 0xC0 w s (fun c s =>
    let s := s.releaseAll c.wg c.gang c.act c.scope
    if c.scope = 6 ∧ s.owes s.fab.nextId (fun o => s.mine c.wg c.gang 1 o) then
      c.park c.lanes c.act (.fence (BitVec.ofNat 3 c.scope) s.fab.nextId) none s
    else c.done (s.acquireAll c.wg c.gang c.act c.scope))

/-- FENCEX by every lane of a mask (R89). -/
def State.fencexAll (s : State) (w g : Nat) (m : Mask) (cls scope : Nat) : State :=
  (lanesOf m).foldl (fun s i => s.fencex w g i cls scope) s

/-- FENCEX (R182, R89). Every posted store has been accepted when its word is done, so naming host adds no wait (R100). -/
def execFencex (w : FullWord) (s : State) : Host.Outcome State Fault Refusal :=
  runWord 0xC1 w s (fun c s => c.done (s.fencexAll c.wg c.gang c.act (clsOf w) c.scope))

/-- Some lane has a store to kind 0x03 that is neither durable nor refused (R101). -/
def State.notDurable (s : State) (w g : Nat) (m : Mask) : Bool :=
  s.prim.posted.any (fun p => p.pers && p.flow.isNone && p.wg == w && p.gang == g && m.getLsbD p.lane)

/-- The refusal count of a thread, and its restart (R183). -/
def Gang.takeRefused (g : Gang) (m : Mask) : Gang := g.modThreads m (fun t => { t with refused := 0#16 })
def Gang.refusedWord (g : Gang) (i : Nat) : Word := (g.thread i).refused.setWidth 64

/-- PERSIST (R183). -/
def execPersist (w : FullWord) (s : State) : Host.Outcome State Fault Refusal :=
  runWord 0xC2 w s (fun c s =>
    if s.notDurable c.wg c.gang c.act then c.park c.lanes c.act (.persist w.dst w.nw) none s
    else
      let g := c.g s
      c.done (c.mod (c.results ((lanesOf c.act).map (fun i => (i, g.refusedWord i))) s) (fun g => g.takeRefused c.act)))

/-! ## Wired barriers (R27, R28, R184) -/

/-- BARW (R184). -/
def execBarw (w : FullWord) (s : State) : Host.Outcome State Fault Refusal :=
  runWord 0xC3 w s (fun c s =>
    let i := w.xb % 8
    if w.scope < 2 ∨ 4 < w.scope then c.trapAct cSCOPE w.scope s
    else if fld (hdrWbmask (s.hdr c.wg)) i 1 = 0 then c.illegal6 s
    else
      let s := if w.scope = 3 then s.modWg c.wg (fun r => { r with barClus := true }) else s
      let s := s.releaseAll c.wg c.gang c.act w.scope
      c.park c.act c.act (.barw (BitVec.ofNat 3 i) (BitVec.ofNat 3 w.scope)) none s)

/-- The gangs of a launch resident in an instance (R28). -/
def State.gangsIn (s : State) (launch : Nat) (scope : BitVec 3) (inst : Nat) : List (Nat × Nat) :=
  (s.wgs.filter (fun e => e.2.launch == launch && (e.2.status == .running || e.2.status == .saving) &&
    s.barInst e.1 scope == inst)).flatMap (fun e => (Tab.keys e.2.gangs).map (fun g => (e.1, g)))

/-- Open the instances that the placement of a workgroup calls for, with the gangs resident there as participants of their
first phase (R28). -/
def State.openBarriers (s : State) (w : Nat) : State :=
  let l := (s.wg w).launch
  let mask := hdrWbmask (s.launch l).hdr
  let want := (List.range 8).flatMap (fun i => if fld mask i 1 = 1 then [(i, 2), (i, 3), (i, 4)] else [])
  want.foldl (fun s e =>
    let i := BitVec.ofNat 3 e.1
    let scope := BitVec.ofNat 3 e.2
    if s.sched.barriers.any (s.isBar w i scope) then s
    else
      s.modSched (fun c => { c with barriers := c.barriers ++
        [{ launch := l, i := i, scope := scope, inst := s.barInst w scope, broken := false,
           parts := s.gangsIn l scope (s.barInst w scope), arrived := [] }] })) s

/-- A participant has arrived or exited. -/
def State.barDone (s : State) (b : Barrier) (p : Nat × Nat) : Bool :=
  b.arrived.contains p || (s.wg p.1).status == .gone ||
  ([WgStatus.running, .saving, .saved].contains (s.wg p.1).status && (s.gang p.1 p.2).live == 0#32)

/-- The open phase of an instance is complete (R28): every participant has arrived or exited. -/
def State.barComplete (s : State) (b : Barrier) : Bool := !b.broken && b.parts.all (s.barDone b)

/-- A workgroup that has moved to another cluster takes no part any more in the open phases of the instances it has left (R302). -/
def State.leaveBarriers (s : State) (w : Nat) : State :=
  s.modSched (fun c => { c with barriers := c.barriers.map (fun b =>
    if b.launch = (s.wg w).launch ∧ b.inst ≠ s.barInst w b.scope then
      { b with parts := b.parts.filter (fun p => p.1 != w), arrived := b.arrived.filter (fun p => p.1 != w) }
    else b) })

/-- The gangs whose waits at an instance a broken one traps. -/
def State.barStuck (s : State) (b : Barrier) : List (Nat × Nat) :=
  if b.broken then b.arrived.filter (fun p => (s.wg p.1).status == .running && (s.gang p.1 p.2).barAll == some (b.i, b.scope))
  else []

/-- One gang goes on after its barrier, or will when its park is in force again (R296). -/
def State.passBar (s : State) (b : Barrier) (w g : Nat) : State :=
  let here := fun (p : Park) => p.why == .barw b.i b.scope
  let now := if (s.wg w).status = .running then (s.gang w g).parks.filter here else []
  let s := now.foldl (fun s p => (s.acquireAll w g p.lanes b.scope.toNat).modGang w g (fun y => y.continue p s.cycle)) s
  (s.mapParks (fun w' g' p => if w' = w ∧ g' = g ∧ here p then { p with ready := some true } else p)).settleGang w g

/-- WIRED_BARRIER_COMPLETE (R28): the instance with a number in the list releases its waiters and opens a new phase, or, broken,
traps the waiting gangs. -/
def execWiredBarrierComplete (inst : Nat) (s : State) : Host.Outcome State Fault Refusal :=
  match s.sched.barriers[inst]? with
  | none => .next s
  | some b =>
    let put := fun (s : State) (b : Barrier) => s.modSched (fun c => { c with barriers := c.barriers.set inst b })
    if b.broken then
      let stuck := s.barStuck b
      let s := put s { b with arrived := b.arrived.filter (fun p => !stuck.contains p) }
      .next (stuck.foldl (fun s p => s.trapBars p.1 p.2 cBARRIER b.i.toNat) s)
    else if s.barComplete b then
      let out := b.arrived.filter b.parts.contains
      let rest := b.arrived.filter (fun p => !b.parts.contains p)
      let s := put s { b with parts := s.gangsIn b.launch b.scope b.inst, arrived := rest }
      .next (out.foldl (fun s p => s.passBar b p.1 p.2) s)
    else .next s

/-! ## Memory barrier objects (R29, R30, R185) -/

/-- Fields of an object taken as one number, word 1 above word 0. -/
def objExpect (x : Nat) : Nat := fld x 48 16
def objArrived (x : Nat) : Nat := fld x 32 16
def objPend (x : Nat) : Nat := fld x 0 32
def objPhase (x : Nat) : Nat := fld x 64 32

/-- A field of an object replaced. -/
def objPut (x lo n v : Nat) : Nat := x - fld x lo n * 2 ^ lo + v % 2 ^ n * 2 ^ lo

/-- After any event (R30): whether the phase completes. -/
def objFull (x : Nat) : Bool := decide (objExpect x ≤ objArrived x) && objPend x == 0
def objNext (x : Nat) : Nat := objPut (objPut x 64 32 (objPhase x + 1)) 32 16 0

/-- The events (R30). -/
def objInit (count phase x : Nat) : Nat :=
  let x := objPut (objPut (objPut x 48 16 count) 32 16 0) 0 32 0
  objPut (objPut (objPut x 97 1 0) 96 1 0) 64 32 phase
def objArrive (x : Nat) : Nat := objPut x 32 16 (Nat.min (objArrived x + 1) 0xFFFF)
def objExpectBytes (n x : Nat) : Nat :=
  if 2 ^ 32 ≤ objPend x + n then objPut (objPut x 0 32 0xFFFFFFFF) 97 1 1 else objPut x 0 32 (objPend x + n)
def objBytesDone (n x : Nat) : Nat :=
  if objPend x < n then objPut (objPut x 0 32 0) 96 1 1 else objPut x 0 32 (objPend x - n)

/-- The latest bytes of an object at a location. -/
def State.objRead (s : State) (x : Nat) : Nat := leNat (s.ms.latest (locs x 16))

/-- The workgroup whose region holds a location. -/
def ownerOf (x : Nat) : Nat := x / 8 / 2 ^ 24

/-- The later of the views of several classes at one instance, held by all of them (R89 step 3). -/
def MemSys.joinClasses (m : MemSys) (i : Inst) (cs : List PathClass) : MemSys :=
  match cs with
  | [] => m
  | c0 :: rest =>
    let m := rest.foldl (fun m c => m.join i c i c0) m
    rest.foldl (fun m c => m.join i c0 i c) m

/-- One event on an object by an agent (R30, R91): applied to the latest bytes; a phase that completes first joins thread, copy
and matrix at the object's cluster. Parked BWAITs then compare (R185). Poison marks of the object's words change nothing here, and stay
(log 97). -/
def State.objEvent (s : State) (x : Nat) (i : Inst) (cls : PathClass) (f : Nat → Nat) : State :=
  let y := f (s.objRead x)
  let s := if objFull y then
      s.modMs (fun m => m.joinClasses (.clus (clusterOf (s.wg (ownerOf x)).core)) [.thread, .copy, .matrix])
    else s
  let y := if objFull y then objNext y else y
  let s := s.modMs (fun m => (m.write i cls (locs x 16) (leBytes 16 y)).tieUnit (locs x 16))
  s.mapParks (fun _ _ p => match p.why with
    | .bwait loc v _ => if loc = x ∧ v.toNat ≠ objPhase y ∧ p.ready.isNone then { p with ready := some true } else p
    | _ => p)

/-- The object of a word: its location, none in a member without a region; or the trap. -/
def Issue.obj (c : Issue) (k : Option Nat → State → State) (s : State) : State :=
  let lvl := c.w.xb / 128 + 1
  let a := scratchAdv lvl (c.srcA (c.g s) c.low).toNat (c.w.xb % 128 * 16)
  match s.scratchAt c.wg lvl a 16 with
  | .bad => c.trapAct cBUDGET a.1 s
  | .loc x => if a.1 % 2 ^ offBits lvl % 16 ≠ 0 then c.illegal6 s else k (some x) s
  | .void => if a.1 % 2 ^ offBits lvl % 16 ≠ 0 then c.illegal6 s else k none (c.warn wBOUND s)

/-- Lanes have read an object: they never read earlier bytes of it afterwards (R87). -/
def State.objSeen (s : State) (w g : Nat) (m : Mask) (x : Nat) : State :=
  (lanesOf m).foldl (fun s i => s.modMs (fun ms => ms.seen (.lane w g i) .thread (locs x 16))) s

/-- The same for the object of a word, if its bytes exist. -/
def Issue.objLook (c : Issue) (x : Option Nat) (s : State) : State :=
  match x with
  | some x => s.objSeen c.wg c.gang c.act x
  | none => s

/-- One event of a word: every active lane's thread has then seen its bytes. -/
def Issue.objDo (c : Issue) (x : Option Nat) (f : Nat → Nat) (s : State) : State :=
  match x with
  | some x => c.objLook (some x) (s.objEvent x (.lane c.wg c.gang c.low) .thread f)
  | none => s

/-- The phase of an object; 0 in a member without a region. -/
def State.phaseOf (s : State) (x : Option Nat) : Nat :=
  match x with
  | some x => objPhase (s.objRead x)
  | none => 0

/-- Source c of an instruction whose c is a register. -/
def Issue.rdC (c : Issue) (g : Gang) (i : Nat) : Word := g.src i c.w.sc

/-- BINIT (R185). -/
def execBinit (w : FullWord) (s : State) : Host.Outcome State Fault Refusal :=
  runWord 0xC4 w s (fun c s =>
    let g := c.g s
    let s := c.uniform (fun i => [c.srcA g i, c.srcB g 64 i, c.rdC g i]) s
    c.obj (fun x s =>
      let n := (c.srcB g 64 c.low).toNat
      if n = 0 ∨ 65535 < n then c.illegal6 s
      else c.done (c.objDo x (objInit n ((c.rdC g c.low).toNat % 2 ^ 32)) s)) s)

/-- BARV (R185): a release at clus. -/
def execBarv (w : FullWord) (s : State) : Host.Outcome State Fault Refusal :=
  runWord 0xC5 w s (fun c s =>
    let g := c.g s
    let s := c.uniform (fun i => [c.srcA g i]) s
    c.obj (fun x s => c.done (c.objDo x objArrive (s.releaseAll c.wg c.gang c.act 3))) s)

/-- BEXP (R185). -/
def execBexp (w : FullWord) (s : State) : Host.Outcome State Fault Refusal :=
  runWord 0xC6 w s (fun c s =>
    let g := c.g s
    let s := c.uniform (fun i => [c.srcA g i, c.srcB g 64 i]) s
    c.obj (fun x s => c.done (c.objDo x (objExpectBytes (c.srcB g 64 c.low).toNat) s)) s)

/-- The same predicate in the active lanes, then the next word. -/
def Issue.donePred (c : Issue) (x : Bool) (s : State) : State := c.done (c.mod s (fun g => g.predAll c.act (c.dstName 3) x))

/-- BTRY (R185): an acquire at clus when the phase has changed. -/
def execBtry (w : FullWord) (s : State) : Host.Outcome State Fault Refusal :=
  runWord 0xC8 w s (fun c s =>
    let g := c.g s
    let s := c.uniform (fun i => [c.srcA g i, c.srcB g 64 i]) s
    c.obj (fun x s =>
      let s := c.objLook x s
      let hit := decide (s.phaseOf x ≠ (c.srcB g 64 c.low).toNat % 2 ^ 32)
      c.donePred hit (if hit then s.acquireAll c.wg c.gang c.act 3 else s)) s)

/-- BWAIT (R185). In a member without a region nothing parks (R59): the wait ends at once, as when the object is freed (log 84). -/
def execBwait (w : FullWord) (s : State) : Host.Outcome State Fault Refusal :=
  runWord 0xC7 w s (fun c s =>
    let g := c.g s
    let s := c.uniform (fun i => [c.srcA g i, c.srcB g 64 i, c.rdC g i]) s
    c.obj (fun x s =>
      let s := c.objLook x s
      let v := (c.srcB g 64 c.low).toNat % 2 ^ 32
      let left := timeoutOf (c.rdC g c.low)
      if s.phaseOf x ≠ v then c.donePred true (s.acquireAll c.wg c.gang c.act 3)
      else if left = some 0 then c.donePred false s
      else
        match x with
        | some loc => c.park c.lanes c.act (.bwait loc (BitVec.ofNat 32 v) (BitVec.ofNat 3 (c.dstName 3))) left s
        | none => c.donePred false s) s)

/-- A parked BWAIT goes on: with pD = 1 and an acquire at clus, or with pD = 0. -/
def State.wakeBwait (s : State) (w g : Nat) (p : Park) (pd : BitVec 3) (hit : Bool) : State :=
  let s := match p.why, hit with
    | .bwait x _ _, true => (s.objSeen w g p.act x).acquireAll w g p.act 3
    | _, _ => s
  s.finishWait w g p pd (fun _ => hit)

/-- BWAIT_WAKE (R185): the phase has changed, or the object was freed. -/
def execBwaitWake (w g park : Nat) (s : State) : Host.Outcome State Fault Refusal :=
  match s.waiting w g park with
  | none => .next s
  | some p =>
    match p.why, p.ready with
    | .bwait _ _ pd, some hit => .next (s.wakeBwait w g p pd hit)
    | _, _ => .next s

/-! ## WSEQ (R186) -/

/-- The FENCEX of a WSEQ that has seen its value; CLS 0 takes none. -/
def State.seqFence (s : State) (w g : Nat) (m : Mask) (cls scope : Nat) : State :=
  if cls = 0 then s else s.fencexAll w g m cls scope

/-- WSEQ (R186). -/
def execWseq (w : FullWord) (s : State) : Host.Outcome State Fault Refusal :=
  runWord 0xC9 w s (fun c s =>
    let g := c.g s
    let s := c.uniform (fun i => [c.srcB g 64 i, c.rdC g i]) s
    let n := nameOf w.sa 5
    let v := c.srcB g 64 c.low
    let left := timeoutOf (c.rdC g c.low)
    if v.toNat ≤ (Tab.get (s.wg c.wg).q n).toNat then
      c.donePred true (s.seqFence c.wg c.gang c.act (clsOf w) c.scope)
    else if left = some 0 then c.donePred false s
    else
      c.park c.lanes c.act (.wseq (BitVec.ofNat 5 n) v (BitVec.ofNat 5 (clsOf w)) (BitVec.ofNat 3 c.scope)
        (BitVec.ofNat 3 (c.dstName 3))) left s)

/-- The condition of a parked WSEQ. -/
def State.seqReached (s : State) (w : Nat) (cell : BitVec 5) (v : Word) : Bool :=
  decide (v.toNat ≤ (Tab.get (s.wg w).q cell.toNat).toNat)

/-- WSEQ_WAKE (R186): the cell has reached the value. -/
def execWseqWake (w g park : Nat) (s : State) : Host.Outcome State Fault Refusal :=
  match s.waiting w g park with
  | none => .next s
  | some p =>
    match p.why with
    | .wseq cell v cls scope pd =>
        if s.seqReached w cell v then
          .next ((s.seqFence w g p.act cls.toNat scope.toNat).finishWait w g p pd (fun _ => true))
        else .next s
    | _ => .next s

/-! ## WMEM (R187) -/

/-- The comparison of a WMEM: 0 eq, 1 ne, 2 ge, 3 lt, in TYPE. -/
def wmemCompare (cc ty x b : Nat) : Bool :=
  match cc with
  | 0 => readIn ty x == readIn ty b
  | 1 => readIn ty x != readIn ty b
  | 2 => decide (readIn ty b ≤ readIn ty x)
  | _ => decide (readIn ty x < readIn ty b)

/-- The fields of a WMEM word. -/
def wmemLvl (w : FullWord) : Nat := w.xb % 4
def wmemCc (w : FullWord) : Nat := w.xb / 4 % 4

/-- The lanes' reads: the plan, and whether each lane's condition holds. -/
def State.wmemRead (s : State) (w g : Nat) (x : FullWord) (ty : Nat) (m : Mask) (addr b : Nat → Word) : Plan × List (Nat × Bool) :=
  let sz := esize x.type
  let p := s.planScratch w (wmemLvl x) sz ((lanesOf m).map (fun i => (i, ((addr i).toNat, true))))
  (p, p.go.map (fun l => (l.lane, wmemCompare (wmemCc x) ty (s.loadLane w g l) (b l.lane).toNat)))

/-- Every lane's condition holds. -/
def allHold (l : List (Nat × Bool)) : Bool := l.all (fun e => e.2)

/-- WMEM (R187). In a member without a region the word reads 0 there and waits as it does elsewhere (log 95). -/
def execWmem (w : FullWord) (s : State) : Host.Outcome State Fault Refusal :=
  runWord 0xCA w s (fun c s =>
    let g := c.g s
    let lvl := wmemLvl w
    let l := (lanesOf c.act).map (fun i => (i, ((c.srcA g i).toNat, true)))
    let (bad, addr) := s.scrBad c.wg lvl c.sz l
    if bad ≠ 0#32 then c.trap (scrCause lvl) bad (word addr) s
    else
      let s := if s.scrVoid c.wg lvl c.sz l then c.warn wBOUND s else s
      let (plan, held) := s.wmemRead c.wg c.gang w c.ty c.act (c.srcA g) (fun i => c.srcB g 64 i)
      c.poisonCheck plan (fun _ s =>
        let left := timeoutOf (c.rdC g c.low)
        if allHold held then c.donePred true (c.acquire c.act s)
        else if left = some 0 then
          c.done (c.mod s (fun g => held.foldl (fun g e => g.pSet e.1 (c.dstName 3) e.2) g))
        else
          let tab := fun (f : Nat → Word) => (lanesOf c.act).foldl (fun (t : Tab Word) i => Tab.set t i (f i)) []
          c.park c.lanes c.act (.wmem w (tab (c.srcA g)) (tab (fun i => c.srcB g 64 i))) left s) s)

/-- The end of a WMEM wait: on a condition met, or on a timeout with the values last read; a lane that reads in a member without a region
sets warns.BOUND (R59). -/
def State.recheckWmem (s : State) (w g : Nat) (p : Park) (x : FullWord) (addr b : Tab Word) (timeout : Bool) : State :=
  let f := (form 0xCA x).getD default
  let lanes := (lanesOf p.act).map (fun i => (i, ((Tab.get addr i).toNat, true)))
  let s := if s.scrVoid w (wmemLvl x) (esize x.type) lanes then s.modGang w g (fun y => y.warn wBOUND p.pc) else s
  let (plan, held) := s.wmemRead w g x (f.typeEff x) p.act (Tab.get addr) (Tab.get b)
  let (bad, a) := plan.poison s.ms
  if bad ≠ 0#32 then s.trapAt w g p cPOISON bad (word a)
  else if allHold held ∨ timeout then
    let s := if allHold held ∧ f.ordEff x % 2 = 1 then s.acquireAll w g p.act (f.scopeEff 0xCA x) else s
    s.finishWait w g p (BitVec.ofNat 3 (x.dst.toNat % 8)) (fun i => held.any (fun e => e.1 == i && e.2))
  else s

/-- WMEM_RECHECK (R187). -/
def execWmemRecheck (w g park : Nat) (s : State) : Host.Outcome State Fault Refusal :=
  match s.waiting w g park with
  | none => .next s
  | some p =>
    match p.why with
    | .wmem x addr b => .next (s.recheckWmem w g p x addr b false)
    | _ => .next s

/-- WAIT_TIMEOUT (R188): the wait ends; a condition that holds counts first (R189). -/
def execWaitTimeout (w g park : Nat) (s : State) : Host.Outcome State Fault Refusal :=
  match s.waiting w g park with
  | none => .next s
  | some p =>
    if !s.expired p then .next s
    else
      match p.why with
      | .bwait _ _ pd => .next (s.wakeBwait w g p pd (p.ready == some true))
      | .wseq cell v cls scope pd =>
          if s.seqReached w cell v then
            .next ((s.seqFence w g p.act cls.toNat scope.toNat).finishWait w g p pd (fun _ => true))
          else .next (s.finishWait w g p pd (fun _ => false))
      | .wmem x addr b => .next (s.recheckWmem w g p x addr b true)
      | _ => .next s

/-! ## TMOV (R79, R175, R176) -/

/-- The fields of a tile descriptor. -/
structure Tile where
  dst    : Nat
  src    : Nat
  dlvl   : Nat
  slvl   : Nat
  bytes  : Nat
  rows   : Nat
  dpitch : Nat
  spitch : Nat
  deriving DecidableEq, Repr, Inhabited

def tileOf (d : List Word) : Tile :=
  let x := fun (i : Nat) => (d.getD i 0).toNat
  { dst := x 0, src := x 1, dlvl := fld (x 2) 34 2, slvl := fld (x 2) 32 2, bytes := (fld (x 2) 16 13 + 1) * 8,
    rows := fld (x 2) 0 12 + 1, dpitch := fld (x 3) 32 32, spitch := fld (x 3) 0 32 }

/-- Check 1 of R176. -/
def Tile.shapeBad (t : Tile) : Bool :=
  t.dlvl == 0 || t.slvl == 0 || (t.dlvl == 3 && t.slvl == 3) || decide (2 ^ 20 < t.rows * t.bytes) || t.dpitch % 8 != 0 ||
  t.spitch % 8 != 0 || t.dst % 2 ^ offBits t.dlvl % 8 != 0 || t.src % 2 ^ offBits t.slvl % 8 != 0 ||
  (decide (1 < t.rows) && decide (t.dpitch < t.bytes))

/-- The address of a row at either end, advanced by its pitch. -/
def Tile.dstRow (t : Tile) (j : Nat) : Nat × Bool := scratchAdv t.dlvl t.dst (j * t.dpitch : Nat)
def Tile.srcRow (t : Tile) (j : Nat) : Nat × Bool := scratchAdv t.slvl t.src (j * t.spitch : Nat)

/-- What the rows of one end reach. -/
def State.tileEnd (s : State) (w lvl n rows : Nat) (row : Nat → Nat × Bool) : List (Nat × Scr) :=
  (List.range rows).map (fun j => ((row j).1, s.scratchAt w lvl (row j) n))

/-- The first row of an end that breaks R59. -/
def endBad (l : List (Nat × Scr)) : Option Nat := (l.find? (fun e => e.2 == .bad)).map Prod.fst

/-- The lowest destination address that both ends reach (R176 check 3). -/
def overlapAt (n : Nat) (ds ss : List (Nat × Scr)) : Option Nat :=
  (ascending (ds.flatMap (fun d => ss.filterMap (fun e =>
    match d.2, e.2 with
    | .loc x, .loc y =>
        if x % 8 = y % 8 ∧ x / 8 < y / 8 + n ∧ y / 8 < x / 8 + n then some (d.1 + (y / 8 - x / 8)) else none
    | _, _ => none)))).head?

/-- The byte locations of a scratch range. -/
def Scr.bytes (x : Scr) (n : Nat) : List (Option Nat) :=
  match x with
  | .loc y => (locs y n).map some
  | .void | .bad => List.replicate n none

/-- The bytes of a tile, row by row: where each is read and where it is written. -/
def State.tileBytes (s : State) (w : Nat) (t : Tile) : List (Option Nat × Option Nat) :=
  (List.range t.rows).flatMap (fun j =>
    ((s.scratchAt w t.slvl (t.srcRow j) t.bytes).bytes t.bytes).zip ((s.scratchAt w t.dlvl (t.dstRow j) t.bytes).bytes t.bytes))

/-- A tile not yet begun: the units of both ends, by the places of their bytes in the tile (R92). -/
def State.tileXfer (s : State) (w : Nat) (t : Tile) : Xfer :=
  let l := s.tileBytes w t
  let units := fun (e : Option Nat × Option Nat → Option Nat) =>
    unitsOf (fun p => ((l[p]?).bind e).toList.map lineTag) (List.range l.length)
  { reads := units Prod.fst, writes := units Prod.snd }

/-- TMOV (R176). Where both ends break R59 the destination's cause is reported, with the first address of its first failing row (log 100). -/
def execTmov (w : FullWord) (s : State) : Host.Outcome State Fault Refusal :=
  runWord 0xA7 w s (fun c s =>
    let g := c.g s
    let desc := fun (i : Nat) => (List.range 4).map (fun j => g.vGet i (w.sa.toNat + j))
    let s := c.uniform desc s
    let t := tileOf (desc c.low)
    if t.shapeBad then c.illegal6 s
    else
      let ds := s.tileEnd c.wg t.dlvl t.bytes t.rows t.dstRow
      let ss := s.tileEnd c.wg t.slvl t.bytes t.rows t.srcRow
      match endBad ds, endBad ss with
      | some a, _ => c.trapAct (scrCause t.dlvl) a s
      | none, some a => c.trapAct (scrCause t.slvl) a s
      | none, none =>
        match overlapAt t.bytes ds ss with
        | some a => c.trapAct cOVERLAP a s
        | none =>
          c.done (s.modWg c.wg (fun r => { r with
            moves := r.moves ++ [{ id := r.nextId, desc := desc c.low, cell := BitVec.ofNat 5 (c.dstName 5), mv := s.tileXfer c.wg t }]
            nextId := r.nextId + 1 })))

/-- The agent of a workgroup's cluster. -/
def State.clusInst (s : State) (w : Nat) : Inst := .clus (clusterOf (s.wg w).core)

/-- A byte read on the copy path of a workgroup's cluster, with its poison (R78); 0 where no region holds it. -/
def State.readCopy (s : State) (w : Nat) (x : Option Nat) : Byte × Bool :=
  match x with
  | some x => (s.ms.readByte (s.clusInst w) .copy x, s.ms.poisoned x)
  | none => (0#8, false)

/-- Bytes written on the copy path in their 64-byte units, with their poison (R78, R92). -/
def State.writeCopy (s : State) (w : Nat) (l : List (Nat × Byte × Bool)) : State :=
  (s.put w (s.clusInst w) .copy 64 (l.map Prod.fst) (l.map (fun e => e.2.1))).modMs (fun m =>
    m.mark ((l.filter (fun e => e.2.2)).map Prod.fst))

/-- A tile move of a workgroup. -/
def Workgroup.tileOn (r : Workgroup) (i : Nat) : Option TileMove := r.moves.find? (fun m => m.id == i)

/-- A tile move changed. -/
def State.modTile (s : State) (w i : Nat) (f : Xfer → Xfer) : State :=
  s.modWg w (fun r => { r with moves := r.moves.map (fun x => if x.id = i then { x with mv := f x.mv } else x) })

/-- Iris reads one of the units of a tile that are left (R79, R92). -/
def State.tileRead (s : State) (w i k : Nat) : State :=
  match (s.wg w).tileOn i with
  | none => s
  | some m =>
    let l := s.tileBytes w (tileOf m.desc)
    s.modTile w i (fun x => x.readUnit k (fun p => s.readCopy w ((l[p]?).bind Prod.fst)))

/-- Iris writes one of the units of a tile that are left, when their bytes have been read. -/
def State.tileWrite (s : State) (w i k : Nat) : State :=
  match (s.wg w).tileOn i with
  | none => s
  | some m =>
    match m.mv.unitVals k (fun got p => got p) with
    | none => s
    | some vals =>
      let l := s.tileBytes w (tileOf m.desc)
      (s.writeCopy w (vals.filterMap (fun e => ((l[e.1]?).bind Prod.snd).map (fun y => (y, e.2))))).modTile w i (fun x => x.wrote k)

/-- TMOV_COMPLETE (R176): every byte is written, and the cell rises by 1. -/
def execTmovComplete (w i : Nat) (s : State) : Host.Outcome State Fault Refusal :=
  match (s.wg w).tileOn i with
  | none => .next s
  | some m =>
    if !m.mv.writes.isEmpty then .next s
    else .next ((s.addCell w m.cell.toNat 1).modWg w (fun r => { r with moves := r.moves.filter (fun x => x.id != i) }))

end Sys2Proof.Machine
end

