-- ==== Sys2Proof/Machine/Dahlia.lean ====
section
/-! DEFINITION. Matrix tasks: records, submission, Dahlia's steps (spec/19_isa_engines.md R217 to R226, spec/21_claims.md R245 to
R247, spec/03_numbers.md R50 to R54). -/

namespace Sys2Proof.Machine

/-! ## The task record (R217, R218) -/

def taskField (t : BitVec 512) (w lo n : Nat) : Nat := fld t.toNat (64 * w + lo) n
def tOpc (t : BitVec 512) : Nat := taskField t 0 60 4
def tAtype (t : BitVec 512) : Nat := taskField t 0 56 4
def tBtype (t : BitVec 512) : Nat := taskField t 0 52 4
def tSmode (t : BitVec 512) : Nat := taskField t 0 50 2
def tWait (t : BitVec 512) : Bool := taskField t 0 49 1 == 1
def tSig (t : BitVec 512) : Bool := taskField t 0 48 1 == 1
def tWscope (t : BitVec 512) : Nat := taskField t 0 45 3
def tDtype (t : BitVec 512) : Nat := taskField t 0 41 4
def tDsat (t : BitVec 512) : Bool := taskField t 0 40 1 == 1
def tAccrow (t : BitVec 512) : Nat := taskField t 0 28 12
def tM (t : BitVec 512) : Nat := taskField t 1 57 7 + 1
def tN (t : BitVec 512) : Nat := taskField t 1 50 7 + 1
def tK (t : BitVec 512) : Nat := taskField t 1 37 13
def tSaoff (t : BitVec 512) : Nat := taskField t 1 12 12 * 64
def tSboff (t : BitVec 512) : Nat := taskField t 1 0 12 * 64
def tAlvl (t : BitVec 512) : Nat := taskField t 2 62 2
def tAmask (t : BitVec 512) : Nat := taskField t 2 50 8
def tAaddr (t : BitVec 512) : Nat := taskField t 2 0 32
def tBlvl (t : BitVec 512) : Nat := taskField t 3 62 2
def tBmask (t : BitVec 512) : Nat := taskField t 3 50 8
def tBaddr (t : BitVec 512) : Nat := taskField t 3 0 32
def tWval (t : BitVec 512) : Nat := taskField t 4 0 64
def tWcell (t : BitVec 512) : Nat := taskField t 5 59 5
def tScell (t : BitVec 512) : Nat := taskField t 5 54 5
def tSinc (t : BitVec 512) : Nat := taskField t 5 38 16
def tNlvl (t : BitVec 512) : Nat := taskField t 6 62 2
def tNext (t : BitVec 512) : Nat := taskField t 6 0 32
def tAmoff (t : BitVec 512) : Nat := taskField t 6 0 19
def tPitch (t : BitVec 512) : Nat := taskField t 7 32 32
def tBmoff (t : BitVec 512) : Nat := taskField t 7 0 19

/-- A record from its eight words. -/
def taskOf (ws : List Nat) : BitVec 512 := BitVec.ofNat 512 (ws.foldr (fun x acc => x % 2 ^ 64 + 2 ^ 64 * acc) 0)

/-- TYPE code (R62) of an operand type code and of a data type code. -/
def opType (c : Nat) : Nat := match c with
  | 0 => 16
  | 1 => 17
  | 2 => 13
  | 3 => 12
  | _ => 4
def dataType (c : Nat) : Nat := match c with
  | 0 => 14
  | 1 => 13
  | 2 => 12
  | 3 => 16
  | 4 => 17
  | 5 => 6
  | _ => 4

/-- Size of an element of an operand. -/
def tEs (t : BitVec 512) : Nat := if tAtype t = 2 ∨ tAtype t = 3 then 2 else 1
/-- Bytes of one row of an operand, and the K-steps of 384 bytes that they make. -/
def tRowBytes (t : BitVec 512) : Nat := tK t * tEs t
def tSteps (t : BitVec 512) : Nat := (tRowBytes t + 383) / 384
/-- Elements of a promotion group (R50); INT8 has one group, taken K-step by K-step. -/
def tGroup (t : BitVec 512) : Nat :=
  if tAtype t < 2 then (if tSmode t = 2 then 32 else 128) else if tAtype t = 4 then 384 else 32
def tGroups (t : BitVec 512) : Nat := (tK t + tGroup t - 1) / tGroup t

/-- Size and row pitch of the data of MLOAD and MDRAIN (R223). -/
def tDsize (t : BitVec 512) : Nat := esize (dataType (tDtype t))
def tDpitch (t : BitVec 512) : Nat := if tPitch t = 0 then tN t * tDsize t else tPitch t

/-- The operand types and scale mode form a row of R50. -/
def comboOk (t : BitVec 512) : Bool :=
  (decide (tAtype t < 2) && decide (tBtype t < 2) && decide (tSmode t < 3)) ||
  ([2, 3, 4].contains (tAtype t) && tBtype t == tAtype t && tSmode t == 0)

/-! ## Canonical layout (R219, R220) -/

/-- Place of byte b of row r relative to the operand's address. -/
def canonAt (r b : Nat) : Nat :=
  let c := b % 384 / 32
  let p := 4 * ((c / 4 + r % 12 / 4) % 3) + Nat.xor (c % 4) (r % 4)
  b / 384 * 49152 + r * 384 + p * 32 + b % 32

/-- The places of bytes [lo, hi) of the rows of an operand. -/
def canonBytes (rows lo hi : Nat) : List Nat := (List.range rows).flatMap (fun r => (List.range (hi - lo)).map (fun d => canonAt r (lo + d)))

/-- The span that the region check covers. -/
def canonSpan (t : BitVec 512) (rows : Nat) : Nat := if tSteps t = 0 then 0 else (tSteps t - 1) * 49152 + rows * 384

/-- The scale bytes that a task reads for groups [lo, hi), as offsets within the scale region. -/
def scaleBytes (t : BitVec 512) (lo hi : Nat) : List Nat :=
  let gs := (List.range (hi - lo)).map (lo + ·)
  match tSmode t with
  | 1 =>
      gs.flatMap (fun g => (List.range (tM t)).flatMap (fun i => (List.range 4).map (fun j => tSaoff t + 512 * g + 4 * i + j))) ++
      gs.flatMap (fun g => (List.range 4).map (fun j => tSboff t + 4 * g + j))
  | 2 =>
      gs.flatMap (fun g => (List.range (tM t)).map (fun i => tSaoff t + 128 * g + i)) ++
      gs.flatMap (fun g => (List.range (tN t)).map (fun i => tSboff t + 128 * g + i))
  | _ => []

/-! ## Submission checks (R221) -/

/-- Check 1. -/
def State.taskFieldsBad (s : State) (w : Nat) (t : BitVec 512) : Bool :=
  let h := s.hdr w
  let o := tOpc t
  let lvlBad := fun (l : Nat) => l == 0 || l == 3
  let maskBad := fun (m : Nat) => (List.range 8).any (fun j => m.testBit j && (!hdrCb h || decide (hdrExt h 2 ≤ j)))
  decide (5 ≤ o) || (tWait t && tWscope t == 7) ||
  (o == 0 && (!comboOk t || decide (6144 < tRowBytes t) || lvlBad (tAlvl t) || lvlBad (tBlvl t) || maskBad (tAmask t) ||
    maskBad (tBmask t))) ||
  ((o == 2 || o == 3) && (lvlBad (tAlvl t) || decide (7 ≤ tDtype t)))

/-- The first byte of a span of n bytes at a scratch address that breaks R59. -/
def State.spanBad (s : State) (w lvl a n : Nat) : Option Nat :=
  if n = 0 then none
  else
    match s.scratchAt w lvl (a, true) n with
    | .bad =>
        let off := a % 2 ^ offBits lvl
        let lim := (if lvl = 1 then hdrCstk (s.hdr w) else hdrKstk (s.hdr w)) * 1024
        -- the address itself when it names no region, else the first byte beyond the region
        if s.scratchAt w lvl (a / 2 ^ offBits lvl * 2 ^ offBits lvl, true) 0 = .bad ∨ lim ≤ off then some a
        else some (a - off + lim)
    | .loc _ | .void => none

/-- A multicast copy's scratch address in a member. -/
def copyAddr (j off : Nat) : Nat := 2 ^ 26 + j * 2 ^ 19 + off

/-- Multicast members of a mask. -/
def membersOf (m : Nat) : List Nat := (List.range 8).filter (fun j => m.testBit j)

/-- The first copy byte outside a member's region. -/
def State.copyBad (s : State) (w : Nat) (t : BitVec 512) (mask moff rows : Nat) : Option Nat :=
  let lim := hdrCstk (s.hdr w) * 1024
  match membersOf mask with
  | [] => none
  | j :: _ => (ascending ((canonBytes rows 0 (tRowBytes t)).filterMap (fun b =>
      if lim ≤ moff + b then some (copyAddr j (moff + b)) else none))).head?

/-- Check 2. -/
def State.taskReach (s : State) (w : Nat) (t : BitVec 512) : Option Nat :=
  let h := s.hdr w
  let o := tOpc t
  let rows := 2 * hdrAcck h
  let accBad := if o < 4 ∧ rows < tAccrow t + tM t then some (Nat.max (tAccrow t) rows * 512) else none
  let sclBad := if o = 0 then (ascending ((scaleBytes t 0 (tGroups t)).filter (fun b => decide (hdrScalek h * 1024 ≤ b)))).head? else none
  let aBad := if o = 0 then s.spanBad w (tAlvl t) (tAaddr t) (canonSpan t (tM t)) else none
  let bBad := if o = 0 then s.spanBad w (tBlvl t) (tBaddr t) (canonSpan t (tN t)) else none
  let dBad := if o = 2 ∨ o = 3 then
      s.spanBad w (tAlvl t) (tAaddr t) ((tM t - 1) * tDpitch t + tN t * tDsize t) else none
  let cBad := if o = 0 then
      (s.copyBad w t (tAmask t) (tAmoff t) (tM t)).or (s.copyBad w t (tBmask t) (tBmoff t) (tN t)) else none
  accBad.or (sclBad.or (aBad.or (bBad.or (dBad.or cBad))))

/-- The locations of an operand's bytes. -/
def State.opLocs (s : State) (w lvl a : Nat) (rel : List Nat) : List (Option Nat) :=
  rel.map (fun b => match s.scratchAt w lvl (scratchAdv lvl a b) 1 with
    | .loc x => some x
    | .void | .bad => none)

/-- The location of a copy byte in a member's core store. -/
def State.copyLoc (s : State) (w j off : Nat) : Option Nat := (s.memberOf w j).map (fun v => locCst v off)

/-- Check 3: the lowest address to which a copy would write a byte that the task reads. -/
def State.taskOverlap (s : State) (w : Nat) (t : BitVec 512) : Option Nat :=
  if tOpc t ≠ 0 then none
  else
    let relA := canonBytes (tM t) 0 (tRowBytes t)
    let relB := canonBytes (tN t) 0 (tRowBytes t)
    let reads := s.opLocs w (tAlvl t) (tAaddr t) relA ++ s.opLocs w (tBlvl t) (tBaddr t) relB
    let hits := fun (mask moff : Nat) (rel : List Nat) => (membersOf mask).flatMap (fun j => rel.filterMap (fun b =>
      let x := s.copyLoc w j (moff + b)
      if x.isSome ∧ reads.contains x then some (copyAddr j (moff + b)) else none))
    (ascending (hits (tAmask t) (tAmoff t) relA ++ hits (tBmask t) (tBmoff t) relB)).head?

/-- The first failing check of R221: cause and tinfo. -/
def State.taskCheck (s : State) (w : Nat) (t : BitVec 512) : Option (Nat × Nat) :=
  if s.taskFieldsBad w t then some (cILLEGAL, 6)
  else
    match s.taskReach w t with
    | some a => some (cBUDGET, a)
    | none => (s.taskOverlap w t).map (fun a => (cOVERLAP, a))

/-- WSCOPE as it takes effect, and whether it changes (R221). -/
def tScope (t : BitVec 512) : Nat := if tWscope t < 3 then 3 else if tWscope t = 6 then 5 else tWscope t
def scopeWarn (t : BitVec 512) : Nat := if tWait t && tScope t != tWscope t then wSCOPE else 0

/-! ## MENQ and MTAIL (R226) -/

/-- Records of a chain. -/
def chainMax : Nat := 64

/-- Append records to a workgroup's chain, in one step. -/
def State.append (s : State) (w : Nat) (l : List (BitVec 512)) : State :=
  s.modWg w (fun r => { r with chain := r.chain ++ l.map (fun t => { record := t, begun := false, kstep := 0, done := false }) })

/-- The chain has places for some records. -/
def State.hasPlaces (s : State) (w : Nat) (l : List (BitVec 512)) : Bool := decide ((s.wg w).chain.length + l.length ≤ chainMax)

/-- The word appends the records that it has read; while the chain is too full it waits with them (R226). -/
def Issue.enqueue (c : Issue) (l : List (BitVec 512)) (s : State) : State :=
  let s := c.warn (orAll (l.map scopeWarn)) s
  if s.hasPlaces c.wg l then c.done (s.append c.wg l) else c.park c.lanes c.act (.chainFull l) none s

/-- MENQ (R226). -/
def execMenq (w : FullWord) (s : State) : Host.Outcome State Fault Refusal :=
  runWord 0xD0 w s (fun c s =>
    let g := c.g s
    let regs := fun (i : Nat) => (List.range 8).map (fun j => g.vGet i (w.sa.toNat + j))
    let s := c.uniform regs s
    let t := taskOf ((regs c.low).map BitVec.toNat)
    match s.taskCheck c.wg t with
    | some (cause, tinfo) => c.trapAct cause tinfo s
    | none => c.enqueue [t] s)

/-- What reading a list of records gives: the records, or a trap. -/
inductive Tail where
  | ok (l : List (BitVec 512))
  | trap (cause tinfo : Nat)
  deriving DecidableEq, Repr, Inhabited

/-- Read and check n records from an address (R226); MLINK redirects. The flag says that a member without a region was read. A misaligned
address is ILLEGAL_INSN, tinfo 6, also where it is out of reach (log 108). -/
def State.readTail (s : State) (w g lane : Nat) (n lvl : Nat) (a : Nat × Bool) (acc : List (BitVec 512)) (gone : Bool) : Tail × Bool :=
  match n with
  | 0 => (.ok acc, gone)
  | n + 1 =>
    if a.1 % 2 ^ offBits lvl % 64 ≠ 0 then (.trap cILLEGAL 6, gone)
    else
      let x := s.scratchAt w lvl a 64
      if x = .bad then (.trap cBUDGET a.1, gone)
      else
        let p : LanePlan := { lane := lane, addr := a.1, bytes := match x with
          | .loc y => (locs y 64).map .loc
          | .void | .bad => List.replicate 64 .zero }
        match p.poison s.ms with
        | some u => (.trap cPOISON u, gone)
        | none =>
          let t := BitVec.ofNat 512 (s.loadLane w g p)
          let gone := gone || x == .void
          if tOpc t = 5 then
            if tNlvl t = 0 ∨ tNlvl t = 3 then (.trap cILLEGAL 6, gone)
            else s.readTail w g lane n (tNlvl t) (tNext t, true) acc gone
          else
            match s.taskCheck w t with
            | some (cause, tinfo) => (.trap cause tinfo, gone)
            | none => s.readTail w g lane n lvl (scratchAdv lvl a.1 64) (acc ++ [t]) gone

/-- MTAIL (R226). -/
def execMtail (w : FullWord) (s : State) : Host.Outcome State Fault Refusal :=
  runWord 0xD1 w s (fun c s =>
    let g := c.g s
    let s := c.uniform (fun i => [c.srcA g i, c.srcB g 64 i]) s
    let n := (c.srcB g 64 c.low).toNat
    if n = 0 ∨ 64 < n then c.illegal6 s
    else
      match s.readTail c.wg c.gang c.low n (w.xb % 4) ((c.srcA g c.low).toNat, true) [] false with
      | (.trap cause tinfo, gone) => c.trapAct cause tinfo (if gone then c.warn wBOUND s else s)
      | (.ok l, gone) => c.enqueue l (if gone then c.warn wBOUND s else s))

/-! ## Dahlia's choice (R225, R245) -/

/-- The number of a workgroup's chain. -/
def Workgroup.chainNo (r : Workgroup) : Nat := r.core * 16 + r.place

/-- A workgroup's chain is ready. -/
def Workgroup.ready (r : Workgroup) : Bool :=
  match r.chain with
  | [] => false
  | t :: _ => !tWait t.record || decide (tWval t.record ≤ (Tab.get r.q (tWcell t.record)).toNat)

/-- The keys of a cluster's resident workgroups. -/
def State.wgsAt (s : State) (clus : Nat) : List Nat :=
  (s.wgs.filter (fun e => e.2.status == .running && clusterOf e.2.core == clus)).map Prod.fst

/-- The next of some keys in the circular order of a number below n, after the number last served. -/
def nextAfter (n last : Nat) (no : Nat → Nat) (l : List Nat) : Option Nat :=
  l.foldl (fun (b : Option Nat) w =>
    let d := fun (w : Nat) => (no w + 2 * n - last - 1) % n
    match b with
    | none => some w
    | some v => if d w < d v then some w else some v) none

/-- The chain that Dahlia serves next. -/
def State.nextChain (s : State) (clus : Nat) : Option Nat :=
  nextAfter 6144 (s.engine clus).lastChain (fun w => (s.wg w).chainNo) ((s.wgsAt clus).filter (fun w => (s.wg w).ready))

/-- The head of a chain changed. -/
def State.modHead (s : State) (w : Nat) (f : Task → Task) : State :=
  s.modWg w (fun r => { r with chain := match r.chain with
    | [] => []
    | t :: l => f t :: l })

/-- TASK_START (R225, R245). -/
def execTaskStart (clus : Nat) (s : State) : Host.Outcome State Fault Refusal :=
  if (s.engine clus).busy.isSome then .next s
  else
    match s.nextChain clus with
    | none => .next s
    | some w =>
      let t := ((s.wg w).chain.headD default).record
      let s := s.modEng clus (fun e => { e with busy := some w, lastChain := (s.wg w).chainNo })
      let s := if tWait t then s.modMs (fun m => m.fenceJoin (s.chain w 0 0) (tScope t) [.copy, .matrix]) else s
      .next (s.modHead w (fun x => { x with begun := true }))

/-- The task in service, if it is of an operation and not finished. -/
def State.serving (s : State) (clus opc : Nat) : Option (Nat × Task) :=
  match (s.engine clus).busy with
  | none => none
  | some w =>
    match (s.wg w).chain with
    | [] => none
    | t :: _ => if tOpc t.record = opc ∧ t.begun ∧ !t.done then some (w, t) else none

/-- A poisoned operand or scale (R78, R308). -/
def State.dahliaPoison (s : State) (w : Nat) : State := s.kill w 3 0 false (s.wid w 0 0) 0 0 0

/-! ## MMA (R50 to R54, R222) -/

/-- A product of two elements. -/
def elProd (x y : FV) : FV :=
  if x.isNan || y.isNan then .nan false true 0
  else
    match prod x y with
    | some v => v
    | none => .nan false true 0

/-- The truncation of R52: finite products cut to multiples of 2^(E − 48), E the largest sum of the operands' exponents. -/
def truncate (ps : List FV) : List FV :=
  let tops := ps.filterMap (fun p => match p with
    | .fin _ m e => if m = 0 then none else some (e + 14)
    | .inf _ | .nan .. => none)
  match tops with
  | [] => ps
  | e0 :: r =>
    let q := r.foldl (fun a b => if a < b then b else a) e0 - 48
    ps.map (fun p => match p with
      | .fin s m e => .fin s (roundMul 2 s m e q).1 q
      | .inf s => .inf s
      | .nan s k f => .nan s k f)

/-- Sum of the products of a group (R51, R53). -/
def groupSum (ps : List FV) : FV :=
  if ps.any FV.isNan then .nan false true 0
  else
    let pos := ps.contains (.inf false)
    let neg := ps.contains (.inf true)
    if pos && neg then .nan false true 0
    else if pos then .inf false
    else if neg then .inf true
    else
      let (v, e) := ps.foldl (fun (a : Int × Int) p => match p with
        | .fin s m x => finSum (decide (a.1 < 0)) a.1.natAbs a.2 s m x
        | .inf _ | .nan .. => a) ((0 : Int), (0 : Int))
      .fin (decide (v < 0)) v.natAbs e

/-- A scale: E8M0 (R37, R53). -/
def e8m0 (x : Nat) : FV := if x = 255 then .nan false true 0 else .fin false 1 ((x : Int) - 127)

/-- C ← RNE(C + V) (R51): an exact zero V is +0, and every NaN is 0x7FC0_0000. -/
def promote (c : Nat) (v : FV) : Nat :=
  let t := fmtOf 14
  let x := t.decode c
  if x.isNan || v.isNan then t.canonNan
  else (t.sum 1 x (if v.isZero then .fin false 0 0 else v)).bits

/-- The bytes of an operand in a K-step: rows of element patterns, and whether a poisoned byte was read. -/
def State.fetchRows (s : State) (w lvl a rows es lo hi : Nat) : List (List Nat) × Bool :=
  let i := s.clusInst w
  let row := fun (r : Nat) =>
    let xs := s.opLocs w lvl a ((List.range (hi - lo)).map (fun d => canonAt r (lo + d)))
    let bs := xs.map (fun x => match x with
      | some x => s.ms.readByte i .matrix x
      | none => 0#8)
    ((List.range ((hi - lo) / es)).map (fun j => leNat ((bs.drop (j * es)).take es)),
      xs.any (fun x => match x with
        | some x => s.ms.poisoned x
        | none => false))
  let l := (List.range rows).map row
  (l.map Prod.fst, l.any Prod.snd)

/-- An n-byte number of the scale region, as Dahlia reads it: matrix-class reads at its cluster (R82, R220). -/
def State.scaleNum (s : State) (w n b : Nat) : Nat := leNat (s.ms.read (s.clusInst w) .matrix (locs (locScl w b) n))

/-- The scales of a group for a row and a column (R220). -/
def State.scales (s : State) (w : Nat) (t : BitVec 512) (g m n : Nat) : FV × FV :=
  match tSmode t with
  | 1 => ((fmtOf 14).decode (s.scaleNum w 4 (tSaoff t + 512 * g + 4 * m)), (fmtOf 14).decode (s.scaleNum w 4 (tSboff t + 4 * g)))
  | 2 => (e8m0 (s.scaleNum w 1 (tSaoff t + 128 * g + m)), e8m0 (s.scaleNum w 1 (tSboff t + 128 * g + n)))
  | _ => (.fin false 1 0, .fin false 1 0)

/-- Accumulator word after the groups of a K-step: first element of the K-step, the row of A, the row of B. -/
def State.mmaWord (s : State) (w : Nat) (t : BitVec 512) (k0 m n : Nat) (as bs : List Nat) : BitVec 32 :=
  let key := (tAccrow t + m) * 128 + n
  let c := Tab.get (s.wg w).acc key
  if tAtype t = 4 then
    let sum : Int := (as.zip bs).foldl (fun (x : Int) p => x + sextN 8 p.1 * sextN 8 p.2) 0
    c + BitVec.ofInt 32 sum
  else
    let gl := tGroup t
    let ng := (as.length + gl - 1) / gl
    let fa := fmtOf (opType (tAtype t))
    let fb := fmtOf (opType (tBtype t))
    BitVec.ofNat 32 ((List.range ng).foldl (fun (c : Nat) j =>
      let ps := ((as.drop (j * gl)).take gl).zip ((bs.drop (j * gl)).take gl) |>.map (fun p => elProd (fa.decode p.1) (fb.decode p.2))
      let sum := groupSum (if tAtype t = 2 then truncate ps else ps)
      let (x, y) := s.scales w t (k0 / gl + j) m n
      promote c (elProd (elProd sum x) y)) c.toNat)

/-- The multicast copies of one operand in a K-step (R222). -/
def State.multicast (s : State) (w mask moff lvl a rows lo hi : Nat) : State :=
  let rel := canonBytes rows lo hi
  let i := s.clusInst w
  let bs := (s.opLocs w lvl a rel).map (fun x => match x with
    | some x => s.ms.readByte i .matrix x
    | none => 0#8)
  (membersOf mask).foldl (fun s j =>
    match s.memberOf w j with
    | none => s
    | some v => s.put w i .matrix 64 (rel.map (fun b => locCst v (moff + b))) bs) s

/-- MMA: one K-step of the task in service (R222); a task without K-steps is finished at once. -/
def execMma (clus : Nat) (s : State) : Host.Outcome State Fault Refusal :=
  match s.serving clus 0 with
  | none => .next s
  | some (w, x) =>
    let t := x.record
    if tSteps t ≤ x.kstep then .next (s.modHead w (fun x => { x with done := true }))
    else
      let es := tEs t
      let lo := x.kstep * 384
      let hi := Nat.min (lo + 384) (tRowBytes t)
      let k0 := lo / es
      let (as, badA) := s.fetchRows w (tAlvl t) (tAaddr t) (tM t) es lo hi
      let (bs, badB) := s.fetchRows w (tBlvl t) (tBaddr t) (tN t) es lo hi
      let gl := tGroup t
      let sb := scaleBytes t (k0 / gl) (Nat.min (tGroups t) ((k0 + 384 / es) / gl))
      if badA || badB || sb.any (fun b => s.ms.poisoned (locScl w b)) then .next (s.dahliaPoison w)
      else
        let s := s.multicast w (tAmask t) (tAmoff t) (tAlvl t) (tAaddr t) (tM t) lo hi
        let s := s.multicast w (tBmask t) (tBmoff t) (tBlvl t) (tBaddr t) (tN t) lo hi
        let upd := (List.range (tM t)).flatMap (fun m => (List.range (tN t)).map (fun n =>
          ((tAccrow t + m) * 128 + n, s.mmaWord w t k0 m n (as.getD m []) (bs.getD n []))))
        let s := s.modWg w (fun r => { r with acc := upd.foldl (fun a e => Tab.set a e.1 e.2) r.acc })
        .next (s.modHead w (fun x => { x with kstep := x.kstep + 1, done := decide (tSteps t ≤ x.kstep + 1) }))

/-! ## MZERO, MLOAD, MDRAIN, MWAIT (R223, R224) -/

/-- The elements of a task. -/
def taskElems (t : BitVec 512) : List (Nat × Nat) := (List.range (tM t)).flatMap (fun m => (List.range (tN t)).map (fun n => (m, n)))

/-- The accumulator key of an element. -/
def accKey (t : BitVec 512) (e : Nat × Nat) : Nat := (tAccrow t + e.1) * 128 + e.2

/-- The locations of a data element. -/
def State.dataLocs (s : State) (w : Nat) (t : BitVec 512) (e : Nat × Nat) : List (Option Nat) :=
  s.opLocs w (tAlvl t) (tAaddr t) ((List.range (tDsize t)).map (fun j => e.1 * tDpitch t + e.2 * tDsize t + j))

/-- MZERO (R223). -/
def execMzero (clus : Nat) (s : State) : Host.Outcome State Fault Refusal :=
  match s.serving clus 1 with
  | none => .next s
  | some (w, x) =>
    let s := s.modWg w (fun r => { r with acc := (taskElems x.record).foldl (fun a e => Tab.set a (accKey x.record e) 0#32) r.acc })
    .next (s.modHead w (fun x => { x with done := true }))

/-- What MLOAD makes of a data element. -/
def loadAcc (dt x : Nat) : BitVec 32 :=
  match dt with
  | 0 | 5 => BitVec.ofNat 32 x
  | 6 => BitVec.ofInt 32 (sextN 8 x)
  | _ => BitVec.ofNat 32 (fcvt (dataType dt) 14 1 false false 0 0 x).bits

/-- MLOAD (R223). -/
def execMload (clus : Nat) (s : State) : Host.Outcome State Fault Refusal :=
  match s.serving clus 2 with
  | none => .next s
  | some (w, x) =>
    let t := x.record
    let i := s.clusInst w
    let rows := (taskElems t).map (fun e => (accKey t e, s.dataLocs w t e))
    if rows.any (fun e => e.2.any (fun x => match x with
        | some x => s.ms.poisoned x
        | none => false)) then .next (s.dahliaPoison w)
    else
      let val := fun (xs : List (Option Nat)) => leNat (xs.map (fun x => match x with
        | some x => s.ms.readByte i .matrix x
        | none => 0#8))
      let s := s.modWg w (fun r => { r with acc := rows.foldl (fun a e => Tab.set a e.1 (loadAcc (tDtype t) (val e.2))) r.acc })
      .next (s.modHead w (fun x => { x with done := true }))

/-- What MDRAIN makes of an accumulator word. -/
def drainAcc (dt : Nat) (sat : Bool) (c : BitVec 32) : Nat :=
  match dt with
  | 0 | 5 => c.toNat
  | 6 => if sat then lowBits 8 (satInt 4 (sextN 32 c.toNat)) else c.toNat % 256
  | _ => (fcvt 14 (dataType dt) 1 sat false 0 0 c.toNat).bits

/-- MDRAIN (R223). -/
def execMdrain (clus : Nat) (s : State) : Host.Outcome State Fault Refusal :=
  match s.serving clus 3 with
  | none => .next s
  | some (w, x) =>
    let t := x.record
    let r := s.wg w
    let out := (taskElems t).flatMap (fun e =>
      ((s.dataLocs w t e).zip (leBytes (tDsize t) (drainAcc (tDtype t) (tDsat t) (Tab.get r.acc (accKey t e))))).filterMap
        (fun p => p.1.map (fun x => (x, p.2))))
    let s := s.put w (s.clusInst w) .matrix 64 (out.map Prod.fst) (out.map Prod.snd)
    .next (s.modHead w (fun x => { x with done := true }))

/-- MWAIT (R224, R245). -/
def execMwait (clus : Nat) (s : State) : Host.Outcome State Fault Refusal :=
  match s.serving clus 4 with
  | none => .next s
  | some (w, _) => .next (s.modHead w (fun x => { x with done := true }))

/-- TASK_COMPLETE (R225). -/
def execTaskComplete (clus : Nat) (s : State) : Host.Outcome State Fault Refusal :=
  match (s.engine clus).busy with
  | none => .next s
  | some w =>
    match (s.wg w).chain with
    | [] => .next s
    | t :: rest =>
      if !t.done then .next s
      else
        let s := s.modWg w (fun r => { r with chain := rest })
        let s := s.modEng clus (fun e => { e with busy := none })
        .next (if tSig t.record then s.addCell w (tScell t.record) (tSinc t.record) else s)

/-- DAHLIA_RESET (R247). -/
def execDahliaReset (clus : Nat) (s : State) : Host.Outcome State Fault Refusal :=
  let hit := (s.wgs.filter (fun e => clusterOf e.2.core == clus && (e.2.status == .running || e.2.status == .saving) &&
    !e.2.chain.isEmpty)).map Prod.fst
  let s := hit.foldl (fun s w => s.kill w 2 0 false (s.wid w 0 0) 0 0 0) s
  .next (s.modEng clus (fun e => { e with busy := none }))

end Sys2Proof.Machine
end

