-- ==== Sys2Proof/Machine/Claims.lean ====
section
/-! DEFINITION. Claims: CLAIM, the walk, the handshake (spec/19_isa_engines.md R227 to R231, spec/21_claims.md R236 to R239). -/

namespace Sys2Proof.Machine

/-! ## Flow spaces (R219, R220, R229, R230) -/

/-- Bytes of a packed MX block (R37). -/
def blockBytes (e : Nat) : Nat := if e = 0x16 then 16 else 24

/-- EFMT names an MX format; a packed one. -/
def isMx (e : Nat) : Bool := decide (0x12 ≤ e ∧ e ≤ 0x16)
def isPacked (e : Nat) : Bool := decide (0x14 ≤ e ∧ e ≤ 0x16)

/-- Bytes of a record's row (R230). -/
def rowBytes (d : BitVec 256) : Nat :=
  if isPacked (recEfmt d) then recExtent d / 32 * blockBytes (recEfmt d) else recExtent d * esize (recEfmt d)

/-- Bytes of a record's flow space. -/
def flowBytes (d : BitVec 256) : Nat := recRows d * rowBytes d

/-- What is added to BASE for a byte of the flow space (R230). -/
def flowSum (d : BitVec 256) (b : Nat) : Nat :=
  let w := rowBytes d
  if w = 0 then b else b / w * recRowstride d + swizzle d (b / w) (b % w)

/-- Address of a byte of the flow space: virtual, or a scratch address with its OFFSET advanced. -/
def flowAddr (d : BitVec 256) (b : Nat) : Nat × Bool :=
  match kindLevel (recKind d) with
  | some lvl => scratchAdv lvl (recBase d) (flowSum d b : Nat)
  | none => (recBase d + flowSum d b, true)

/-- Bytes of one canonical element of an expand claim, and its K-steps (R229). -/
def expandEs (d : BitVec 256) : Nat := esize (recEfmt d)
def expandSteps (d : BitVec 256) : Nat := (recExtent d * expandEs d + 383) / 384

/-- The bytes of a source element (r, k): first byte of the flow space and how many (R37). A packed element is read with its
whole block. -/
def elemBytes (d : BitVec 256) (r k : Nat) : Nat × Nat :=
  let e := recEfmt d
  if isPacked e then (r * rowBytes d + k / 32 * blockBytes e, blockBytes e)
  else (r * rowBytes d + k * esize e, esize e)

/-- The pattern of element k in the bytes that elemBytes names (R37). -/
def elemOf (d : BitVec 256) (k x : Nat) : Nat :=
  match recEfmt d with
  | 0x14 | 0x15 => fld x (6 * (k % 32)) 6
  | 0x16 => fld x (4 * (k % 32)) 4
  | _ => x

/-- The size of one canonical scale entry of an option (R220), and the group and row at an entry's place. -/
def scaleUnit (opt : Nat) : Nat := if opt = 2 then 1 else 4
def scaleEntry (opt b : Nat) : Nat × Nat :=
  match opt with
  | 0 => (b / 512, b % 512 / 4)
  | 1 => (b / 4, 0)
  | _ => (b / 128, b % 128)

/-- The alignment of off and len (R229). -/
def Slot.align (x : Slot) : Nat :=
  match x.kind.toNat with
  | 1 => 49152
  | 2 => (match x.opt.toNat with
    | 0 => 512
    | 1 => 4
    | _ => 128)
  | 3 => Nat.max (rowBytes x.ds) 1
  | 5 => Nat.max (esize (recEfmt x.dd)) 1
  | _ => 1

/-! ## The checks of CLAIM (R231) -/

/-- Kinds of the copy source column; of a copy destination. -/
def srcKinds : List Nat := [0x01, 0x02, 0x03, 0x11, 0x20, 0x21, 0x22]
def dstKinds : List Nat := [0x01, 0x02, 0x03, 0x20, 0x21, 0x22]

/-- The pair of formats is one that R229 and R230 accept. -/
def formatsOk (kind opt : Nat) (s d : BitVec 256) : Bool :=
  let a := recEfmt s
  let b := recEfmt d
  let packOk := fun (x : BitVec 256) => !isPacked (recEfmt x) || recExtent x % 32 == 0
  match kind with
  | 0 => packOk s && packOk d && ((!isMx a && !isMx b) || a == b)
  | 1 =>
      packOk s && [0x0C, 0x0D, 0x10, 0x11, 0x12, 0x13, 0x14, 0x15, 0x16].contains a && [0x0C, 0x0D, 0x10, 0x11].contains b &&
      (a == b || ((a == 0x12 || a == 0x13) && b + 2 == a) || (isPacked a && (b == 0x10 || b == 0x11)) ||
        -- widening from a narrower floating type (R47, R115)
        (decide (0x10 ≤ a) && (b == 0x0C || b == 0x0D)))
  | 2 => if opt < 2 then a == 0x0E else (a == 0x00 || a == 0x08)
  | 3 | 4 => packOk s && packOk d
  | _ => a == b && ((opt == 0 && a == 0x0E) || (opt == 1 && a == 0x0D) || (opt == 2 && (a == 0x0E || a == 0x0D)))

/-- An expand flow that widens .mxe2m3 into E5M2 delivers E4M3 instead (R38). -/
def expandTo (s d : BitVec 256) : Nat := if recEfmt s = 0x15 ∧ recEfmt d = 0x11 then 0x10 else recEfmt d

/-- Check 2: the flow space of either record is compared with LEN, but for the source of an expand claim. -/
def State.claimBad (s : State) (w : Nat) (x : Slot) : Bool :=
  let kind := x.kind.toNat
  let opt := x.opt.toNat
  decide (6 ≤ kind) || (decide (kind = 2 ∨ kind = 5) && opt == 3) || x.len == 0 || decide (0x1000000 < x.len) ||
  (match kind with
   | 1 => decide (expandSteps x.dd * 49152 < x.len) || x.len % 49152 != 0
   | 2 => decide (flowBytes x.ds < x.len) || x.vo.toNat % 64 != 0 || decide (hdrScalek (s.hdr w) * 1024 < x.vo.toNat + x.len)
   | 3 => decide (flowBytes x.ds < x.len) || decide (flowBytes x.dd < x.len) || decide (0x1000000 < flowBytes x.ds)
   | _ => decide (flowBytes x.ds < x.len) || decide (flowBytes x.dd < x.len)) ||
  !formatsOk kind opt x.ds x.dd

/-- The claim needs dS's linked record, or dD's (R227). -/
def Slot.linkS (x : Slot) : Bool := x.kind == 3#3 || (x.kind == 0#3 && isMx (recEfmt x.ds))
def Slot.linkD (x : Slot) : Bool := x.kind == 0#3 && isMx (recEfmt x.dd)

/-- The index record of a gather claim has no element for some row of the destination (R227, log 34). -/
def Slot.idxShort (x : Slot) : Bool := x.kind == 3#3 && decide (recRows x.ls * recExtent x.ls * Nat.max (rowBytes x.ds) 1 < x.len)

/-- The scale record of an MX record has no element for some block of the covered bytes: it is unsuitable (R227, log 34). -/
def scaleShort (d l : BitVec 256) (len : Nat) : Bool :=
  let w := Nat.max (rowBytes d) 1
  let blk := if isPacked (recEfmt d) then blockBytes (recEfmt d) else 32
  decide (recRows l ≤ (len - 1) / w) || decide (recExtent l ≤ (Nat.min len w - 1) / blk)

/-- Check 4: cause and tinfo. -/
def Slot.kindTrap (x : Slot) (linkS linkD : Bool) : Option (Nat × Nat) :=
  let ks := recKind x.ds
  let kd := recKind x.dd
  let kind := x.kind.toNat
  let perm := fun (d : BitVec 256) => some (cCLAIMPERM, recBase d)
  let dOk := if kind = 2 then true else if kind = 1 then kd == 0x20 || kd == 0x21 else if 4 ≤ kind then kd == 0x10 else dstKinds.contains kd
  let idx := recEfmt x.ls
  if ks = 0x10 then perm x.ds
  else if !srcKinds.contains ks then some (cBADRECORD, 0)
  else if kind ≠ 2 ∧ kd = 0x11 then perm x.dd
  else if !dOk then some (cBADRECORD, 0)
  else if !recR x.ds then perm x.ds
  else if kind ≠ 2 ∧ !recW x.dd then perm x.dd
  else if x.linkS then
    if !linkS || !srcKinds.contains (recKind x.ls) || !(if kind = 3 then idx == 0x0A else idx == 0 || idx == 8) ||
        x.idxShort || (kind == 0 && scaleShort x.ds x.ls x.len) then some (cBADRECORD, 3)
    else if !recR x.ls then perm x.ls
    else if x.linkD then
      if !linkD || !dstKinds.contains (recKind x.ld) || !(recEfmt x.ld == 0 || recEfmt x.ld == 8) ||
          scaleShort x.dd x.ld x.len then some (cBADRECORD, 3)
      else if !recW x.ld then perm x.ld
      else none
    else none
  else none

/-- The linked record of a record, and whether its link is valid. -/
def Gang.linked (g : Gang) (d : BitVec 256) : BitVec 256 × Bool :=
  let ix := recScaleix d
  if ix / 2 ^ 15 % 2 = 1 then (g.dGet (ix % 16), true) else (0, false)

/-- Claim slots of a workgroup. -/
def State.claims (s : State) (w : Nat) : Nat := hdrClaims (s.hdr w)

/-- A slot changed. -/
def State.modSlot (s : State) (w n : Nat) (f : Slot → Slot) : State :=
  s.modWg w (fun r => { r with slots := Tab.modify r.slots n f })

/-- The barrier object of a claim (R228). -/
def objOf (w : Nat) (x : Slot) : Nat := if x.blvl then locKst w x.boff.toNat else locCst w x.boff.toNat

/-- Check 3: cause and tinfo. -/
def State.linkBad (s : State) (w : Nat) (x : Slot) : Option (Nat × Nat) :=
  if !x.bl then none
  else if x.boff.toNat % 16 ≠ 0 then some (cILLEGAL, 6)
  else
    let lim := (if x.blvl then hdrKstk (s.hdr w) else hdrCstk (s.hdr w)) * 1024
    if lim < x.boff.toNat + 16 then some (cBUDGET, x.boff.toNat) else none

/-- The slot as CLAIM would fill it, with whether its links are valid. -/
def Issue.newSlot (c : Issue) (g : Gang) : Slot × Bool × Bool :=
  let kind := c.w.xb % 8
  let opt := if kind = 2 ∨ kind = 5 then c.w.xb / 8 % 4 else 0
  let ds := g.dGet (nameOf c.w.sa 4)
  let dd := if kind = 2 then 0 else g.dGet (nameOf c.w.sb 4)
  let (ls, okS) := g.linked ds
  let (ld, okD) := g.linked dd
  let l := (g.src c.low c.w.sc).toNat
  ({ st := .walking, why := 0, kind := BitVec.ofNat 3 kind, opt := BitVec.ofNat 2 opt, bl := fld l 63 1 == 1,
     blvl := fld l 62 1 == 1, boff := BitVec.ofNat 24 (fld l 32 24), len := fld l 0 25, ds := ds, dd := dd, ls := ls, ld := ld,
     vo := if kind = 2 then g.src c.low c.w.sb else 0, pins := [], hands := [], staged := false }, okS, okD)

/-- The slot goes to WALKING: the earlier claim's resources return (R236). -/
def State.beginWalk (s : State) (w n : Nat) (x : Slot) : State := (s.returnClaim w n).modSlot w n (fun _ => x)

/-- CLAIM (R231). -/
def execClaim (w : FullWord) (s : State) : Host.Outcome State Fault Refusal :=
  runWord 0xD2 w s (fun c s =>
    let g := c.g s
    let vals := fun (i : Nat) => g.src i w.sc :: (if w.xb % 8 = 2 then [g.src i w.sb] else [])
    let s := c.uniform vals s
    let n := c.dstName 6
    let (x, okS, okD) := c.newSlot g
    let st := (Tab.get (s.wg c.wg).slots n).st
    -- the fallbacks come before the checks (R124)
    let s := if fld (g.src c.low w.sc).toNat 25 7 ≠ 0 then c.warn wFIELD s else s
    let s := if x.kind = 1 ∧ expandTo x.ds x.dd ≠ recEfmt x.dd then c.warn wSUBST s else s
    if s.claims c.wg ≤ n then c.trapAct cBUDGET n s
    else if s.claimBad c.wg x then c.illegal6 s
    else
      match s.linkBad c.wg x with
      | some (cause, tinfo) => c.trapAct cause tinfo s
      | none =>
        match x.kindTrap okS okD with
        | some (cause, tinfo) => c.trapAct cause tinfo s
        | none =>
          if st = .walking ∨ st = .live then c.illegal6 s
          else if ((s.wg c.wg).flowsOf n).isEmpty then c.park c.lanes c.act (.walk n none) none (s.beginWalk c.wg n x)
          else c.park c.lanes c.act (.claimWait n x) none s)

/-! ## The walk (R237, R239) -/

/-- What a walk touches: flow-space bytes of a record, source or destination. -/
structure Side where
  d   : BitVec 256
  dst : Bool
  bs  : List Nat
  deriving DecidableEq, Repr, Inhabited

/-- The elements of a source that an expand claim's covered canonical elements name. -/
def expandElems (x : Slot) : List (Nat × Nat) :=
  let ks := Nat.min (recExtent x.ds) (x.len / 49152 * 384 / Nat.max (expandEs x.dd) 1)
  (List.range (Nat.min 128 (recRows x.ds))).flatMap (fun r => (List.range ks).map (fun k => (r, k)))

/-- A scales claim's entry (g, i) has a source element. -/
def scaleHas (x : Slot) (g i : Nat) : Bool :=
  if x.opt = 1 then decide (g < recExtent x.ds) else decide (i < recRows x.ds ∧ g < recExtent x.ds)

/-- The source element of a scale entry. -/
def scaleSrc (x : Slot) (e : Nat × Nat) : Nat × Nat := if x.opt = 1 then (0, e.1) else (e.2, e.1)

/-- The entries of a range of canonical scale bytes. -/
def scaleEntries (x : Slot) (lo n : Nat) : List (Nat × (Nat × Nat)) :=
  let u := scaleUnit x.opt.toNat
  ((List.range (n / u)).map (fun j => (lo + j * u, scaleEntry x.opt.toNat (lo + j * u))))

/-- Blocks of 32 elements that a byte range of an MX record touches, as flow-space bytes of the linked scale record: element
(r, ⌊e ÷ 32⌋) (R227). -/
def scaleOf (d l : BitVec 256) (b : Nat) : Nat :=
  let e := recEfmt d
  let w := Nat.max (rowBytes d) 1
  let blk := if isPacked e then b % w / blockBytes e else b % w / 32
  b / w * rowBytes l + blk

/-- Distinct scale bytes of a byte range. -/
def scalesOf (d l : BitVec 256) (lo n : Nat) : List Nat := ascending ((List.range n).map (fun j => scaleOf d l (lo + j)))

/-- The sides of a claim, source first (R237 step 1). -/
def Slot.sides (x : Slot) : List Side :=
  let all := List.range x.len
  let span := fun (d : BitVec 256) (l : List (Nat × Nat)) =>
    ascending (l.flatMap (fun e => let (a, n) := elemBytes d e.1 e.2; (List.range n).map (a + ·)))
  match x.kind.toNat with
  | 0 =>
      [{ d := x.ds, dst := false, bs := all }] ++
      (if x.linkS then [{ d := x.ls, dst := false, bs := scalesOf x.ds x.ls 0 x.len }] else []) ++
      [{ d := x.dd, dst := true, bs := all }] ++
      (if x.linkD then [{ d := x.ld, dst := true, bs := scalesOf x.dd x.ld 0 x.len }] else [])
  | 1 => [{ d := x.ds, dst := false, bs := span x.ds (expandElems x) }]
  | 2 =>
      [{ d := x.ds, dst := false,
         bs := span x.ds (((scaleEntries x 0 x.len).filter (fun e => scaleHas x e.2.1 e.2.2)).map (fun e => scaleSrc x e.2)) }]
  | 3 =>
      [{ d := x.ds, dst := false, bs := List.range (flowBytes x.ds) }, { d := x.ls, dst := false, bs := List.range (flowBytes x.ls) },
       { d := x.dd, dst := true, bs := all }]
  | _ => [{ d := x.ds, dst := false, bs := all }, { d := x.dd, dst := true, bs := all }]

/-- The canonical destination of an expand claim lies in one region (R219, R237). -/
def State.expandBad (s : State) (w : Nat) (x : Slot) : Option (Nat × Nat) :=
  if x.kind ≠ 1 then none
  else
    match kindLevel (recKind x.dd) with
    | none => none
    | some lvl => if s.scratch w lvl (recBase x.dd) x.len = .bad then some (scrCause lvl, recBase x.dd) else none

/-- The scratch checks of a side: cause and address. -/
def State.sideBad (s : State) (w : Nat) (e : Side) : Option (Nat × Nat) :=
  match kindLevel (recKind e.d) with
  | none => none
  | some lvl => ((e.bs.map (flowAddr e.d)).find? (fun a => s.scratchAt w lvl a 1 == .bad)).map (fun a => (scrCause lvl, a.1))

/-- A page that a claim touches: its lowest byte that the claim names, the record kind that reaches it, the side. -/
structure Touch where
  addr : Nat
  kind : Nat
  dst  : Bool
  deriving DecidableEq, Repr, Inhabited

def Touch.page (t : Touch) : Nat := t.addr / 4096

/-- The line of a touched page that a report names (R299). -/
def Touch.line (t : Touch) : Nat := t.addr / 64 * 64

/-- One more byte among the touched pages, which ascend. -/
def insTouch (t : Touch) : List Touch → List Touch
  | [] => [t]
  | u :: l =>
    if u.page = t.page ∧ u.kind = t.kind then (if t.addr < u.addr then t else u) :: l
    else if t.page < u.page then t :: u :: l
    else u :: insTouch t l

/-- The bytes of a side as touched pages; scratch has none. -/
def Side.touches (e : Side) : List Touch :=
  match kindLevel (recKind e.d) with
  | some _ => []
  | none => e.bs.map (fun b => { addr := (flowAddr e.d b).1, kind := recKind e.d, dst := e.dst })

/-- The virtual pages of some sides together, in ascending order (R237 step 1). -/
def pagesOf (l : List Side) : List Touch := (l.flatMap Side.touches).foldl (fun acc t => insTouch t acc) []

/-- How a pass of the walk ends. -/
inductive WalkEnd where
  | go
  /-- Park with a reason of R299 at an address (R239); host: the stage. -/
  | park (reason : Nat) (host wr : Bool) (addr : Nat)
  /-- A trap with a cause. -/
  | bad (cause addr : Nat)
  | dirty (gpa : Nat)
  | corrupt
  deriving DecidableEq, Repr, Inhabited

/-- A page is pinned by the slot. -/
def Slot.hasPin (x : Slot) (page : Nat) (dst : Bool) : Bool := x.pins.any (fun p => p.vpage == page && p.dst == dst)

/-- Step 1 for some pages: translate and pin (R237). -/
def State.pinPages (s : State) (w n : Nat) : List Touch → WalkEnd × State
  | [] => (.go, s)
  | t :: rest =>
    if (Tab.get (s.wg w).slots n).hasPin t.page t.dst then s.pinPages w n rest
    else if 2 ^ 45 ≤ t.page then (.bad cCLAIMPERM t.addr, s)
    else
      let (x, s) := s.translate (s.ctxKey w) (t.page * 4096) { rd := false, wr := false, kind := t.kind }
      match x with
      | .corrupt => (.corrupt, s)
      | .fault _ true => (.bad cCLAIMPERM t.addr, s)
      | .fault host false => (.park 1 host t.dst t.line, s)
      | .dirtyFull gpa => (.dirty gpa, s)
      | .ok pa gpa disc =>
          let row := s.tlbRow (s.ctxKey w) t.page
          let pin : Pin := { vpage := t.page, gpage := gpa / 4096, frame := pa / 4096, gbits := row.gbits, hbits := row.hbits,
                             disc := disc.isSome, dst := t.dst }
          (s.modSlot w n (fun y => { y with pins := y.pins ++ [pin] })).pinPages w n rest

/-- Step 2: permissions (R237). A guest-stage table that the device may not mark is a host-stage fault (R71). -/
def State.permPages (s : State) (w : Nat) : List Touch → WalkEnd
  | [] => .go
  | t :: rest =>
    match (s.translate (s.ctxKey w) (t.page * 4096) { rd := !t.dst, wr := t.dst, kind := t.kind }).1 with
    | .corrupt => .corrupt
    | .fault _ true => .bad cCLAIMPERM t.addr
    | .fault host false => .park 1 host t.dst t.line
    | .dirtyFull _ | .ok .. => s.permPages w rest

/-- Step 3: D and the dirty log of destination pages (R75, R237). Entries are appended until the ring is full; then the walk parks (log 81). -/
def State.dirtyPages (s : State) (w : Nat) : List Touch → WalkEnd × State
  | [] => (.go, s)
  | t :: rest =>
    let (x, s) := s.translate (s.ctxKey w) (t.page * 4096) { rd := false, wr := true, kind := t.kind }
    match x with
    | .corrupt => (.corrupt, s)
    | .fault _ true => (.bad cCLAIMPERM t.addr, s)
    | .fault host false => (.park 1 host true t.line, s)
    | .dirtyFull gpa => (.dirty gpa, s)
    | .ok _ _ (some host) => (.park 2 host true t.line, s)
    | .ok _ _ none => s.dirtyPages w rest

/-- Step 1 on some sides: their scratch checks, then their pages pinned (log 101). -/
def State.walkSides (s : State) (w n : Nat) (l : List Side) : WalkEnd × State :=
  match l.findSome? (s.sideBad w) with
  | some (cause, addr) => (.bad cause addr, s)
  | none => s.pinPages w n (pagesOf l)

/-- The sides of one end of a claim. -/
def Slot.sidesAt (x : Slot) (dst : Bool) : List Side := x.sides.filter (fun e => e.dst == dst)

/-- Step 1: the source first, then the destination, that of an expand claim included. -/
def State.walkFirst (s : State) (w n : Nat) : WalkEnd × State :=
  let x := Tab.get (s.wg w).slots n
  match s.walkSides w n (x.sidesAt false) with
  | (.go, s) =>
      (match s.walkSides w n (x.sidesAt true) with
       | (.go, s) =>
           (match s.expandBad w x with
            | some (cause, addr) => (.bad cause addr, s)
            | none => (.go, s))
       | r => r)
  | r => r

/-- Steps 1 to 3 of R237 on the bytes of a claim. -/
def State.walkPages (s : State) (w n : Nat) : WalkEnd × State :=
  let x := Tab.get (s.wg w).slots n
  let dst := pagesOf (x.sidesAt true)
  match s.walkFirst w n with
  | (.go, s) =>
      (match s.permPages w (pagesOf (x.sidesAt false) ++ dst) with
       | .go => s.dirtyPages w dst
       | r => (r, s))
  | r => r

/-- The park of the CLAIM that walks a slot, in force: its gang and the park. -/
def State.claimant (s : State) (w n : Nat) : Option (Nat × Park) :=
  if (s.wg w).status ≠ .running then none
  else
    ((s.wg w).gangs.flatMap (fun e => e.2.parks.map (fun p => (e.1, p)))).find? (fun e => match e.2.why with
      | .walk m _ => m == n
      | _ => false)

/-- What the CLAIM waits for is changed. -/
def State.holdWalk (s : State) (w g id : Nat) (held : Option (BitVec 8 × Word × Nat)) : State :=
  s.modGang w g (fun y => { y with parks := y.parks.map (fun p =>
    if p.id = id then (match p.why with
      | .walk n _ => { p with why := .walk n held, since := if held.isSome then s.cycle else p.since }
      | _ => p) else p) })

/-- The walk ends in a trap: the slot is FREE, everything returned (R236). -/
def State.walkTrap (s : State) (w n g : Nat) (p : Park) (cause tinfo : Nat) : State :=
  let s := (s.returnClaim w n).modSlot w n (fun x => { x with st := .free })
  s.trapAt w g p cause p.act (word tinfo)

/-- The walk parks with a report (R239). -/
def State.walkPark (s : State) (w g : Nat) (p : Park) (queue : FaultQueue) (reason : Nat) (host wr : Bool) (addr : Nat) : State :=
  let (num, s) := s.report queue reason host wr (word addr) w g p.id p.act
  s.holdWalk w g p.id (some (BitVec.ofNat 8 reason, word addr, num))

/-- The destination's first byte within its window (R238), as an address software sees. -/
def Slot.winOff (x : Slot) : Nat :=
  let va := (flowAddr x.dd 0).1
  match x.pins.find? (fun p => p.dst && p.vpage == va / 4096) with
  | some p => (p.frame * 4096 + va % 4096) % 2 ^ 32
  | none => 0

/-- The packages of a window's members. -/
def txMembers (e : BitVec 256) : List Nat := (List.range (txCount e)).map (txMember e)

/-- A member is asked for a credit (R238): a HAND goes out under a number of its own. -/
def State.askHand (s : State) (w n : Nat) (e : BitVec 256) (pkg : Nat) : State :=
  let x := Tab.get (s.wg w).slots n
  let ask := s.fab.nextAsk
  let s := s.modFab (fun f => { f with nextAsk := ask + 1 })
  let s := s.sendHand (s.txPod e) pkg (s.ctxid (s.ctxKey w)) (txRwin e) x.winOff x.len false ask
  s.modSlot w n (fun x => { x with hands := x.hands ++ [{ pkg := BitVec.ofNat 9 pkg, asked := true, granted := false, ask := ask }] })

/-- A hand of the slot is that of a package. -/
def Slot.hasHand (x : Slot) (pkg : Nat) : Bool := x.hands.any (fun h => h.pkg.toNat == pkg)

/-- The members of the destination window that have not been asked yet are asked. -/
def State.askHands (s : State) (w n : Nat) (e : BitVec 256) : State :=
  (txMembers e).foldl (fun s k => if (Tab.get (s.wg w).slots n).hasHand k then s else s.askHand w n e k) s

/-- The walk is over: the slot is LIVE and the split goes on (R236). -/
def State.goLive (s : State) (w n g : Nat) (p : Park) : State :=
  (s.modSlot w n (fun x => { x with st := .live })).continueAt w g p

/-- What the answers of a walk's members have come to (R238, R239): a refusal traps, grants of all of them end the walk. -/
def State.settleHands (s : State) (w n g : Nat) (p : Park) : State :=
  let x := Tab.get (s.wg w).slots n
  if x.hands.any (fun h => h.refused != 0) then s.walkTrap w n g p cCLAIMPERM (recBase x.dd)
  else if (txMembers x.win).all (fun k => x.hands.any (fun h => h.pkg.toNat == k && h.granted)) then s.goLive w n g p
  else s

/-- The destination window's entry is found again after a page has been walked anew: requests made under another entry are given up. -/
def State.rebindWindow (s : State) (w n : Nat) (e : BitVec 256) : State :=
  let x := Tab.get (s.wg w).slots n
  if x.win = e then s
  else
    (s.releaseHands x.win (s.ctxid (s.ctxKey w)) x.len x.hands).modSlot w n (fun x => { x with win := e, hands := [] })

/-- Step 5 (R237, R238). -/
def State.walkHands (s : State) (w n g : Nat) (p : Park) : State :=
  let x := Tab.get (s.wg w).slots n
  let e := slotTxEntry s w x
  if !txValid e ∨ txSize e < x.winOff + x.len - 1 then s.walkTrap w n g p cCLAIMPERM (recBase x.dd)
  else if (txMembers e).any (fun k => !s.reachable (s.txPod e) k) then
    s.walkPark w g p (.guest (s.ctxKey w)) 3 false true (recBase x.dd)
  else ((s.rebindWindow w n e).askHands w n e).settleHands w n g p

/-- CLAIM_WALK (R237, R239): as far as it goes without a park. -/
def execClaimWalk (w n : Nat) (s : State) : Host.Outcome State Fault Refusal :=
  match s.claimant w n with
  | none => .next s
  | some (g, p) =>
    let held := match p.why with
      | .walk _ h => h.isSome
      | _ => false
    if held then .next s
    else
      -- a turn of R76 ends here
      let s := s.modGang w g (fun y => { y with parks := y.parks.map (fun z => if z.id = p.id then { z with ready := none } else z) })
      let x := Tab.get (s.wg w).slots n
      match s.walkPages w n with
      | (.corrupt, s) => .next (s.teardownAt 8 w g p.pc p.act)
      | (.bad cause a, s) => .next (s.walkTrap w n g p cause a)
      | (.park reason host wr a, s) => .next (s.walkPark w g p (s.stageQueue w host) reason host wr a)
      | (.dirty gpa, s) =>
          let vif := vifOf (s.ctxKey w)
          let s := if (s.vif vif).exitSent then s
            else
              ((s.report (.host vif) 4 true true (word (gpa / 4096 * 4096)) w g p.id p.act).2).modVif vif
                (fun v => { v with exitSent := true })
          .next (s.holdWalk w g p.id (some (4#8, word gpa, 0)))
      | (.go, s) =>
          let s := s.modSlot w n (fun x => { x with staged := true })
          if x.kind.toNat < 4 then .next (s.goLive w n g p) else .next (s.walkHands w n g p)

/-! ## The handshake (R238) -/

/-- Reassembly credits of a window unit. -/
def creditMax : Nat := 4096

/-- The answer to a HAND: 0 granted, or a code of R271. -/
def State.handCode (s : State) (h : Handshake) : Nat :=
  let e := Tab.get s.fab.rxw h.rwin.toNat
  if !rxValid e ∨ rxSize e < h.woff.toNat + h.len.toNat - 1 then 2
  else if !maskAgree h.sctx.toNat (rxPctx e) (rxPmsk e) then 1
  else 0

/-- The credit of a request goes (R238). -/
def dropCredit (h : Handshake) (l : List Credit) : List Credit :=
  l.filter (fun c => !(c.hand.pkg == h.pkg && c.hand.sctx == h.sctx && c.hand.ask == h.ask))

/-- Every slot, with its workgroup. -/
def State.allSlots (s : State) : List (Nat × Nat) := s.wgs.flatMap (fun e => e.2.slots.map (fun h => (e.1, h.1)))

/-- The slot that holds a hand which satisfies a test. -/
def State.slotWith (s : State) (p : Hand → Bool) : Option (Nat × Nat) :=
  s.allSlots.find? (fun e => (Tab.get (s.wg e.1).slots e.2).hands.any p)

/-- A hand is still to be answered. -/
def Hand.waits (h : Hand) : Bool := h.asked && !h.granted && h.refused == 0

/-- A walk of this package whose request finds no free credit parks with CREDIT (R239). -/
def State.holdCredit (s : State) (h : Handshake) : State :=
  match if s.isSelf (h.sctx.toNat / 2 ^ 25) h.pkg.toNat then s.slotWith (fun x => x.waits && x.ask == h.ask.toNat) else none with
  | none => s
  | some (w, n) =>
    match s.claimant w n with
    | none => s
    | some (g, p) => s.holdWalk w g p.id (some (5#8, word (recBase (Tab.get (s.wg w).slots n).dd), 0))

/-- CLAIM_HANDSHAKE (R238, R261): the serving window unit answers. With no free credit the handshake waits for one. -/
def execClaimHandshake (h : Handshake) (s : State) : Host.Outcome State Fault Refusal :=
  if h.release then .next ((s.modFab (fun f => { f with credits := dropCredit h f.credits })).answerHand h 0)
  else
    let die := s.servingDie h.rwin.toNat
    let code := s.handCode h
    let done := fun (s : State) => s.modFab (fun f => { f with hands := f.hands.filter (· != h) })
    let answer := fun (s : State) => (done s).answerHand h code
    if code ≠ 0 then .next (answer s)
    else if creditMax ≤ (s.fab.credits.filter (fun c => c.die == die)).length then
      .next (if s.fab.hands.contains h then s else (s.modFab (fun f => { f with hands := f.hands ++ [h] })).holdCredit h)
    else .next (answer (s.modFab (fun f => { f with credits := f.credits ++ [{ die := die, hand := { h with release := false } }] })))

/-- The answer of a member, as its hand keeps it. -/
def Hand.answered (h : Hand) (code : BitVec 8) : Hand := if code = 0 then { h with granted := true } else { h with refused := code }

/-- A walk of a slot that was parked with CREDIT goes on. -/
def State.freeWalk (s : State) (w n : Nat) : State :=
  s.mapParks (fun v _ p => match p.why with
    | .walk m (some (r, _, _)) => if v = w ∧ m = n ∧ r = 5#8 then { p with why := .walk m none } else p
    | _ => p)

/-- HANDSHAKE_RESPONSE (R238, R239): the slot keeps the answer whatever its gang does meanwhile; the walk goes on with it when it is in
force and its pages are pinned. -/
def execHandshakeResponse (w n pkg : Nat) (code : BitVec 8) (s : State) : Host.Outcome State Fault Refusal :=
  let x := Tab.get (s.wg w).slots n
  if x.st ≠ .walking ∨ !x.hands.any (fun h => h.pkg.toNat == pkg && h.waits) then .next s
  else
    let s := (s.modSlot w n (fun x => { x with hands := x.hands.map (fun h =>
      if h.pkg.toNat = pkg ∧ h.waits then h.answered code else h) })).freeWalk w n
    match s.claimant w n with
    | none => .next s
    | some (g, p) => .next (if (Tab.get (s.wg w).slots n).staged then s.settleHands w n g p else s)

/-- The answer to the request with a number: a credit granted under one that nobody waits for any more goes back. -/
def State.handAnswered (s : State) (pod pkg rwin : Nat) (sctx : BitVec 32) (ask : Nat) (code : BitVec 8) : State :=
  match s.slotWith (fun h => h.asked && h.ask == ask) with
  | some (w, n) =>
      (match execHandshakeResponse w n pkg code s with
       | .next t => t
       | .fault _ | .refused _ => s)
  | none => if code = 0 then s.sendHand pod pkg sctx rwin 0 0 true ask else s

/-- HANDSHAKE_TIMEOUT (R239): no answer within 10 µs: the walk parks with ROUTE, and asks again when the owner answers RETRY. A request
that waits for a credit here is parked with CREDIT instead; of one that waits elsewhere no timeout comes (log 62). -/
def execHandshakeTimeout (w n : Nat) (s : State) : Host.Outcome State Fault Refusal :=
  let x := Tab.get (s.wg w).slots n
  match s.claimant w n with
  | none => .next s
  | some (g, p) =>
    match p.why with
    | .walk _ none =>
        if x.staged ∧ x.hands.any (fun h => h.waits && !s.fab.hands.any (fun q => q.ask.toNat == h.ask && q.sctx == s.ctxid (s.ctxKey w))) then
          let s := s.modSlot w n (fun x => { x with hands := x.hands.filter (fun h => !h.waits) })
          .next (s.walkPark w g p (.guest (s.ctxKey w)) 3 false true (recBase x.dd))
        else .next s
    | _ => .next s

end Sys2Proof.Machine
end

