-- ==== Sys2Proof/Machine/Flows.lean ====
section
/-! DEFINITION. Flows: FLOW, CLREL, CLQRY, and Iris's steps (spec/19_isa_engines.md R230, R232 to R235, spec/21_claims.md R240 to
R244). -/

namespace Sys2Proof.Machine

/-! ## FLOW, CLREL, CLQRY (R232 to R235) -/

/-- Flows of a chain. -/
def flowMax : Nat := 64

/-- FLOW (R232). Its origin entry is written when it issues (R270; assumption 91). -/
def execFlow (w : FullWord) (s : State) : Host.Outcome State Fault Refusal :=
  runWord 0xD3 w s (fun c s =>
    let g := c.g s
    let s := c.uniform (fun i => [c.srcB g 64 i, g.src i w.sc]) s
    let n := nameOf w.sa 6
    let x := Tab.get (s.wg c.wg).slots n
    let o := (c.srcB g 64 c.low).toNat
    let l := (g.src c.low w.sc).toNat
    if s.claims c.wg ≤ n then c.trapAct cBUDGET n s
    else if x.st ≠ .live then c.donePred false s
    else if l = 0 ∨ 0x100000 < l ∨ x.len < o + l ∨ o % x.align ≠ 0 ∨ l % x.align ≠ 0 then c.illegal6 s
    else if flowMax ≤ (s.wg c.wg).flows.length then c.parkReplay c.act .flowFull s
    else
      -- an origin entry for packets, and for writes that the far device may refuse (R80, R270)
      let (org, s) := if 4 ≤ x.kind.toNat ∨ (x.kind ≠ 2 ∧ (recKind x.dd = 2 ∨ recKind x.dd = 3)) then c.origin s else (default, s)
      let cell := if w.xb / 32 % 2 = 1 then none else some (BitVec.ofNat 5 (w.xb % 32))
      c.donePred true (s.modWg c.wg (fun r => { r with
        flows := r.flows ++ [{ id := r.nextId, slot := n, off := o, len := l, cell := cell, started := false, org := org }]
        nextId := r.nextId + 1 })))

/-- CLREL (R234). -/
def execClrel (w : FullWord) (s : State) : Host.Outcome State Fault Refusal :=
  runWord 0xD4 w s (fun c s =>
    let n := c.dstName 6
    if s.claims c.wg ≤ n then c.trapAct cBUDGET n s
    else
      match (Tab.get (s.wg c.wg).slots n).st with
      | .walking => c.illegal6 s
      | .live | .lapsed => c.done ((s.modSlot c.wg n (fun x => { x with st := .released })).settleSlot c.wg n)
      | .free | .released => c.done s)

/-- STATE of the slot word (R235). -/
def SlotState.code : SlotState → Nat
  | .free => 0
  | .walking => 1
  | .live => 2
  | .lapsed => 3
  | .released => 4

/-- The slot's state word (R235). -/
def Slot.stateWord (x : Slot) (infl : Nat) : Word :=
  word (x.st.code * 2 ^ 61 + x.why.toNat * 2 ^ 56 + x.kind.toNat * 2 ^ 53 + bitN x.bl * 2 ^ 52 + infl % 2 ^ 7 * 2 ^ 45 + x.len % 2 ^ 25)

/-- CLQRY (R235). -/
def execClqry (w : FullWord) (s : State) : Host.Outcome State Fault Refusal :=
  runWord 0xD5 w s (fun c s =>
    let n := nameOf w.sa 6
    if s.claims c.wg ≤ n then c.trapAct cBUDGET n s
    else
      let r := s.wg c.wg
      c.done (c.putAll ((Tab.get r.slots n).stateWord (r.flowsOf n).length) s))

/-! ## Iris: moving the bytes of a flow (R230, R240) -/

/-- A byte of a flow: where it is read or written, by the pins of its claim. -/
def State.flowByte (s : State) (w : Nat) (x : Slot) (d : BitVec 256) (dst : Bool) (b : Nat) : Byt :=
  let a := flowAddr d b
  match kindLevel (recKind d) with
  | some lvl => (match s.scratchAt w lvl a 1 with
    | .loc y => .loc y
    | .void | .bad => .zero)
  | none =>
    match x.pins.find? (fun p => p.dst == dst && p.vpage == a.1 / 4096) with
    | none => .zero
    | some p =>
      let pa := p.frame * 4096 + a.1 % 4096
      if p.disc then .zero
      else if recKind d = 2 ∨ recKind d = 3 then (if dst then .host pa else .loc (locHost pa))
      else if recKind d = 0x10 then .win (Tab.get (s.vif (vifOf (s.ctxKey w))).txw (fld pa 32 12)) (pa % 2 ^ 32)
      else .loc (locHbm pa)

/-- Read a byte on the copy path, with its poison. -/
def State.readFlow (s : State) (w : Nat) (b : Byt) : Byte × Bool :=
  s.readCopy w (match b with
    | .loc y => some y
    | .zero | .host _ | .win .. => none)

/-- Write the bytes of a unit on the copy path, a block and its scale as one (R93); bytes of host memory go to the host port (R80). -/
def State.writeFlow (s : State) (w : Nat) (x : Slot) (f : Flow) (l : List (Byt × Byte × Bool)) : State :=
  let out := l.filterMap (fun e => match e.1 with
    | .loc y => some (y, e.2)
    | .zero | .host _ | .win .. => none)
  let s := s.writeCopy w out
  let s := if x.linkD then s.modMs (fun m => m.tieUnit (out.map Prod.fst)) else s
  (hostRuns (l.map (fun e => (e.1, e.2.1)))).foldl (fun s r =>
    s.modPrim (fun y => { y with
      posted := y.posted ++ [{ id := y.nextPosted, wg := w, gang := 0, lane := 0, addr := r.1, bytes := r.2,
                               pers := recKind x.dd == 3, ctx := s.ctxKey w, org := f.org, port := s.hport (vifOf (s.ctxKey w)),
                               flow := some (w, f.id) }]
      nextPosted := y.nextPosted + 1 })) s

/-- The value of an expand element in the destination's format (R38, R47). -/
def expandVal (a b : Nat) (x : Nat) : Nat :=
  if a = b ∨ (a = 0x12 ∧ b = 0x10) ∨ (a = 0x13 ∧ b = 0x11) then x else (fcvt a b 1 false false 0 0 x).bits

/-- ROP of a reduce option (R229, R258). -/
def ropOf (opt efmt : Nat) : Nat :=
  match opt with
  | 0 => 1
  | 1 => 2
  | _ => if efmt = 0x0E then 3 else 4

/-- Put a number into a list by a key. -/
def insBy (f : Nat → Nat) (x : Nat) : List Nat → List Nat
  | [] => [x]
  | y :: l => if f x ≤ f y then x :: y :: l else y :: insBy f x l

/-- Bytes of a flow space in ascending order of their addresses (R94). -/
def byAddress (d : BitVec 256) (off len : Nat) : List Nat :=
  ((List.range len).map (off + ·)).foldr (insBy (fun b => (flowAddr d b).1)) []

/-- Two bytes that follow each other go in one packet: neighbours in one window and one block of 1,024 bytes (R259). -/
def samePacket (a b : Byt) : Bool :=
  match a, b with
  | .win e o, .win e' o' => e == e' && o + 1 == o' && o' % 1024 != 0
  | .zero, _ | .loc _, _ | .host _, _ | .win .., .zero | .win .., .loc _ | .win .., .host _ => false

/-- PMASK of a packet's bytes: one bit for each 64 bytes of data (R258). -/
def pmaskOf (bs : List Bool) : BitVec 16 :=
  ((List.range bs.length).zip bs).foldl (fun (m : BitVec 16) e => if e.2 then m ||| BitVec.ofNat 16 (2 ^ (e.1 / 64)) else m) 0#16

/-- The bytes of a reflect or reduce flow in address order: where each goes, and its number. -/
def State.packetBytes (s : State) (w : Nat) (x : Slot) (f : Flow) : List (Byt × Nat) :=
  (byAddress x.dd f.off f.len).map (fun b => (s.flowByte w x x.dd true b, b))

/-- Bytes in address order cut into packets. -/
def packetRuns : List (Byt × Nat) → List (List Nat)
  | [] => []
  | [e] => [[2 * e.2]]
  | e :: e' :: l =>
    match packetRuns (e' :: l) with
    | [] => [[2 * e.2]]
    | r :: rs => if samePacket e.1 e'.1 then (2 * e.2 :: r) :: rs else [2 * e.2] :: r :: rs

/-- A packet's worth of data enters the queue of every member of a window (R94, R259). -/
def State.sendData (s : State) (key : Nat) (e : BitVec 256) (path kind off : Nat) (data : List (Byte × Bool)) (unit rop : Nat) (ord : Bool)
    (org : Origin) (flow : Option (Nat × Nat)) (svc : Option Nat) : State :=
  let ents : List Entry := (List.range (txCount e)).map (fun k =>
    { id := s.fab.nextId, key := s.queueOf key e path k, member := k, kind := BitVec.ofNat 6 kind, woff := off,
      bytes := data.map Prod.fst, unit := unit, pmask := pmaskOf (data.map Prod.snd), rop := BitVec.ofNat 4 rop, ord := ord, org := org,
      gang := none, flow := flow, svc := svc })
  s.modFab (fun y => { y with rq := y.rq ++ ents, nextId := y.nextId + 1 })

/-! ### What a flow reads and writes (R230)

The bytes of a flow have numbers: twice the byte of the flow space, and one more in the space of a linked record.  Of an expand flow's
destination the number is (canonical byte of the row) × 128 + row; the source bytes of a gathered row have the numbers of its
destination bytes. -/

/-- The scale bytes of a copy flow of an MX format in the two linked records, block by block (R93). -/
def Flow.scales (x : Slot) (f : Flow) : List (Nat × Nat) :=
  if x.linkS ∧ x.linkD then (scalesOf x.ds x.ls f.off f.len).zip (scalesOf x.dd x.ld f.off f.len) else []

/-- The canonical element of an expand flow's destination byte: row, element, byte of the element. -/
def expandAt (x : Slot) (b : Nat) : Nat × Nat × Nat :=
  let es := Nat.max (expandEs x.dd) 1
  (b % 128, b / 128 / es, b / 128 % es)

/-- The source element of row r and element k exists. -/
def expandHas (x : Slot) (r k : Nat) : Bool := decide (r < recRows x.ds ∧ k < recExtent x.ds)

/-- The canonical scale entry of a scales flow's byte: its group and row, and the byte of the entry. -/
def scaleAt (x : Slot) (b : Nat) : (Nat × Nat) × Nat := (scaleEntry x.opt.toNat b, b % scaleUnit x.opt.toNat)

/-- The index of a gathered row, once its bytes have been read: its value, and whether it carries poison. -/
def idxOf (got : Nat → Option (Byte × Bool)) (row : Nat) : Option (Nat × Bool) :=
  ((List.range 4).mapM (fun o => got (2 * (row * 4 + o) + 1))).map (fun l => (leNat (l.map Prod.fst), l.any Prod.snd))

/-- The numbers of the bytes that a flow reads; a gather flow reads its rows when it knows their indices. -/
def Flow.sources (x : Slot) (f : Flow) : List Nat :=
  let elems := fun (l : List (Nat × Nat)) =>
    (ascending (l.flatMap (fun e => let (a, n) := elemBytes x.ds e.1 e.2; (List.range n).map (a + ·)))).map (2 * ·)
  match x.kind.toNat with
  | 1 =>
      let n := 384 / Nat.max (expandEs x.dd) 1
      elems ((expandElems x).filter (fun e => decide (f.off / 49152 * n ≤ e.2 ∧ e.2 < (f.off + f.len) / 49152 * n)))
  | 2 => elems (((scaleEntries x f.off f.len).filter (fun e => scaleHas x e.2.1 e.2.2)).map (fun e => scaleSrc x e.2))
  | 3 => let wd := Nat.max (rowBytes x.ds) 1
         (List.range (f.len / wd * 4)).map (fun j => 2 * (f.off / wd * 4 + j) + 1)
  | _ => (List.range f.len).map (fun j => 2 * (f.off + j)) ++ (List.range (f.scales x).length).map (fun j => 2 * j + 1)

/-- Where a flow reads a byte. -/
def State.flowSrc (s : State) (w : Nat) (x : Slot) (f : Flow) (b : Nat) : Byt :=
  match x.kind.toNat, b % 2 with
  | 0, 1 => s.flowByte w x x.ls false (((f.scales x)[b / 2]?).map Prod.fst |>.getD 0)
  | 3, 1 => s.flowByte w x x.ls false (b / 2)
  | 3, _ =>
      let wd := Nat.max (rowBytes x.ds) 1
      (match idxOf (Tab.get f.mv.got) (b / 2 / wd) with
       | some (i, _) => s.flowByte w x x.ds false (i * wd + b / 2 % wd)
       | none => .zero)
  | _, _ => s.flowByte w x x.ds false (b / 2)

/-- The MX block of a byte of one end of a flow, or of its scale (R93). -/
def Flow.block (x : Slot) (f : Flow) (d l : BitVec 256) (scale : Nat × Nat → Nat) (b : Nat) : List Tag :=
  if !isMx (recEfmt d) then []
  else
    let o := if b % 2 = 1 then ((f.scales x)[b / 2]?).map scale |>.getD 0 else scaleOf d l (b / 2)
    [(1, o / Nat.max (rowBytes l) 1, o % Nat.max (rowBytes l) 1)]

/-- The tags of a byte that a flow reads: its 64-byte unit, and its MX block (R92, R93). -/
def State.srcTags (s : State) (w : Nat) (x : Slot) (f : Flow) (b : Nat) : List Tag :=
  (s.flowSrc w x f b).tags ++ (match x.kind.toNat with
    | 0 => f.block x x.ds x.ls Prod.fst b
    | 1 => if isMx (recEfmt x.ds) then
        let r := Nat.max (rowBytes x.ds) 1
        [(1, b / 2 / r, b / 2 % r / (if isPacked (recEfmt x.ds) then blockBytes (recEfmt x.ds) else 32))] else []
    | _ => [])

/-- The numbers of the bytes that a flow writes. -/
def Flow.targets (x : Slot) (f : Flow) : List Nat :=
  match x.kind.toNat with
  | 0 => f.sources x
  | 1 => (List.range 128).flatMap (fun r => (List.range (f.len / 49152 * 384)).map (fun j => (f.off / 49152 * 384 + j) * 128 + r))
  | _ => (List.range f.len).map (fun j => 2 * (f.off + j))

/-- Where a flow writes a byte (R219, R220, R230). A workgroup that has lost its regions takes no scales. -/
def State.flowDst (s : State) (w : Nat) (x : Slot) (f : Flow) (b : Nat) : Byt :=
  match x.kind.toNat, b % 2 with
  | 0, 1 => s.flowByte w x x.ld true (((f.scales x)[b / 2]?).map Prod.snd |>.getD 0)
  | 1, _ =>
      let lvl := (kindLevel (recKind x.dd)).getD 1
      (match s.scratchAt w lvl (scratchAdv lvl (recBase x.dd) (canonAt (b % 128) (b / 128) : Nat)) 1 with
       | .loc y => .loc y
       | .void | .bad => .zero)
  | 2, _ => if (s.wg w).hasRegion then .loc (locScl w (x.vo.toNat + b / 2)) else .zero
  | _, _ => s.flowByte w x x.dd true (b / 2)

/-- The tags of a byte that a flow writes. -/
def State.dstTags (s : State) (w : Nat) (x : Slot) (f : Flow) (b : Nat) : List Tag :=
  (s.flowDst w x f b).tags ++ (if x.kind = 0 then f.block x x.dd x.ld Prod.snd b else [])

/-- The value of a byte that a flow writes, once the source bytes it takes have been read (R219, R220, R230). -/
def flowVal (x : Slot) (got : Nat → Option (Byte × Bool)) (b : Nat) : Option (Byte × Bool) :=
  match x.kind.toNat with
  | 1 =>
      let (r, k, o) := expandAt x b
      if !expandHas x r k then some (0#8, false)
      else
        let (a, n) := elemBytes x.ds r k
        ((List.range n).mapM (fun i => got (2 * (a + i)))).map (fun l =>
          (((leBytes (Nat.max (expandEs x.dd) 1)
              (expandVal (recEfmt x.ds) (expandTo x.ds x.dd) (elemOf x.ds k (leNat (l.map Prod.fst)))))[o]?).getD 0#8, l.any Prod.snd))
  | 2 =>
      let ((g, i), o) := scaleAt x (b / 2)
      if scaleHas x g i then got (2 * ((elemBytes x.ds (scaleSrc x (g, i)).1 (scaleSrc x (g, i)).2).1 + o))
      else some (if x.opt = 2 then 0x7F#8 else 0#8, false)
  | 3 =>
      (idxOf got (b / 2 / Nat.max (rowBytes x.ds) 1)).bind (fun e =>
        if e.1 < recRows x.ds then (got b).map (fun v => (v.1, v.2 || e.2)) else some (0#8, e.2))
  | _ => got b

/-- A flow not yet begun: its units (R92, R93), or the packets of a reflect or reduce flow in address order (R94). -/
def State.flowXfer (s : State) (w : Nat) (x : Slot) (f : Flow) : Xfer :=
  { reads := unitsOf (s.srcTags w x f) (f.sources x)
    writes := if 4 ≤ x.kind.toNat then packetRuns (s.packetBytes w x f) else unitsOf (s.dstTags w x f) (f.targets x) }

/-- A packet of a reflect or reduce flow (R94). -/
def State.sendUnit (s : State) (w : Nat) (x : Slot) (f : Flow) (l : List (Nat × Byte × Bool)) : State :=
  match l.head? with
  | none => s
  | some e =>
    match s.flowDst w x f e.1 with
    | .win win off =>
        let reduce := x.kind == 5
        s.sendData (s.ctxKey w) win (recPath x.dd) (if reduce then 3 else 2) off (l.map Prod.snd)
          (if reduce then esize (recEfmt x.dd) else 64) (if reduce then ropOf x.opt.toNat (recEfmt x.dd) else 0) false f.org (some (w, f.id)) none
    | .zero | .loc _ | .host _ => s

/-- The values of a unit of a flow go where it writes them. -/
def State.putUnit (s : State) (w : Nat) (x : Slot) (f : Flow) (l : List (Nat × Byte × Bool)) : State :=
  if 4 ≤ x.kind.toNat then s.sendUnit w x f l else s.writeFlow w x f (l.map (fun e => (s.flowDst w x f e.1, e.2)))

/-- The rows of a gather flow whose indices a read has completed are read next. -/
def State.moreRows (s : State) (w : Nat) (x : Slot) (f : Flow) (mv : Xfer) : Xfer :=
  if x.kind ≠ 3 then mv
  else
    let wd := Nat.max (rowBytes x.ds) 1
    let rows := ((List.range (f.len / wd)).map (f.off / wd + ·)).filter (fun r =>
      (idxOf (Tab.get f.mv.got) r).isNone && (match idxOf (Tab.get mv.got) r with
        | some (i, _) => decide (i < recRows x.ds)
        | none => false))
    { mv with reads := mv.reads ++ rows.flatMap (fun r =>
        unitsOf (s.srcTags w x { f with mv := mv }) ((List.range wd).map (fun o => 2 * (r * wd + o)))) }

/-- A flow of a workgroup changed. -/
def State.modFlow (s : State) (w i : Nat) (g : Flow → Flow) : State :=
  s.modWg w (fun r => { r with flows := r.flows.map (fun y => if y.id = i then g y else y) })

/-- A flow in progress. -/
def Workgroup.flowOn (r : Workgroup) (i : Nat) : Option Flow := r.flows.find? (fun f => f.id == i && f.started)

/-- Iris reads one of the units of a flow that are left (R90, R92). -/
def State.flowRead (s : State) (w i k : Nat) : State :=
  match (s.wg w).flowOn i with
  | none => s
  | some f =>
    let x := Tab.get (s.wg w).slots f.slot
    let mv := f.mv.readUnit k (fun b => s.readFlow w (s.flowSrc w x f b))
    s.modFlow w i (fun y => { y with mv := s.moreRows w x f mv })

/-- Iris writes one of the units of a flow that are left, when the bytes it takes have been read; packets go in their order (R94). -/
def State.flowWrite (s : State) (w i k : Nat) : State :=
  match (s.wg w).flowOn i with
  | none => s
  | some f =>
    let x := Tab.get (s.wg w).slots f.slot
    let k := if 4 ≤ x.kind.toNat then 0 else k
    match f.mv.unitVals k (flowVal x) with
    | none => s
    | some l => (s.putUnit w x f l).modFlow w i (fun y => { y with mv := f.mv.wrote k })

/-- The next flow of a chain, if fewer than 4 are in progress (R240). -/
def Workgroup.nextFlow (r : Workgroup) : Option Flow :=
  if 4 ≤ (r.flows.filter Flow.started).length then none else r.flows.find? (fun f => !f.started)

/-- FLOW_START (R240): Iris starts the flow, which then has all its units to move. -/
def execFlowStart (w i : Nat) (s : State) : Host.Outcome State Fault Refusal :=
  match (s.wg w).nextFlow with
  | none => .next s
  | some f =>
    if f.id ≠ i ∨ !(s.wg w).hasRegion then .next s
    else
      let x := Tab.get (s.wg w).slots f.slot
      .next (s.modFlow w i (fun y => { y with started := true, mv := s.flowXfer w x f }))

/-- The entries that have not been delivered: those of the reflection queues and of loop-back deliveries under way. -/
def Fabric.unland (f : Fabric) : List Entry := f.rq ++ f.landing.flatMap Landing.ents

/-- A packet, an entry or a host-path write of a flow is on its way (R90). -/
def State.flowOut (s : State) (w i : Nat) : Bool :=
  s.fab.unland.any (fun e => e.flow == some (w, i)) || s.fab.sent.any (fun p => p.ents.any (fun e => e.flow == some (w, i))) ||
  s.prim.posted.any (fun p => p.flow == some (w, i))

/-- A flow leaves its chain. -/
def State.dropFlow (s : State) (w i slot : Nat) : State :=
  (s.modWg w (fun r => { r with flows := r.flows.filter (fun f => f.id != i) })).settleSlot w slot

/-- The signals of a flow that is complete (R233), and its end. -/
def State.endFlow (s : State) (w : Nat) (f : Flow) : State :=
  let x := Tab.get (s.wg w).slots f.slot
  let s := match f.cell with
    | some q => s.addCell w q.toNat 1
    | none => s
  let s := if x.bl then s.objEvent (objOf w x) (s.clusInst w) .copy (objBytesDone f.len) else s
  s.dropFlow w f.id f.slot

/-- FLOW_COMPLETE (R233): every unit is written and nothing of the flow is on its way (R90). -/
def execFlowComplete (w i : Nat) (s : State) : Host.Outcome State Fault Refusal :=
  match (s.wg w).flowOn i with
  | none => .next s
  | some f =>
    if !f.mv.writes.isEmpty ∨ s.flowOut w i then .next s
    else .next (if (s.wg w).hasRegion then s.endFlow w f else s.dropFlow w i f.slot)

/-- Lifetime counter number of machine checks (log 30). -/
def lifeMachine : Nat := 40

/-- A lifetime counter raised, saturating (R330). -/
def State.countLife (s : State) (k : Nat) : State :=
  s.modPrim (fun p => { p with life := { p.life with count := Tab.modify p.life.count k (fun (x : BitVec 32) => if x = 0xFFFFFFFF#32 then x else x + 1#32) } })

/-- Every member of a window is unreachable (R242, R243). -/
def State.windowLost (s : State) (e : BitVec 256) : Bool := (txMembers e).all (fun k => !s.reachable (s.txPod e) k)

/-- The destination of a claim is unreachable. -/
def State.destLost (s : State) (x : Slot) : Bool := s.windowLost x.win

/-- FLOW_SEVERED (R243). -/
def execFlowSevered (w i : Nat) (s : State) : Host.Outcome State Fault Refusal :=
  match (s.wg w).flowOn i with
  | none => .next s
  | some f =>
    let x := Tab.get (s.wg w).slots f.slot
    if x.kind.toNat < 4 ∨ !s.destLost x then .next s
    else
      let key := s.ctxKey w
      let e := x.win
      let rec0 : ExecRec := { tearRec 0x0A with launch := f.org.launch, wid := f.org.wid, pc := f.org.pc }
      let s := s.modFab (fun y => { y with
        rq := y.rq.filter (fun z => z.flow != some (w, i))
        sent := y.sent.filter (fun p => !p.ents.any (fun z => z.flow == some (w, i))) })
      let s := s.errorRecord key 5 (if x.kind = 5 then 3 else 2) (txMember e 0) f.org (txRwin e) x.winOff
      let s := s.countLife lifeMachine
      let s := (s.lapse w f.slot 5).dropFlow w i f.slot
      .next (if x.kind = 5 then s.teardown key rec0 else s)

end Sys2Proof.Machine
end

