-- ==== Sys2Proof/Machine/Window.lean ====
section
/-! DEFINITION. RFENCE and PULL (spec/25_isa_fabric_system.md R276, R277, spec/07_ordering.md R97, R99). -/

namespace Sys2Proof.Machine

/-- The failure accumulator as RFENCE returns it (R277). -/
def Gang.failWord (g : Gang) : Word := word (g.fCode.toNat * 2 ^ 16 + g.fMask.toNat)

/-- F starts again. -/
def Gang.clearFail (g : Gang) : Gang := { g with fCode := 0, fMask := 0 }

/-- RFENCE, the fence form (R277). -/
def execRfence (w : FullWord) (s : State) : Host.Outcome State Fault Refusal :=
  runWord 0xE0 w s (fun c s =>
    let bound := s.fab.nextId
    if s.owes bound (s.mine c.wg c.gang c.scope) then
      c.park c.lanes c.act (.rfence (BitVec.ofNat 3 c.scope) bound w.dst w.nw) none s
    else c.done (c.mod (c.putAll (c.g s).failWord s) Gang.clearFail))

/-- The counters of the query form: A(g, p), each saturating at 0xFFFF (R277). -/
def State.outWord (s : State) (w g : Nat) : Word :=
  word ((List.range 4).foldl (fun x p => x + Nat.min (s.outCount w g p) 0xFFFF * 2 ^ (16 * p)) 0)

/-- RFENCE_Q (R277). -/
def execRfenceQ (w : FullWord) (s : State) : Host.Outcome State Fault Refusal :=
  runWord 0xE0 w s (fun c s => c.done (c.putAll (s.outWord c.wg c.gang) s))

/-- A parked RFENCE whose stores are all acknowledged goes on (R277). -/
def State.rfenceDone (s : State) (w g : Nat) (p : Park) (dst : BitVec 7) (nw : Bool) : State :=
  let f := (s.gang w g).failWord
  (s.modGang w g Gang.clearFail).resultAt w g p dst nw (fun _ => f)

/-- PULL (R276). -/
def execPull (w : FullWord) (s : State) : Host.Outcome State Fault Refusal :=
  runWord 0xE1 w s (fun c s =>
    let g := c.g s
    let regs := fun (i : Nat) => (List.range 8).map (fun j => g.vGet i (w.sb.toNat + j))
    let s := c.uniform (fun i => c.srcA g i :: regs i) s
    let d := g.dGet (afDn w.sc)
    let l : RecLane := (recLanes (laneBit c.low) (c.srcA g)).headD default
    match recPerm d .store with
    | some (cause, tinfo) => c.trapAct cause tinfo s
    | none =>
      let out := RecLane.out d 64 l
      if recKind d ≠ 0x10 ∨ recVirtual d l % 64 ≠ 0 then c.illegal6 s
      else if out then c.trapAct cBOUND l.idx s
      else
        c.afterRelease (fun s =>
          let (p, s) := s.planVirtual (c.key s) 0x10 .store [(l.lane, recVirtual d l)] 64
          match p.go with
          | [] => c.parkStop { p with todo := c.act } true s
          | q :: _ =>
            let (org, s) := c.origin s
            let bytes := (regs c.low).flatMap (leBytes 8 ·.toNat)
            let ord := fld w.xb 7 1 == 1
            c.done (if c.late s then c.defer { p with go := [q] } (fun _ => .window bytes (c.path d) ord org) s
              else s.windowLane c.wg c.gang q (c.path d) bytes ord org)) s)

end Sys2Proof.Machine
end

