-- ==== Sys2Proof/Machine/Interrupts.lean ====
section
/-! DEFINITION. User interrupts: UINT, permission, coalescing, delivery, diversions (spec/25_isa_fabric_system.md R278 to R281,
spec/27_control.md R304 to R307, spec/29_system.md R333). -/

namespace Sys2Proof.Machine

/-! ## Identifiers (R258, R333) -/

/-- Fields of a fabric context identifier. -/
def idPod (x : BitVec 32) : Nat := fld x.toNat 25 7
def idPkg (x : BitVec 32) : Nat := fld x.toNat 16 9
def idKey (x : BitVec 32) : Nat := fld x.toNat 0 16
def idVif (x : BitVec 32) : Nat := fld x.toNat 10 6
/-- The context field that names the host side of an interface. -/
def idHost (x : BitVec 32) : Bool := fld x.toNat 0 10 == 0x3FF

/-- The identifier names this package. -/
def State.idSelf (s : State) (x : BitVec 32) : Bool := s.isSelf (idPod x) (idPkg x)

/-! ## Permission and pending state (R304, R305) -/

/-- The sender permission table lets a sender raise a vector: the first entry that agrees decides (R304). -/
def State.uiPermits (s : State) (key : Nat) (sender : BitVec 32) (vec : Nat) : Bool :=
  let base := fld (s.creg key 0x30C).toNat 12 44 * 4096
  if !s.isPinned key 0x30C base then false
  else
    let ent := fun (i : Nat) => s.physRead (s.pinned key 0x30C (base + 16 * i)) 16
    match (List.range 256).find? (fun i => maskAgree sender.toNat (fld (ent i) 0 32) (fld (ent i) 32 32)) with
    | some i => (fld (ent i) 64 64).testBit vec
    | none => false

/-- A permitted interrupt is applied (R305). -/
def Ctx.pend (x : Ctx) (vec : Nat) (payload : Word) : Ctx :=
  let old := Tab.get x.count vec
  { x with
    count := Tab.set x.count vec (if Word.bit x.uipend vec then (if old = 0xFFFF#16 then old else old + 1) else 1)
    payload := Tab.set x.payload vec payload
    uipend := x.uipend ||| word (2 ^ vec) }

/-- Vectors cleared with their counts and payloads (R281). -/
def Ctx.unpend (x : Ctx) (vecs : List Nat) : Ctx :=
  vecs.foldl (fun x v => { x with uipend := x.uipend &&& ~~~(word (2 ^ v)), count := Tab.set x.count v 0,
                                  payload := Tab.set x.payload v 0 }) x

/-- An entry of the host interrupt log (R307); a full or disabled ring sets OVF. -/
def State.hostLog (s : State) (vif : Nat) (sender : BitVec 32) (vec : Nat) (payload : Word) : State :=
  let x := vec * 2 ^ 58 + sender.toNat + payload.toNat * 2 ^ 64
  match s.vifRing vif 0x209 14 1024 16 x with
  | some s => s
  | none => s.setVreg vif 0x209 (s.vreg vif 0x209 ||| 2)

/-- An interrupt reaches its target on this package; none: refused, also by a context that is being torn down (R278, R289, R304, R307). -/
def State.uiArrive (s : State) (sender target : BitVec 32) (vec : Nat) (payload : Word) : Option State :=
  if idHost target then
    if Word.bit (s.vreg (idVif target) 0x200) 0 then some (s.hostLog (idVif target) sender vec payload) else none
  else if (s.ctx (idKey target)).present && (s.ctx (idKey target)).ending.isNone && s.uiPermits (idKey target) sender vec then
    some (s.modCtx (idKey target) (fun x => x.pend vec payload))
  else none

/-- A refused interrupt is reported to its sender (R278, R333). -/
def State.uiRefuse (s : State) (sender : BitVec 32) (host : Bool) (org : Origin) (lost : Bool) : State :=
  if host ∨ (s.idSelf sender ∧ idHost sender) then s.toHost (.uiReject 6)
  else if s.idSelf sender then
    if lost then s.ctxRecord (idKey sender) evRing (errorBytes 6 7 s.prim.pkg.toNat true org 0 0).toNat
    else s.errorRecord (idKey sender) 6 7 s.prim.pkg.toNat org 0 0
  else
    s.sendCtl 8 2 (idPod sender) (idPkg sender) sender 0 0 org 0 0 0
      (leBytes 32 (errorBytes 6 7 s.prim.pkg.toNat true org 0 0).toNat)

/-- An interrupt is taken at its target's package (R278, R304, R305); org: the origin that its packet names. -/
def State.uintTake (s : State) (sender target : BitVec 32) (vec : Nat) (payload : Word) (host : Bool) (org : Origin) : State :=
  if !s.idSelf target then s
  else
    match s.uiArrive sender target vec payload with
    | some s => s
    | none => s.uiRefuse sender host org true

/-- UINT_ARRIVE (R278, R304, R305). -/
def execUintArrive (sender target : BitVec 32) (vec : BitVec 6) (payload : Word) (host : Bool) (s : State) :
    Host.Outcome State Fault Refusal :=
  .next (s.uintTake sender target vec.toNat payload host default)

/-- UINT packet to another package (R259): PSEQ numbers the interrupts of one sender to it, so that they are taken in order (R278, log 85). -/
def State.sendUint (s : State) (target me : BitVec 32) (vec : Nat) (payload : Word) (org : Origin) : State :=
  let key := (me, idPod target * 512 + idPkg target)
  let n := assocGet s.fab.useq key 0
  (s.modFab (fun f => { f with useq := assocPut f.useq key ((n + 1) % 65536) })).sendCtl 7 2 (idPod target) (idPkg target) me 0 0 org vec
    payload.toNat target.toNat [] 0 n

/-- An interrupt that cannot reach its target is dropped, and its sender hears of it (R278, R333). -/
def State.uintLost (s : State) (me target : BitVec 32) (org : Origin) : State :=
  if idHost me then s.toHost (.uiReject 4) else s.errorRecord (idKey me) 4 7 (idPkg target) org 0 0

/-- UINT (R278). -/
def execUint (w : FullWord) (s : State) : Host.Outcome State Fault Refusal :=
  runWord 0xE2 w s (fun c s =>
    let g := c.g s
    let s := c.uniform (fun i => [c.srcA g i, c.srcB g 64 i, c.rdC g i]) s
    let a := c.srcA g c.low
    let b := (c.srcB g 64 c.low).toNat
    let x := c.rdC g c.low
    let s := if Word.bits a 32 32 ≠ 0 then c.warn wFIELD s else s
    if 64 ≤ b then c.illegal6 s
    else
      let (org, s) := c.origin s
      let s := s.releaseAll c.wg c.gang c.act 5
      let target : BitVec 32 := a.setWidth 32
      let me := s.ctxid (c.key s)
      c.done (
        if s.idSelf target then
          match s.uiArrive me target b x with
          | some s => s
          | none => s.uiRefuse me false org false
        else if !s.reachable (idPod target) (idPkg target) then s.uintLost me target org
        else s.sendUint target me b x org))

/-- INTERRUPT_RECORD (R333): of an enabled interface (R313); a locked device has no interrupt port (R329). -/
def execInterruptRecord (vif : Nat) (r : BitVec 128) (s : State) : Host.Outcome State Fault Refusal :=
  let vec := fld r.toNat 32 6
  let target := BitVec.ofNat 32 (fld r.toNat 0 32)
  let x := word (fld r.toNat 64 64)
  let me := s.ctxid (vif * 1024 + 0x3FF)
  if s.prim.locked ∨ 64 ≤ vif ∨ !Word.bit (s.vreg vif 0x200) 0 then .next s
  else if s.idSelf target then
    match s.uiArrive me target vec x with
    | some s => .next s
    | none => .next (s.uiRefuse me true default true)
  else if !s.reachable (idPod target) (idPkg target) then .next (s.uintLost me target default)
  else .next (s.sendUint target me vec x default)

/-! ## The handler gang (R306) -/

/-- The oldest unretired launch of a context. -/
def State.oldestLaunch (s : State) (key : Nat) : Option Nat :=
  (s.sched.launches.find? (fun e => e.2.ctx == key && !e.2.isOver)).map Prod.fst

/-- A gang's WID agrees with uihnd on fields 1 to 5. -/
def State.isHandler (s : State) (key w g : Nat) : Bool :=
  let x := (s.ctx key).uihnd
  let h := s.hdr w
  let n := hdrWidth h 1 + hdrWidth h 2 + hdrWidth h 3 + hdrWidth h 4 + hdrWidth h 5
  x != 0xFFFFFFFFFFFFFFFF#64 && s.oldestLaunch key == some (s.wg w).launch &&
    fld (s.wid w g 0).toNat (hdrWidth h 0) n == fld x.toNat (hdrWidth h 0) n

/-- The handler gang, if it is resident. -/
def State.handlerGang (s : State) (key : Nat) : Option (Nat × Nat) :=
  (s.wgs.flatMap (fun e =>
    if e.2.status == .running && s.ctxKey e.1 == key then (Tab.keys e.2.gangs).map (fun g => (e.1, g)) else [])).find?
      (fun e => s.isHandler key e.1 e.2)

/-- The lowest deliverable vector. -/
def Ctx.deliverable (x : Ctx) : Option Nat :=
  (List.range 64).find? (fun v => Word.bit x.uipend v && Word.bit x.uimask v)

/-- The handler address of a vector; 0: none (R318). -/
def State.uiHandler (s : State) (key vec : Nat) : Word :=
  let base := fld (s.creg key 0x30D).toNat 9 47 * 512
  if s.isPinned key 0x30D base then codeAddr (word (s.physRead (s.pinned key 0x30D (base + 8 * vec)) 8)) else 0

/-- Delivery of a vector to a gang: uivec and uipay, the vector cleared, the FENCEX of R99 by lanes (R305). -/
def State.deliver (s : State) (key w g vec : Nat) (m : Mask) : State :=
  let x := s.ctx key
  let s := s.modGang w g (fun y => { y with
    uivec := word ((Tab.get x.count vec).toNat * 2 ^ 16 + vec)
    uipay := Tab.get x.payload vec })
  (s.modCtx key (fun x => x.unpend [vec])).fencexAll w g m 9 5

/-- A parked UIWAIT of a gang, in force. -/
def Gang.uiPark (g : Gang) : Option (Park × BitVec 7 × BitVec 7) :=
  g.parks.findSome? (fun p => match p.why with
    | .uiwait vv vp => some (p, vv, vp)
    | _ => none)

/-- UI_DELIVER (R279, R306). -/
def execUiDeliver (key : Nat) (s : State) : Host.Outcome State Fault Refusal :=
  match (s.ctx key).deliverable, s.handlerGang key with
  | some vec, some (w, g) =>
    let x := s.gang w g
    let pay := Tab.get (s.ctx key).payload vec
    if x.live = 0#32 then .next s
    else
      match x.uiPark with
      | some (p, vv, vp) =>
          let s := s.deliver key w g vec p.lanes
          let s := s.modGang w g (fun y => (lanesOf p.act).foldl (fun y i =>
            (y.vSet i vv.toNat (word vec)).vSet i vp.toNat pay) y)
          .next (s.continueAt w g p)
      | none =>
          if x.inTrap || x.inUi || x.run.isSome then .next s
          else
            let a := s.uiHandler key vec
            if a = 0 then .next s
            else .next ((s.modGang w g (fun y => y.divert a s.cycle)).deliver key w g vec x.live)
  | _, _ => .next s

/-! ## UIWAIT, UIRET, UICLR (R279 to R281) -/

/-- UIWAIT (R279). -/
def execUiwait (w : FullWord) (s : State) : Host.Outcome State Fault Refusal :=
  runWord 0xE3 w s (fun c s =>
    let key := c.key s
    let vp := nameOf w.sa 7
    if !s.isHandler key c.wg c.gang then c.illegal6 s
    else
      match (s.ctx key).deliverable with
      | some vec =>
          let pay := Tab.get (s.ctx key).payload vec
          let s := s.deliver key c.wg c.gang vec c.lanes
          c.done (c.mod s (fun y => (lanesOf c.act).foldl (fun y i =>
            (y.vSet i w.dst.toNat (word vec)).vSet i vp pay) y))
      | none => c.park c.lanes c.act (.uiwait w.dst (BitVec.ofNat 7 vp)) none s)

/-- UIRET (R280). -/
def execUiret (w : FullWord) (s : State) : Host.Outcome State Fault Refusal :=
  runWord 0xE4 w s (fun c s =>
    if !(c.g s).inUi then c.trapAct cUISTATE 0 s
    else c.mod (s.dropParkReports c.wg c.gang) (fun g => g.leaveUi s.cycle))

/-- UICLR (R281). -/
def execUiclr (w : FullWord) (s : State) : Host.Outcome State Fault Refusal :=
  runWord 0xE5 w s (fun c s =>
    let g := c.g s
    let s := c.uniform (fun i => [c.srcA g i]) s
    let a := c.srcA g c.low
    c.done (s.modCtx (c.key s) (fun x => x.unpend ((List.range 64).filter (fun v => Word.bit a v)))))

end Sys2Proof.Machine
end

