-- ==== Sys2Proof/Machine/Faults.lean ====
section
/-! DEFINITION. What ends a park: answers to fault reports, the dirty log's tail, cleared conditions; and errors in storage
(spec/05_memory.md R72 to R80, spec/27_control.md R298, R299, spec/29_system.md R320). -/

namespace Sys2Proof.Machine

/-! ## Parks of the machine -/

/-- Every park of a resident gang that is in force, in the order in which they parked. -/
def State.parksNow (s : State) : List (Nat × Nat × Park) :=
  let all := s.wgs.flatMap (fun e => if e.2.status = .running then
      e.2.gangs.flatMap (fun h => h.2.parks.map (fun p => (e.1, h.1, p)))
    else [])
  all.foldl (fun l x => (l.takeWhile (fun y => decide (y.2.2.since ≤ x.2.2.since))) ++ x ::
    (l.dropWhile (fun y => decide (y.2.2.since ≤ x.2.2.since)))) []

/-- A park is not in force: a trap, a diversion or a pre-emption has set it aside. -/
def State.setAside (s : State) (w g : Nat) (p : Park) : Bool :=
  (s.waiting w g p.id).isNone

/-- The condition of parks clears: those in force replay in park order, and those set aside replay when they are in force
again (R76, R296). -/
def State.wake (s : State) (f : Nat → Nat → Park → Bool) : State :=
  let now := s.parksNow.filter (fun e => f e.1 e.2.1 e.2.2)
  let s := s.mapParks (fun w g p =>
    if f w g p ∧ p.ready.isNone ∧ s.setAside w g p then { p with ready := some true } else p)
  now.foldl (fun s e => s.replayAt e.1 e.2.1 e.2.2) s

/-- Walks held for a reason of R299 go on. -/
def State.wakeWalks (s : State) (f : Nat → BitVec 8 → Word → Bool) : State :=
  s.mapParks (fun w _ p => match p.why with
    | .walk n (some (r, a, _)) => if f w r a then { p with why := .walk n none } else p
    | _ => p)

/-! ## Answers (R73, R239, R320) -/

/-- The park of a report, in force or set aside. -/
def State.parkAny (s : State) (r : Report) : Option Park :=
  let g := s.gang r.wg r.gang
  (g.parkOf r.park).or ((g.saved.map (fun v => v.parks.find? (fun p => p.id == r.park))).getD none)

/-- What ABORT makes of a park (R73, R239). -/
def State.abortPark (s : State) (w g : Nat) (p : Park) : State :=
  match p.why with
  | .fault _ _ _ addr _ => s.trapAt w g p cPAGEFAULT p.todo addr
  | .walk n (some (reason, addr, _)) =>
      if (Tab.get (s.wg w).slots n).st = .walking then
        s.walkTrap w n g p (if reason = 3 then cCLAIMPERM else cPAGEFAULT) addr.toNat
      else s.trapAt w g p (if reason = 3 then cCLAIMPERM else cPAGEFAULT) p.act addr
  | _ => s

/-- What RETRY makes of a park (R72, R239). -/
def State.retryPark (s : State) (w g : Nat) (p : Park) : State :=
  match p.why with
  | .walk n _ => if (Tab.get (s.wg w).slots n).st = .walking then s.holdWalk w g p.id none else s.replayAt w g p
  | _ => s.replayAt w g p

/-- An answer to a report of a queue (R73, R320): ignored when its token names no such report. -/
def State.answer (s : State) (q : FaultQueue) (token : BitVec 32) (abort : Bool) : State :=
  match s.sched.reports.find? (fun r => r.written && r.token == token && r.queue == q) with
  | none => s
  | some r =>
    if r.isExit then s.dropReport r.num
    else
      match s.parkAny r with
      | none => s.dropReport r.num
      | some p =>
        let s := s.dropReport r.num
        if s.setAside r.wg r.gang p then
          s.mapParks (fun w g y => if w = r.wg ∧ g = r.gang ∧ y.id = p.id then { y with ready := some (!abort) } else y)
        else if abort then s.abortPark r.wg r.gang p
        else s.retryPark r.wg r.gang p

/-- FAULT_ANSWER_RETRY (R73). -/
def execFaultAnswerRetry (q : FaultQueue) (token : BitVec 32) (s : State) : Host.Outcome State Fault Refusal :=
  .next (s.unlocked (fun s => s.answer q token false))

/-- FAULT_ANSWER_ABORT (R73). -/
def execFaultAnswerAbort (q : FaultQueue) (token : BitVec 32) (s : State) : Host.Outcome State Fault Refusal :=
  .next (s.unlocked (fun s => s.answer q token true))

/-! ## The dirty log's tail (R76) -/

/-- A park waits for room in the dirty ring of an interface. -/
def State.waitsDirty (s : State) (vif w : Nat) (p : Park) : Bool :=
  match p.why with
  | .dirtyFull _ => vifOf (s.ctxKey w) == vif
  | .walk _ (some (r, _, _)) => r == 4#8 && vifOf (s.ctxKey w) == vif
  | _ => false

/-- A writer that has been let go has still to replay: a split in its turn, or a walk. -/
def Gang.inTurn (g : Gang) : Bool :=
  g.splits.any (fun x => x.turn && x.lanes != 0#32 && x.replay.isSome) ||
  g.parks.any (fun p => match p.why with
    | .walk _ none => p.ready == some true
    | _ => false)

/-- A writer that may replay is the first of its interface in park order, and no other is in its turn (R76). -/
def State.dirtyFirst (s : State) (w g : Nat) (p : Park) : Bool :=
  let vif := vifOf (s.ctxKey w)
  !s.wgs.any (fun e => e.2.status == .running && vifOf (s.ctxKey e.1) == vif && e.2.gangs.any (fun h => h.2.inTurn)) &&
  (match s.parksNow.find? (fun e => s.waitsDirty vif e.1 e.2.2 && e.2.2.ready == some true) with
   | some e => e.1 == w && e.2.1 == g && e.2.2.id == p.id
   | none => false)

/-- A write to dltail. The writers that wait for room in the ring may replay, one after the other in park order (State.dirtyFirst). -/
def State.dltail (s : State) (vif : Nat) (v : Word) : State :=
  let new := word (v.toNat % 2 ^ 32)
  let moved := new != s.vreg vif 0x204
  let s := s.setVreg vif 0x204 new
  if !moved then s
  else
    let s := if ringFill (s.vreg vif 0x203) new < 4096 then s.modVif vif (fun x => { x with exitSent := false }) else s
    s.mapParks (fun w _ p => if s.waitsDirty vif w p then { p with ready := some true } else p)

/-- DLTAIL_WRITE (R76). -/
def execDltailWrite (vif : Nat) (v : Word) (s : State) : Host.Outcome State Fault Refusal := .next (s.unlocked (fun s => s.dltail vif v))

/-! ## TLBI's extent (R242, R288) -/

/-- Two ranges of pages meet: the page of a leaf with some page bits, and the extent. -/
def TlbExt.meets (x : TlbExt) (page bits : Nat) : Bool :=
  let n := 2 ^ (bits - 12)
  x.all || (decide (x.lo < x.hi) && decide (page / n * n < x.hi) && decide (x.lo < page / n * n + n))

/-- A cached translation is dropped. -/
def TlbExt.drops (x : TlbExt) (t : TlbRow) : Bool :=
  if x.host then t.vif == x.vif && (x.meets t.gpage t.hbits || t.via.any (fun e => x.meets e.1 e.2))
  else t.ctx == x.ctx && x.meets t.vpage t.gbits

/-- A pin of a claim of a context is covered. -/
def TlbExt.covers (x : TlbExt) (key : Nat) (p : Pin) : Bool :=
  if x.host then vifOf key == x.vif && x.meets p.gpage p.hbits else key == x.ctx && x.meets p.vpage p.gbits

/-- Every split parked with DISCARD_WRITE on a covered page, of whatever size (R70), is evaluated again (R74): it replays when a covered
page that an unfinished lane writes is no longer discarded. -/
def State.revalidate (s : State) (x : TlbExt) : State :=
  let open' := fun (w : Nat) (a : Word) =>
    let key := s.ctxKey w
    let hit := match s.guestWalk key a.toNat with
      | .ok g =>
          if x.host then vifOf key == x.vif && (match s.hostWalk (vifOf key) g.addr with
            | .ok h => x.meets (g.addr / 4096) (sizeBits h.size)
            | _ => x.meets (g.addr / 4096) 12)
          else key == x.ctx && x.meets (a.toNat / 4096) (sizeBits g.size)
      | _ => !x.host && key == x.ctx && x.meets (a.toNat / 4096) 12
    hit && !s.stillDiscarded key a.toNat
  let f := fun (w _ : Nat) (p : Park) => match p.why with
    | .fault reason _ _ a _ => reason == 2#8 && (open' w a || p.lines.any (fun l => open' w (word l)))
    | _ => false
  let nums := (s.parksNow.filter (fun e => f e.1 e.2.1 e.2.2)).filterMap (fun e => match e.2.2.why with
    | .fault _ _ _ _ n => some n
    | _ => none)
  let held := (s.parksNow.filterMap (fun e => match e.2.2.why with
    | .walk _ (some (r, a, n)) => if r = 2#8 ∧ open' e.1 a then some n else none
    | _ => none))
  let s' := (s.wakeWalks (fun w r a => r == 2#8 && open' w a)).wake f
  (nums ++ held).foldl (fun s n => s.dropReport n) s'

/-! ## Cleared conditions (R17, R298) -/

/-- Launches of a queue that are not yet wholly placed. -/
def State.queueLen (s : State) (vif prio : Nat) : Nat := (Tab.get (s.vif vif).queues prio).length

/-- Accept a launch: constant copy, code image (R3), and its place in the queue; its identifier. -/
def State.accept (s : State) (key : Nat) (hdr : BitVec 512) (prio : Nat) (args : List Byte) (issuer : Option (Nat × BitVec 5))
    (join : Option Word) (initV : List Word) : BitVec 32 × State :=
  let n := s.sched.nextLaunch
  let id := Config.launchId n
  let x : Launch := { id := id, ctx := key, hdr := hdr, prio := prio, issuer := issuer, join := join, args := args, initV := initV,
                      img := s.ms.imem, next := 0, ended := 0, failed := false, isOver := false, relaunches := [] }
  let s := s.modSched (fun c => { c with launches := Tab.set c.launches n x, nextLaunch := n + 1 })
  (id, s.modVif (vifOf key) (fun v => { v with queues := Tab.modify v.queues prio (· ++ [n]) }))

/-- What becomes of a park whose condition holds; none: it does not hold. -/
def State.clearPark (s : State) (w g : Nat) (p : Park) : Option State :=
  match p.why with
  | .fault _ _ _ addr _ =>
      (match p.ready with
       | some true => some (s.replayAt w g p)
       | some false => some (s.trapAt w g p cPAGEFAULT p.todo addr)
       | none => none)
  | .dirtyFull _ => if p.ready.isSome && s.dirtyFirst w g p then some (s.replayAt w g p) else none
  | .acks bound => if s.owes bound (s.mine w g 1) then none else some (s.replayAt w g p)
  | .chainFull l => if s.hasPlaces w l then some ((s.append w l).continueAt w g p) else none
  | .flowFull => if (s.wg w).flows.length < flowMax then some (s.replayAt w g p) else none
  | .queueFull q hdr args cell dst nw =>
      if s.queueLen (q / 16) (q % 16) < 64 then
        let (id, s) := s.accept (s.ctxKey w) hdr (q % 16) args (cell.map (fun c => (w, c))) none []
        some (s.resultAt w g p dst nw (fun _ => word (id.toNat * 2 ^ 32)))
      else none
  | .claimWait n x =>
      if !((s.wg w).flowsOf n).isEmpty then none
      else if (Tab.get (s.wg w).slots n).st = .walking ∨ (Tab.get (s.wg w).slots n).st = .live then
        some (s.trapAt w g p cILLEGAL p.act 6)
      else
        some ((s.beginWalk w n x).modGang w g (fun y => { y with parks := y.parks.map (fun z =>
          if z.id = p.id then { z with why := .walk n none } else z) }))
  | .walk n held =>
      if p.ready = some false then some (s.abortPark w g p)
      else if (Tab.get (s.wg w).slots n).st ≠ .walking then
        -- a pre-emption has ended the walk: its report is withdrawn, the CLAIM starts again (R236)
        some ((match held with
          | some (r, _, num) => if r = 4#8 ∨ r = 5#8 then s else s.dropReport num
          | none => s).replayAt w g p)
      else if p.ready.isNone then none
      else
        (match held with
         -- in its turn (R76); CLAIM_WALK ends it
         | none => none
         | some (r, _, _) =>
             if r ≠ 4#8 then
               some ((s.modGang w g (fun y => { y with parks := y.parks.map (fun z =>
                 if z.id = p.id then { z with ready := none } else z) })).retryPark w g { p with ready := none })
             else if s.dirtyFirst w g p then some (s.holdWalk w g p.id none)
             else none)
  | .fence scope bound =>
      if s.owes bound (s.mine w g 1) then none else some ((s.acquireAll w g p.act scope.toNat).continueAt w g p)
  | .persist dst nw =>
      if s.notDurable w g p.act then none
      else
        let x := s.gang w g
        some ((s.modGang w g (fun y => y.takeRefused p.act)).resultAt w g p dst nw x.refusedWord)
  | .barw _ scope =>
      if p.ready.isSome then some ((s.acquireAll w g p.lanes scope.toNat).continueAt w g p) else none
  | .bwait _ _ pd => p.ready.map (s.wakeBwait w g p pd)
  | .wseq cell v cls scope pd =>
      if s.seqReached w cell v then
        some ((s.seqFence w g p.act cls.toNat scope.toNat).finishWait w g p pd (fun _ => true))
      else none
  | .wmem x addr b =>
      let f := (form 0xCA x).getD default
      let (plan, held) := s.wmemRead w g x (f.typeEff x) p.act (Tab.get addr) (Tab.get b)
      if (plan.poison s.ms).1 ≠ 0#32 ∨ allHold held then some (s.recheckWmem w g p x addr b false) else none
  | .rfence scope bound dst nw => if s.owes bound (s.mine w g scope.toNat) then none else some (s.rfenceDone w g p dst nw)
  | .tlbi x flows =>
      if flows.any (fun e => (s.wg e.1).flows.any (fun f => f.id == e.2)) then none
      else some ((s.continueAt w g p).revalidate x)
  | .uiwait .. => none
  | .member .. => none

/-- PARK_CLEAR (R17): a park whose condition has cleared replays or continues. -/
def execParkClear (w g id : Nat) (s : State) : Host.Outcome State Fault Refusal :=
  match s.waiting w g id with
  | none => .next s
  | some p => .next ((s.clearPark w g p).getD s)

/-! ## Errors in storage (R77, R78) -/

/-- The lifetime counters of corrected and uncorrectable errors of a structure (R330, log 30). -/
def storeNum : Store → Nat
  | .core => 0
  | .cluster => 1
  | .die => 2
  | .acc => 3
  | .scale => 4
  | .hbm => 5

/-- ECC_CORRECTED (R77). -/
def execEccCorrected (k : Store) (s : State) : Host.Outcome State Fault Refusal := .next (s.countLife (storeNum k))

/-- ECC_UNCORRECTABLE (R77): the owner of a region is killed with REASON 0x01, a die-store word is poisoned, and bytes that no
region holds are written to 0. -/
def execEccUncorrectable (site : EccSite) (s : State) : Host.Outcome State Fault Refusal :=
  match site with
  | .region k w =>
      let s := s.countLife (8 + storeNum k)
      .next (if (s.wg w).status = .running ∨ (s.wg w).status = .saving then s.kill w 1 0 false (s.wid w 0 0) 0 0 0 else s)
  | .dieWord die off =>
      .next ((s.countLife (8 + storeNum .die)).modMs (fun m => m.mark (locs (locDst die (off / 8 * 8)) 8)))
  | .unheld k => .next (s.countLife (8 + storeNum k))

/-- HBM_POISON (R78). -/
def execHbmPoison (line : Nat) (s : State) : Host.Outcome State Fault Refusal :=
  .next ((s.countLife (8 + storeNum .hbm)).modMs (fun m => m.mark [locHbm (line * 64)]))

/-! ## Posted stores (R80, R101) -/

/-- POSTED_STORE_REFUSED (R80, R101, R183): the store is dropped and an error record names its origin. -/
def execPostedStoreRefused (i : Nat) (s : State) : Host.Outcome State Fault Refusal :=
  match s.prim.posted.find? (fun p => p.id == i) with
  | none => .next s
  | some p =>
    let s := s.modPrim (fun x => { x with posted := x.posted.filter (fun q => q.id != i) })
    let s := if p.pers ∧ p.flow.isNone ∧ (s.wg p.wg).hasRegion then
        s.modGang p.wg p.gang (fun g => g.modThread p.lane (fun t =>
          { t with refused := if t.refused = 0xFFFF#16 then t.refused else t.refused + 1 }))
      else s
    .next (s.errorRecord p.ctx 7 0 0 p.org 0 0)

end Sys2Proof.Machine
end

