-- ==== Sys2Proof/Machine/System.lean ====
section
/-! DEFINITION. TRAP, BKPT, TRET, LAUNCH, SYSRD, SYSWR, TLBI, and the system registers (spec/25_isa_fabric_system.md R282 to R288,
spec/01_work.md R11 to R13, R24, spec/29_system.md R317 to R320). -/

namespace Sys2Proof.Machine

/-! ## TRAP, BKPT, TRET (R282, R283) -/

/-- The 18-bit code. -/
def Issue.code18 (c : Issue) : Word := word (c.w.modN % 2 ^ 18)

/-- TRAP (R282). -/
def execTrap (w : FullWord) (s : State) : Host.Outcome State Fault Refusal :=
  runWord 0xF0 w s (fun c s => c.trapRetired cTRAP c.code18 s)

/-- BKPT (R282). -/
def execBkpt (w : FullWord) (s : State) : Host.Outcome State Fault Refusal :=
  runWord 0xF1 w s (fun c s => c.trapRetired cBKPT c.code18 s)

/-- TRET (R283). -/
def execTret (w : FullWord) (s : State) : Host.Outcome State Fault Refusal :=
  runWord 0xF2 w s (fun c s =>
    if !(c.g s).inTrap then c.illegal6 s
    else c.mod (s.dropParkReports c.wg c.gang) (fun g => g.leaveTrap s.cycle))

/-! ## The checks of a launch header (R13, R24) -/

/-- KiB of the register file that one workgroup takes. -/
def hdrRegKib (h : BitVec 512) : Nat := hdrExt h 1 * hdrRegs h / 16 * 4

/-- One workgroup's declaration fits an empty core and its cluster. -/
def hdrFits (h : BitVec 512) : Bool :=
  decide (hdrRegKib h ≤ 512 ∧ hdrExt h 1 ≤ 32 ∧ hdrCstk h ≤ 512 ∧ hdrKstk h ≤ 12288 ∧ hdrAcck h ≤ 2048 ∧ hdrScalek h ≤ 256 ∧
    hdrClaims h ≤ 64)

/-- Workgroups of a launch that one empty core holds. -/
def hdrPerCore (h : BitVec 512) : Nat :=
  Nat.min (Nat.min 16 (32 / hdrExt h 1))
    (Nat.min (512 / Nat.max (hdrRegKib h) 1) (if hdrCstk h = 0 then 16 else 512 / hdrCstk h))

/-- A cluster group fits an empty cluster. -/
def hdrGroupFits (h : BitVec 512) : Bool :=
  let n := hdrExt h 2
  decide (n ≤ 8 * hdrPerCore h ∧ n * hdrKstk h ≤ 12288 ∧ n * hdrAcck h ≤ 2048 ∧ n * hdrScalek h ≤ 256 ∧ n * hdrClaims h ≤ 1024)

/-- The refusal code of a header (R13). -/
def hdrCheck (h : BitVec 512) : Nat :=
  let ks := List.range 6
  if hdrWidth h 0 ≠ 5 ∨ 32 < hdrExt h 0 then 1
  else if 64 < (ks.map (hdrWidth h)).sum then 2
  else if ks.any (fun k => decide (2 ^ hdrWidth h k < hdrExt h k)) then 3
  else if 32 < hdrExt h 1 then 4
  else if !hdrFits h then 5
  else if hdrCb h && !hdrGroupFits h then 6
  else if hdrEntry h % 8 ≠ 0 then 7
  else 0

/-! ## LAUNCH (R284, R290) -/

/-- A read that the issuing word makes for its lowest active lane: the value, or what ends the word instead. -/
def Issue.readBlock (c : Issue) (a n : Nat) (k : Nat → State → State) (s : State) : State :=
  if n = 0 then k 0 s
  else
    let (p, s) := s.planVirtual (c.key s) 1 .load [(c.low, a)] n
    match p.go with
    | [] => c.parkStop { p with todo := c.act } false s
    | q :: _ =>
      let (bad, unit) := p.poison s.ms
      if bad ≠ 0#32 then c.trapAct cPOISON unit s else k (s.loadLane c.wg c.gang q) s

/-- LAUNCH (R284). A full queue parks it with the header and the constant copy that it has read: neither is read again (R12). -/
def execLaunch (w : FullWord) (s : State) : Host.Outcome State Fault Refusal :=
  runWord 0xF3 w s (fun c s =>
    let g := c.g s
    let s := c.uniform (fun i => [c.srcA g i, c.srcB g 64 i]) s
    let a := (c.srcA g c.low).toNat
    let b := c.srcB g 64 c.low
    let prio := b.toNat % 16
    let s := if 16 ≤ b.toNat then c.warn wFIELD s else s
    if a % 64 ≠ 0 then c.illegal6 s
    else
      let s := s.releaseAll c.wg c.gang c.act 5
      c.readBlock a 64 (fun x s =>
        let hdr := BitVec.ofNat 512 x
        let code := hdrCheck hdr
        if code ≠ 0 then c.done (c.putAll (word code) s)
        else
          c.readBlock (hdrArgs hdr) (hdrArglen hdr) (fun y s =>
            let vif := vifOf (c.key s)
            let cell := if w.xb / 32 % 2 = 1 then none else some (BitVec.ofNat 5 (w.xb % 32))
            let args := leBytes (hdrArglen hdr) y
            if 64 ≤ s.queueLen vif prio then c.park c.lanes c.act (.queueFull (vif * 16 + prio) hdr args cell w.dst w.nw) none s
            else
              let (id, s) := s.accept (c.key s) hdr prio args (cell.map (fun q => (c.wg, q))) none []
              c.done (c.putAll (word (id.toNat * 2 ^ 32)) s)) s) s)

/-! ## System registers (R286, R317, R318) -/

/-- The level that reading needs. -/
def sregLevel (idx : Nat) : Nat :=
  if idx < 3 ∨ idx = 0x30A then 0
  else if idx < 0x120 ∨ idx = 0x203 ∨ idx = 0x300 ∨ (0x305 ≤ idx ∧ idx ≤ 0x30D) then 1
  else 2

/-- The level that writing needs. -/
def sregWriteLevel (idx : Nat) : Nat := if 0x100 ≤ idx ∧ idx < 0x110 then 2 else sregLevel idx

/-- The register is read-only. -/
def sregRO (idx : Nat) : Bool :=
  idx < 3 || (decide (0x110 ≤ idx ∧ idx < 0x120)) || [0x203, 0x206, 0x20A, 0x306, 0x30A].contains idx

/-- Bits [55:lo]. -/
def baseMask (lo : Nat) : Nat := 2 ^ 56 - 2 ^ lo

/-- The RW bits of a register. -/
def sregMask (idx : Nat) : Nat :=
  if 0x100 ≤ idx ∧ idx < 0x110 then 0x0000FFFFFFFF0035
  else if 0x301 ≤ idx ∧ idx ≤ 0x304 then 0x7F7F
  else
    match idx with
    | 0x200 => 0xFF0F
    | 0x201 | 0x300 => baseMask 12 + 1
    | 0x202 => baseMask 15 + 1
    | 0x205 | 0x309 => baseMask 13 + 1
    | 0x209 | 0x305 => baseMask 14 + 1
    | 0x204 | 0x207 | 0x20B | 0x307 | 0x30B | 0x30F => 0xFFFFFFFF
    | 0x30C => baseMask 12
    | 0x30D => baseMask 9
    | 0x30E => baseMask 16
    | _ => 0

/-- The register after a write: RW bits from the value; OVF clears when 1 is written (W1C). -/
def sregNew (idx : Nat) (old v : Word) : Word :=
  let m := word (sregMask idx)
  let x := (v &&& m) ||| (old &&& ~~~m)
  if (idx = 0x209 ∨ idx = 0x305 ∨ idx = 0x309) ∧ Word.bit v 1 then x &&& ~~~(2 : Word) else x

/-- sysid of a core (R286). -/
def State.sysid (s : State) (core : Nat) : Word :=
  word (core % 8 * 2 ^ 22 + core / 8 % 12 * 2 ^ 18 + dieOf core * 2 ^ 16 + s.prim.pod.toNat * 2 ^ 9 + s.prim.pkg.toNat)

/-- A system register as a context sees it from a core. -/
def State.sregRead (s : State) (key core idx : Nat) : Word :=
  if idx = 0 then s.sysid core
  else if idx = 1 then (s.ctxid key).setWidth 64
  else if idx = 2 ∨ idx = 0x310 then (s.ctx key).priv.setWidth 64
  else if idx < 0x110 then ((s.port (idx - 0x100)).pend).getD (s.port (idx - 0x100)).cfg
  else if idx < 0x120 then (s.port (idx - 0x110)).stat
  else if idx = 0x208 ∨ idx = 0x308 then 0
  else if idx < 0x300 then s.vreg (vifOf key) idx
  else s.creg key idx

/-- A write to zpcfg (R250); one that would set a fifth STATIC is ignored (R272). -/
def State.zpcfgWrite (s : State) (p : Nat) (v : Word) : State :=
  let cur := fun (q : Nat) => ((s.port q).pend).getD (s.port q).cfg
  let new := sregNew 0x100 (cur p) v
  let statics := (List.range 16).filter (fun q => q != p && cfgStatic (cur q))
  if cfgStatic new && decide (4 ≤ statics.length) then s else s.modPort p (fun x => { x with pend := some new })

/-- A write to a register of an interface (R317). -/
def State.vregWrite (s : State) (vif idx : Nat) (v : Word) : State :=
  if sregRO idx then s
  else if idx = 0x204 then s.dltail vif v
  else if idx = 0x208 then s.answer (.host vif) (BitVec.ofNat 32 (Word.bits v 32 32)) (Word.bit v 0)
  else (s.setVreg vif idx (sregNew idx (s.vreg vif idx) v)).flushReports

/-- Bytes of the structure that a base register names. -/
def State.structSize (s : State) (key idx : Nat) : Nat :=
  match idx with
  | 0x300 => 4096
  | 0x305 => 16384
  | 0x309 => 8192
  | 0x30C => 4096
  | 0x30D => 512
  | 0x30E => (s.creg key 0x30F).toNat * 65536
  | _ => 0

/-- Pages of a structure translated at the host stage one after the other (R318): the frame of each; or, of the first that fails, whether
its table is corrupted. -/
def State.hostPages (s : State) (vif : Nat) : List Nat → Except Bool (List (Nat × Nat)) × State
  | [] => (.ok [], s)
  | page :: l =>
    match s.hostAddr vif (page * 4096) with
    | (.ok pa _ _, s) =>
        (match s.hostPages vif l with
         | (.ok r, s) => (.ok ((page, pa / 4096) :: r), s)
         | r => r)
    | (.corrupt, s) => (.error true, s)
    | (.fault .., s) | (.dirtyFull _, s) => (.error false, s)

/-- A write to a context base register (R318): the whole structure is translated at the host stage with write permission and
pinned, or the register stays as it was. A guest-stage root without its V bit names no structure (log 86). A corrupted table tears the
context down with a record (R70, R311). -/
def State.ctxBase (s : State) (key idx : Nat) (v : Word) (r : ExecRec := tearRec 8) : State :=
  let new := sregNew idx (s.creg key idx) v
  let base := Nat.land new.toNat (sregMask idx / 2 * 2)
  let size := if idx = 0x300 ∧ !Word.bit new 0 then 0 else s.structSize key idx
  let pages := (List.range ((base + size + 4095) / 4096 - base / 4096)).map (base / 4096 + ·)
  match s.hostPages (vifOf key) pages with
  | (.error true, s) => s.teardown key r
  | (.error false, s) => s
  | (.ok frames, s) =>
    let s := s.modCtx key (fun x =>
      let rest := x.pins.filter (fun e => e.1 / 2 ^ 45 != idx)
      { x with pins := frames.foldl (fun t e => Tab.set t (pinKey idx e.1) (e.2 + 1)) rest })
    (s.setCreg key idx new).flushReports

/-- The context registers that name a structure. -/
def ctxBases : List Nat := [0x300, 0x305, 0x309, 0x30C, 0x30D, 0x30E]

/-- CTX_BASE_WRITE (R318); not on a locked device (R329). -/
def execCtxBaseWrite (key idx : Nat) (v : Word) (s : State) : Host.Outcome State Fault Refusal :=
  if ctxBases.contains idx ∧ (s.ctx key).present then .next (s.unlocked (fun s => s.ctxBase key idx v)) else .next s

/-- Bytes of a die's store are written to 0. -/
def State.zeroDie (s : State) (die lo hi : Nat) : State :=
  s.modMs (fun m => m.erase (fun x => x % 8 == 4 && x / 8 / 2 ^ 27 == die && decide (lo ≤ x / 8 % 2 ^ 27 ∧ x / 8 % 2 ^ 27 < hi)))

/-- A write to a die-store grant register (R60, R318). -/
def State.dsreg (s : State) (key die : Nat) (v : Word) : State :=
  let old := s.creg key (0x301 + die)
  let new := sregNew (0x301 + die) old v
  let lo := Word.bits new 0 7
  let n := Word.bits new 8 7
  let clash := (Tab.keys s.ctxs).any (fun k => k != key && (s.ctx k).present &&
    (let g := s.creg k (0x301 + die)
     decide (0 < n ∧ 0 < Word.bits g 8 7 ∧ lo < Word.bits g 0 7 + Word.bits g 8 7 ∧ Word.bits g 0 7 < lo + n)))
  if 96 < lo + n ∨ clash ∨ !(s.vifDies (vifOf key)).contains die then s
  else
    let mb := 2 ^ 20
    let lo' := Word.bits old 0 7
    let n' := Word.bits old 8 7
    let s := if lo ≠ lo' ∨ (n' = 0 ∧ 0 < n) then (s.zeroDie die (lo' * mb) ((lo' + n') * mb)).zeroDie die (lo * mb) ((lo + n) * mb)
      else s.zeroDie die ((lo + Nat.min n n') * mb) ((lo + Nat.max n n') * mb)
    s.setCreg key (0x301 + die) new

/-- DSREG_WRITE (R318); not on a locked device (R329). -/
def execDsregWrite (key die : Nat) (v : Word) (s : State) : Host.Outcome State Fault Refusal :=
  if die < 4 ∧ (s.ctx key).present then .next (s.unlocked (fun s => s.dsreg key die v)) else .next s

/-- A write to ctxpriv; 3 is ignored (R285). -/
def State.ctxpriv (s : State) (key : Nat) (v : Word) : State :=
  if v.toNat % 4 = 3 then s else s.modCtx key (fun x => { x with priv := BitVec.ofNat 2 v.toNat })

/-- CTXPRIV_WRITE (R285); not on a locked device (R329). -/
def execCtxprivWrite (key : Nat) (v : Word) (s : State) : Host.Outcome State Fault Refusal :=
  if (s.ctx key).present then .next (s.unlocked (fun s => s.ctxpriv key v)) else .next s

/-- A write to a system register by a context that holds its level; r: the record of a teardown that it causes. -/
def State.sregWrite (s : State) (key idx : Nat) (v : Word) (r : ExecRec) : State :=
  if idx < 0x110 then s.zpcfgWrite (idx - 0x100) v
  else if idx < 0x300 then s.vregWrite (vifOf key) idx v
  else if 0x301 ≤ idx ∧ idx ≤ 0x304 then s.dsreg key (idx - 0x301) v
  else if ctxBases.contains idx then s.ctxBase key idx v r
  else if idx = 0x308 then s.answer (.guest key) (BitVec.ofNat 32 (Word.bits v 32 32)) (Word.bit v 0)
  else if idx = 0x310 then s.ctxpriv key v
  else (s.setCreg key idx (sregNew idx (s.creg key idx) v)).flushReports

/-- The index field of SYSRD and SYSWR. -/
def Issue.sreg (c : Issue) : Nat := fld c.w.modN 0 12

/-- SYSRD (R287). -/
def execSysrd (w : FullWord) (s : State) : Host.Outcome State Fault Refusal :=
  runWord 0xF4 w s (fun c s =>
    if (s.ctx (c.key s)).priv.toNat < sregLevel c.sreg then c.trapAct cPRIV c.sreg s
    else c.done (c.putAll (s.sregRead (c.key s) (s.wg c.wg).core c.sreg) s))

/-- SYSWR (R287): every active lane writes, in ascending order. -/
def execSyswr (w : FullWord) (s : State) : Host.Outcome State Fault Refusal :=
  runWord 0xF5 w s (fun c s =>
    if (s.ctx (c.key s)).priv.toNat < sregWriteLevel c.sreg then c.trapAct cPRIV c.sreg s
    else if sregRO c.sreg then c.illegal6 s
    else
      let g := c.g s
      let key := c.key s
      (lanesOf c.act).foldl (fun s i => s.sregWrite key c.sreg (c.srcA g i) (s.tearAt 8 c.wg c.gang c.pc (laneBit i))) (c.done s))

/-! ## TLBI (R236, R242, R288) -/

/-- The extent that a TLBI's fields and operands name. -/
def tlbExt (xb key a b c : Nat) : TlbExt :=
  let tgt := if xb / 16 % 2 = 1 then c % 65536 else key
  let lo := a / 4096
  let hi := match xb / 2 % 4 with
    | 0 => lo + 1
    | _ => if b = 0 then lo else (a + b + 4095) / 4096
  { host := xb % 2 == 1, vif := vifOf tgt, ctx := tgt, all := xb / 2 % 4 == 2, lo := lo, hi := hi }

/-- Claims that pin a covered page lapse, walks let such pages go (R236, R242); the flows in progress of the lapsed claims. -/
def State.lapsePages (s : State) (x : TlbExt) (why : Nat) : List (Nat × Nat) × State :=
  let all := s.wgs.flatMap (fun e => e.2.slots.map (fun h => (e.1, h.1)))
  let hit := fun (w n : Nat) => (Tab.get (s.wg w).slots n).pins.any (x.covers (s.ctxKey w))
  let claims := all.filter (fun e => hit e.1 e.2 && (Tab.get (s.wg e.1).slots e.2).st != .walking)
  let walks := all.filter (fun e => hit e.1 e.2 && (Tab.get (s.wg e.1).slots e.2).st == .walking)
  let flows := claims.flatMap (fun e => (((s.wg e.1).flowsOf e.2).filter Flow.started).map (fun f => (e.1, f.id)))
  let s := claims.foldl (fun s e => s.lapse e.1 e.2 why) s
  let s := walks.foldl (fun s e =>
    let key := s.ctxKey e.1
    s.modSlot e.1 e.2 (fun y => { y with pins := y.pins.filter (fun p => !x.covers key p), staged := false })) s
  -- a service claim walks such a page again before it goes on (log 61)
  (flows, s.modFab (fun f => { f with services := f.services.map (fun y =>
    if y.pins.any (x.covers y.key) then { y with pins := y.pins.filter (fun p => !x.covers y.key p), live := false } else y) }))

/-- TLBI (R288). -/
def execTlbi (w : FullWord) (s : State) : Host.Outcome State Fault Refusal :=
  runWord 0xF6 w s (fun c s =>
    let g := c.g s
    let range := w.xb / 2 % 4 = 1
    let vals := fun (i : Nat) => c.srcA g i :: ((if range then [c.srcB g 64 i] else []) ++
      (if w.xb / 16 % 2 = 1 then [c.rdC g i] else []))
    let s := c.uniform vals s
    let a := (c.srcA g c.low).toNat
    let b := (c.srcB g 64 c.low).toNat
    let level := if w.xb % 2 = 1 ∨ w.xb / 16 % 2 = 1 then 2 else 1
    if (s.ctx (c.key s)).priv.toNat < level then c.trapAct cPRIV 0 s
    else if range ∧ b ≠ 0 ∧ 2 ^ 57 < a + b then c.illegal6 s
    else
      let x := tlbExt w.xb (c.key s) a b (c.rdC g c.low).toNat
      let s := s.releaseAll c.wg c.gang c.act 5
      let s := s.modMs (fun m => { m with tlb := m.tlb.filter (fun t => !x.drops t) })
      let (flows, s) := s.lapsePages x (if w.xb / 8 % 2 = 1 then 2 else 1)
      if flows.isEmpty then (c.done s).revalidate x
      else c.park c.lanes c.act (.tlbi x flows) none s)

end Sys2Proof.Machine
end

