-- ==== Sys2Proof/Machine/Placement.lean ====
section
/-! DEFINITION. Launch queues, binds, admission and placement (spec/01_work.md R14, R16, R24 to R27, R31, R32,
spec/27_control.md R290 to R293, R302). -/

namespace Sys2Proof.Machine

/-! ## Bind records (R291) -/

/-- A field of a bind record: word, lowest bit, bits. -/
def bindField (b : BitVec 128) (w lo n : Nat) : Nat := fld b.toNat (64 * w + lo) n

/-- A valid record binds a queue of an interface. -/
def bindNames (b : BitVec 128) (vif q : Nat) : Bool :=
  bindField b 0 63 1 == 1 && bindField b 0 57 6 == vif && decide (bindField b 0 53 4 ≤ q ∧ q ≤ bindField b 0 49 4)

/-- The three masks name a core. -/
def bindCore (b : BitVec 128) (core : Nat) : Bool :=
  (bindField b 1 60 4).testBit (dieOf core) && (bindField b 1 48 12).testBit (core / 8 % 12) && (bindField b 1 40 8).testBit (core % 8)

/-- The core is in the bound set of a queue. -/
def State.isBound (s : State) (vif q core : Nat) : Bool :=
  s.sched.binds.any (fun e => bindNames e.2 vif q && bindCore e.2 core) && (s.vifDies vif).contains (dieOf core)

/-- IPRI of an interface. -/
def State.ipri (s : State) (vif : Nat) : Nat :=
  match s.sched.binds.find? (fun e => bindField e.2 0 63 1 == 1 && bindField e.2 0 57 6 == vif) with
  | some e => bindField e.2 0 45 4
  | none => 0

/-- BIND_RECORD_WRITE (R291); not on a locked device (R329). -/
def execBindRecordWrite (i : Nat) (r : BitVec 128) (s : State) : Host.Outcome State Fault Refusal :=
  if i < 256 ∧ s.prim.locked = false then
    let keep := BitVec.ofNat 128 ((2 ^ 64 - 2 ^ 40) * 2 ^ 64 + (2 ^ 64 - 2 ^ 37))
    .next (s.modSched (fun c => { c with binds := Tab.set c.binds i (r &&& keep) }))
  else .next s

/-! ## What is taken (R24) -/

/-- A workgroup holds its reservation. -/
def Workgroup.holds (r : Workgroup) : Bool := r.status == .running || r.status == .saving

/-- The workgroups that hold a reservation on cores of a test. -/
def State.holders (s : State) (p : Nat → Bool) : List Nat :=
  (s.wgs.filter (fun e => e.2.holds && p e.2.core)).map Prod.fst

/-- The sum of an amount over workgroups. -/
def State.taken (s : State) (ws : List Nat) (f : BitVec 512 → Nat) : Nat := (ws.map (fun w => f (s.hdr w))).sum

/-- A core and its cluster have room for one workgroup of a header. -/
def State.admits (s : State) (core : Nat) (h : BitVec 512) : Bool :=
  let here := s.holders (· == core)
  let clus := s.holders (fun c => clusterOf c == clusterOf core)
  decide (here.length < 16) && decide (s.taken here hdrRegKib + hdrRegKib h ≤ 512) &&
  decide (s.taken here (hdrExt · 1) + hdrExt h 1 ≤ 32) && decide (s.taken here hdrCstk + hdrCstk h ≤ 512) &&
  decide (s.taken clus hdrKstk + hdrKstk h ≤ 12288) && decide (s.taken clus hdrAcck + hdrAcck h ≤ 2048) &&
  decide (s.taken clus hdrScalek + hdrScalek h ≤ 256) && decide (s.taken clus hdrClaims + hdrClaims h ≤ 1024)

/-- A launch holds route tags of a die. -/
def State.hasTags (s : State) (l die : Nat) : Bool :=
  (List.range 8).any (fun t => match Tab.get s.sched.tags (die * 8 + t) with
    | some (l', _) => l' == l
    | none => false)

/-- Free route tags of a die, ascending. -/
def State.tagsLeft (s : State) (die : Nat) : List Nat :=
  (List.range 8).filter (fun t => (Tab.get s.sched.tags (die * 8 + t)).isNone)

/-- The logical barriers of a launch. -/
def wbList (h : BitVec 512) : List Nat := (List.range 8).filter (fun i => (hdrWbmask h).testBit i)

/-- The die has the tags that a launch needs (R27). -/
def State.tagsOk (s : State) (l die : Nat) : Bool :=
  let need := (wbList (s.launch l).hdr).length
  need == 0 || s.hasTags l die || decide (need ≤ (s.tagsLeft die).length)

/-- Bind a launch's tags when it is first placed on a die (R27). -/
def State.bindTags (s : State) (l die : Nat) : State :=
  if s.hasTags l die then s
  else
    s.modSched (fun c => { c with
      tags := ((wbList (s.launch l).hdr).zip (s.tagsLeft die)).foldl
        (fun t e => Tab.set t (die * 8 + e.2) (some (l, BitVec.ofNat 3 e.1))) c.tags })

/-- Dispatch onto a die has stopped (R315). -/
def State.dieBlocked (s : State) (die : Nat) : Bool := s.prim.commit == .quiesce && s.prim.shadowDies.contains die

/-- No workgroup of higher priority waits in a core's cluster (R292). -/
def State.prioOk (s : State) (core prio : Nat) : Bool :=
  (Tab.get s.sched.pending (clusterOf core)).all (fun p => decide (p.prio ≤ prio))

/-- 0 to n − 1 from a start, wrapping. -/
def rotate (n k : Nat) : List Nat := (List.range n).map (fun i => (k + i) % n)

/-- The cores that a launch may be placed on now, in the order in which they are tried (R292). -/
def State.tries (s : State) (l : Nat) : List Nat :=
  let x := s.launch l
  let vif := vifOf x.ctx
  ((rotate 4 (Tab.get s.sched.nextDie (vif * 16 + x.prio))).filter (fun d => !s.dieBlocked d && s.tagsOk l d)).flatMap (fun d =>
    ((rotate 96 (Tab.get s.sched.nextCore d)).map (d * 96 + ·)).filter (fun c => s.isBound vif x.prio c && s.prioOk c x.prio))

/-- The clusters of some cores, each once, in their order. -/
def clustersOf (l : List Nat) : List Nat :=
  l.foldl (fun a c => if a.contains (clusterOf c) then a else a ++ [clusterOf c]) []

/-! ## Seats (R25) -/

/-- Gang places of a slot that are taken. -/
def State.slotPlaces (s : State) (core slot : Nat) : List Nat :=
  (s.holders (· == core)).flatMap (fun w => ((s.wg w).gangs.filter (fun e => e.2.slot == slot)).map (fun e => e.2.place))

/-- The slot with the fewest gangs, ties to the lower. -/
def State.freeSlot (s : State) (core : Nat) : Nat :=
  let n := fun (k : Nat) => (s.slotPlaces core k).length
  [1, 2, 3].foldl (fun b k => if n k < n b then k else b) 0

/-- The lowest number not in a list. -/
def lowestFree (l : List Nat) (n : Nat) : Nat := ((List.range n).find? (fun k => !l.contains k)).getD 0

/-- Place a gang in a slot. -/
def State.seatGang (s : State) (w g : Nat) (x : Gang) : State :=
  let core := (s.wg w).core
  let slot := s.freeSlot core
  s.setGang w g { x with slot := slot, place := lowestFree (s.slotPlaces core slot) 8, readyAt := s.cycle }

/-- A free workgroup place of a core. -/
def State.freePlace (s : State) (core : Nat) : Nat := lowestFree ((s.holders (· == core)).map (fun w => (s.wg w).place)) 16

/-- The record of the argument block that d0 holds (R16): BASE has 56 bits (log 87). -/
def argRecord (h : BitVec 512) : BitVec 256 := recOf (2 ^ 56 + hdrArgs h % 2 ^ 56) (hdrArglen h) 0 1

/-- A gang at its first instruction (R14, R16, R322). -/
def newGang (x : Launch) : Gang :=
  let n := hdrExt x.hdr 0
  let live := maskOf (List.range n)
  let one := fun (t : Tab Word) (i : Nat) =>
    ((List.range x.initV.length).zip x.initV).foldl (fun t e => Tab.set t (vKey i (1 + e.1)) e.2) t
  { (default : Gang) with
    v := (List.range 32).foldl one []
    k := (List.range 8).map (fun k => (k, live))
    d := Tab.set [] 0 (argRecord x.hdr)
    thr := (List.range n).map (fun i => (i, { st := .exec, pc := word (hdrEntry x.hdr), rstack := [], refused := 0 }))
    splits := [{ id := 0, lanes := live, replay := none }]
    nextId := 1 }

/-- The first acquire at dev of every thread of a workgroup (R102, R284). -/
def State.acquireWg (s : State) (w : Nat) : State :=
  (Tab.keys (s.wg w).gangs).foldl (fun s g => s.acquireAll w g (s.gang w g).live 5) s

/-- A workgroup starts on a core with fresh gangs. -/
def State.start (s : State) (w l ord core : Nat) (clus : Bool) : State :=
  let x := s.launch l
  let place := s.freePlace core
  let s := s.bindTags l (dieOf core)
  let s := s.modWg w (fun _ => { (default : Workgroup) with
    status := .running, launch := l, ord := ord, core := core, place := place, barClus := clus, ipri := s.ipri (vifOf x.ctx) })
  let s := (List.range (hdrExt x.hdr 1)).foldl (fun s g => s.seatGang w g (newGang x)) s
  s.acquireWg w

/-- Dispatch goes on after the core of the last placement. -/
def State.moveOn (s : State) (l core : Nat) : State :=
  let x := s.launch l
  s.modSched (fun c => { c with
    nextDie := Tab.set c.nextDie (vifOf x.ctx * 16 + x.prio) ((dieOf core + 1) % 4)
    nextCore := Tab.set c.nextCore (dieOf core) ((core % 96 + 1) % 96) })

/-- Cores in their circular order, from the one after a core of them on. -/
def after (core : Nat) (cores : List Nat) : List Nat :=
  (cores.dropWhile (· != core)).drop 1 ++ cores.takeWhile (· != core) ++ [core]

/-- Place new workgroups on some cores, each on the first that admits it from the core after the one used last on (R292); none: one of
them finds no core. -/
def State.placeAll (s : State) (l : Nat) (cores : List Nat) : List Nat → Option State
  | [] => some s
  | o :: os =>
    match cores.find? (fun c => s.admits c (s.launch l).hdr) with
    | none => none
    | some core =>
      let w := s.nextWg
      (((({ s with nextWg := w + 1 } : State).start w l o core false).moveOn l core)).placeAll l (after core cores) os

/-- The first cluster of some cores that admits the whole group. -/
def State.placeGroup (s : State) (l : Nat) (cores ords : List Nat) : List Nat → Option State
  | [] => none
  | k :: ks =>
    match s.placeAll l (cores.filter (fun c => clusterOf c == k)) ords with
    | some s => some s
    | none => s.placeGroup l cores ords ks

/-- Place a workgroup, or a cluster group whole, on cores in their order, and open its barriers (R25, R28, R292). -/
def State.placeUnit (s : State) (l : Nat) (cores ords : List Nat) : Option State :=
  let n := s.nextWg
  let r := if hdrCb (s.launch l).hdr then s.placeGroup l cores ords (clustersOf cores) else s.placeAll l cores ords
  r.map (fun s => ((List.range (s.nextWg - n)).map (n + ·)).foldl (fun s w => s.openBarriers w) s)

/-! ## Workgroups that come back (R32, R302) -/

/-- The counts of a gang's waits go on from a cycle, those that a trap or a diversion has set aside included (R188, R189). -/
def Gang.recount (g : Gang) (cycle : Nat) : Gang :=
  let now := fun (p : Park) => { p with since := cycle }
  { g with parks := g.parks.map now, saved := g.saved.map (fun v => { v with parks := v.parks.map now }) }

/-- Give a saved workgroup a core: its regions restored, its seats, its remaining timeouts, the acquire of R102, and its waits
evaluated first. It takes no part any more in the barrier instances of a cluster that it has left. -/
def State.reseatWg (s : State) (w core : Nat) : State :=
  let place := s.freePlace core
  let gs := (s.wg w).gangs
  let s := s.bindTags (s.wg w).launch (dieOf core)
  let s := s.modMs (fun m => m.settle (inRegionOf w))
  let pri := s.ipri (vifOf (s.ctxKey w))
  let s := s.modWg w (fun r => { r with status := .running, core := core, place := place, ipri := pri, gangs := [] })
  let s := (Tab.keys gs).foldl (fun s g => s.seatGang w g ((Tab.get gs g).recount s.cycle)) s
  let s := s.leaveBarriers w
  let s := s.acquireWg w
  (Tab.keys gs).foldl (fun s g => (Tab.get gs g).parks.foldl (fun s p =>
    match s.waiting w g p.id with
    | none => s
    | some p => (s.clearPark w g p).getD s) s) s

/-- Put saved workgroups on cores of a list. -/
def State.resumeAll (s : State) (cores : List Nat) : List Nat → Option State
  | [] => some s
  | w :: ws =>
    match cores.find? (fun c => s.admits c (s.hdr w)) with
    | none => none
    | some core => ((s.reseatWg w core).moveOn (s.wg w).launch core).resumeAll (after core cores) ws

/-- The same in the first cluster that admits them all. -/
def State.resumeIn (s : State) (cores ws : List Nat) : List Nat → Option State
  | [] => none
  | k :: ks =>
    match s.resumeAll (cores.filter (fun c => clusterOf c == k)) ws with
    | some s => some s
    | none => s.resumeIn cores ws ks

/-- The saved workgroups that resume with one: its cluster group. -/
def State.together (s : State) (w : Nat) : List Nat :=
  let r := s.wg w
  let h := s.hdr w
  if hdrCb h then
    (s.wgs.filter (fun e => e.2.launch == r.launch && e.2.ord / hdrExt h 2 == r.ord / hdrExt h 2 && e.2.status == .saved)).map Prod.fst
  else [w]

/-- A member of the group is still being saved. -/
def State.groupSaving (s : State) (w : Nat) : Bool :=
  let r := s.wg w
  let h := s.hdr w
  hdrCb h && s.wgs.any (fun e => e.2.launch == r.launch && e.2.ord / hdrExt h 2 == r.ord / hdrExt h 2 && e.2.status == .saving)

/-- A saved or killed workgroup rejoins its launch's work, if its place admits it (R32, R302). -/
def State.comeBack (s : State) (w : Nat) : Option State :=
  let r := s.wg w
  let l := r.launch
  let h := s.hdr w
  let cores := s.tries l
  match r.status with
  | .saved =>
      if s.groupSaving w then none
      else
        let cores := if hdrWbmask h ≠ 0 then cores.filter (fun c => dieOf c == dieOf r.core) else cores
        let fixed := s.wgs.any (fun e => e.2.launch == l && e.2.barClus)
        let cores := if fixed then cores.filter (fun c => clusterOf c == clusterOf r.core) else cores
        let ws := s.together w
        (if hdrCb h then s.resumeIn cores ws (clustersOf cores) else s.resumeAll cores ws).map (fun s => ws.foldl State.openBarriers s)
  | .relaunch =>
      let cores := if hdrCb h then cores.filter (fun c => clusterOf c == clusterOf r.core) else cores
      match cores.find? (fun c => s.admits c h) with
      | none => none
      | some core => some (((s.start w l r.ord core r.barClus).moveOn l core).openBarriers w)
  | .absent | .running | .saving | .gone => none

/-- A workgroup of a priority or above waits to come back and can. -/
def State.backFirst (s : State) (prio : Nat) : Bool :=
  s.wgs.any (fun e => (e.2.status == .saved || e.2.status == .relaunch) && decide (prio ≤ (s.launch e.2.launch).prio) &&
    (s.comeBack e.1).isSome)

/-- WORKGROUP_RELAUNCH (R32). -/
def execWorkgroupRelaunch (w : Nat) (s : State) : Host.Outcome State Fault Refusal :=
  if (s.wg w).status = .relaunch then .next ((s.comeBack w).getD s) else .next s

/-- WORKGROUP_RESUME (R302). -/
def execWorkgroupResume (w : Nat) (s : State) : Host.Outcome State Fault Refusal :=
  if (s.wg w).status = .saved then .next ((s.comeBack w).getD s) else .next s

/-! ## Dispatch (R290, R292) -/

/-- The queue of an interface has a bound core. -/
def State.queueBound (s : State) (vif q : Nat) : Bool := (List.range 384).any (s.isBound vif q)

/-- The launch that a queue hands to dispatch next. -/
def State.queueHead (s : State) (vif q : Nat) : Option Nat :=
  match Tab.get (s.vif vif).queues q with
  | [] => none
  | l :: _ => if (s.launch l).next < hdrWgs (s.launch l).hdr ∧ s.queueBound vif q then some l else none

/-- The launch that dispatch takes next: highest priority, interfaces of one priority in turn. -/
def State.nextHead (s : State) : Option Nat :=
  (rotate 16 0).reverse.findSome? (fun q => (rotate 64 (Tab.get s.sched.nextVif q)).findSome? (fun v => s.queueHead v q))

/-- A launch wholly placed leaves its queue. -/
def State.leaveQueue (s : State) (l : Nat) : State :=
  let x := s.launch l
  if x.next < hdrWgs x.hdr ∨ s.sched.pending.any (fun e => e.2.any (fun p => p.launch == l)) then s
  else s.modVif (vifOf x.ctx) (fun v => { v with queues := Tab.modify v.queues x.prio (fun q => q.filter (· != l)) })

/-- Clusters with a core in a launch's bound set. -/
def State.boundClusters (s : State) (l : Nat) : List Nat :=
  let x := s.launch l
  (List.range 48).filter (fun k => (List.range 8).any (fun c => s.isBound (vifOf x.ctx) x.prio (k * 8 + c)))

/-- LBTHR of the first bind of a queue that names a core of a cluster. -/
def State.lbthr (s : State) (vif q clus : Nat) : Nat :=
  match s.sched.binds.find? (fun e => bindNames e.2 vif q && (List.range 8).any (fun c => bindCore e.2 (clus * 8 + c))) with
  | some e => bindField e.2 0 37 8
  | none => 0

/-- An entry at the tail of its priority. -/
def putPending (l : List Pending) (p : Pending) : List Pending :=
  l.takeWhile (fun q => decide (p.prio ≤ q.prio)) ++ p :: l.dropWhile (fun q => decide (p.prio ≤ q.prio))

/-- Join the pending queue with the fewest entries (R292). -/
def State.pend (s : State) (l : Nat) (ords : List Nat) : State :=
  let x := s.launch l
  let n := fun (k : Nat) => (Tab.get s.sched.pending k).length
  match s.boundClusters l with
  | [] => s
  | k0 :: ks =>
    let k := ks.foldl (fun b k => if n k < n b then k else b) k0
    let p : Pending := { launch := l, ords := ords, prio := x.prio, lbthr := s.lbthr (vifOf x.ctx) x.prio k, seq := s.sched.nextSeq }
    s.modSched (fun c => { c with pending := Tab.modify c.pending k (fun q => putPending q p), nextSeq := c.nextSeq + 1 })

/-- WORKGROUP_PLACE (R290, R292): one workgroup, or one cluster group, of the next launch. -/
def execWorkgroupPlace (s : State) : Host.Outcome State Fault Refusal :=
  match s.nextHead with
  | none => .next s
  | some l =>
    let x := s.launch l
    if s.backFirst x.prio then .next s
    else
      let n := if hdrCb x.hdr then hdrExt x.hdr 2 else 1
      let ords := (List.range n).map (x.next + ·)
      let s := s.modSched (fun c => { c with nextVif := Tab.set c.nextVif x.prio ((vifOf x.ctx + 1) % 64) })
      let s := s.modLaunch l (fun x => { x with next := x.next + n })
      let s := match s.placeUnit l (s.tries l) ords with
        | some s => s
        | none => s.pend l ords
      .next (s.leaveQueue l)

/-- PENDING_ADMIT (R292). -/
def execPendingAdmit (clus : Nat) (s : State) : Host.Outcome State Fault Refusal :=
  match Tab.get s.sched.pending clus with
  | [] => .next s
  | p :: rest =>
    if s.backFirst p.prio then .next s
    else
      match s.placeUnit p.launch ((s.tries p.launch).filter (fun c => clusterOf c == clus)) p.ords with
      | none => .next s
      | some s => .next ((s.modSched (fun c => { c with pending := Tab.set c.pending clus rest })).leaveQueue p.launch)

/-- Workgroups that a pending queue stands for. -/
def depth (l : List Pending) : Nat := (l.map (fun p => p.ords.length)).sum

/-- The newest entry of a pending queue. -/
def newest : List Pending → Option Pending
  | [] => none
  | p :: l => some (l.foldl (fun b q => if b.seq < q.seq then q else b) p)

/-- LOAD_BALANCE_EXCHANGE (R293): a cluster and the next one of its die. -/
def execLoadBalanceExchange (clus : Nat) (s : State) : Host.Outcome State Fault Refusal :=
  let other := clus / 12 * 12 + (clus % 12 + 1) % 12
  let a := Tab.get s.sched.pending clus
  let b := Tab.get s.sched.pending other
  let (deep, shallow) := if depth b < depth a then (clus, other) else (other, clus)
  let qd := Tab.get s.sched.pending deep
  let qs := Tab.get s.sched.pending shallow
  match newest qd with
  | none => .next s
  | some p =>
    if p.lbthr = 0 ∨ depth qd ≤ depth qs + p.lbthr ∨ !(s.boundClusters p.launch).contains shallow then .next s
    else
      let x := s.launch p.launch
      let p' := { p with lbthr := s.lbthr (vifOf x.ctx) x.prio shallow, seq := s.sched.nextSeq }
      .next (s.modSched (fun c => { c with
        pending := Tab.set (Tab.set c.pending deep (qd.filter (fun q => q.seq != p.seq))) shallow (putPending qs p')
        nextSeq := c.nextSeq + 1 }))

/-! ## Retirement (R31) -/

/-- A workgroup's work is done. -/
def Workgroup.isDone (r : Workgroup) : Bool :=
  r.status == .running && r.gangs.all (fun e => e.2.live == 0#32 && e.2.queue.isEmpty) && r.chain.isEmpty && r.flows.isEmpty

/-- WORKGROUP_RETIRE (R31). -/
def execWorkgroupRetire (w : Nat) (s : State) : Host.Outcome State Fault Refusal :=
  let r := s.wg w
  if !r.isDone then .next s
  else
    let s := s.endWg w
    .next ((s.modLaunch r.launch (fun x => { x with ended := x.ended + 1 })).settleLaunch r.launch)

end Sys2Proof.Machine
end

