-- ==== Sys2Proof/Machine/Preempt.lean ====
section
/-! DEFINITION. Pre-emption, contexts, spawns from the host (spec/27_control.md R300 to R303, R309, spec/21_claims.md R236, R242,
R246, spec/07_ordering.md R102, spec/29_system.md R318, R322, R323). -/

namespace Sys2Proof.Machine

/-! ## Requests (R300) -/

/-- The workgroups that a request vacates: those of the context on the cores, and the whole of a cluster group. -/
def State.vacated (s : State) (key : Nat) (cores : List Nat) : List Nat :=
  let mine := s.wgs.filter (fun e => e.2.status == .running && s.ctxKey e.1 == key)
  let hit := mine.filter (fun e => cores.contains e.2.core)
  (mine.filter (fun e => hit.any (fun h => h.1 == e.1 ||
    (h.2.launch == e.2.launch && hdrCb (s.hdr e.1) && h.2.ord / hdrExt (s.hdr e.1) 2 == e.2.ord / hdrExt (s.hdr e.1) 2)))).map
      Prod.fst

/-- Workgroups begin to be vacated. -/
def State.vacate (s : State) (key : Nat) (cores : List Nat) : State :=
  let ws := s.vacated key cores
  if ws.isEmpty then s
  else
    (ws.foldl (fun s w => s.modWg w (fun r => { r with status := .saving })) s).modSched (fun c => { c with
      preempts := c.preempts ++ [(key, cores)] })

/-- PREEMPT_REQUEST (R300, R303). -/
def execPreemptRequest (key : Nat) (cores : List Nat) (s : State) : Host.Outcome State Fault Refusal :=
  if s.prim.locked then .next s else .next (s.vacate key cores)

/-! ## The save (R301) -/

/-- Steps 2 of R301 and the WALKING row of R236: LIVE claims lapse with WHY 3, walks end. -/
def State.lapseAll (s : State) (w : Nat) : State :=
  (Tab.keys (s.wg w).slots).foldl (fun s n =>
    match (Tab.get (s.wg w).slots n).st with
    | .live => s.lapse w n 3
    | .walking => (s.returnClaim w n).modSlot w n (fun x => { x with st := .free })
    | .free | .lapsed | .released => s) s

/-- Dahlia has a task of the workgroup that completes before the stop, or a completion to give (R246). -/
def State.dahliaHolds (s : State) (w : Nat) : Bool :=
  let r := s.wg w
  (s.engine (clusterOf r.core)).busy == some w &&
    (match r.chain with
     | [] => false
     | t :: _ => t.done || tOpc t.record != 0)

/-- Every gang stands at a run boundary, no flow is in progress, no tile moves, Dahlia stands at a K-step boundary. -/
def State.saveReady (s : State) (w : Nat) : Bool :=
  let r := s.wg w
  r.gangs.all (fun e => e.2.run.isNone) && !r.flows.any Flow.started && r.moves.isEmpty && !s.dahliaHolds w

/-- KiB that one workgroup's save takes (R318): 64 and the reservation, rounded up to 64. -/
def saveKib (h : BitVec 512) : Nat := 64 + (hdrRegKib h + hdrCstk h + hdrKstk h + hdrAcck h + hdrScalek h + 63) / 64 * 64

/-- The save fits beside those of the context's other saved workgroups, in pages that are pinned. -/
def State.saveFits (s : State) (w : Nat) : Bool :=
  let key := s.ctxKey w
  let others := (s.wgs.filter (fun e => e.2.status == .saved && s.ctxKey e.1 == key)).map (fun e => saveKib (s.hdr e.1))
  let base := (s.creg key 0x30E).toNat / 4096
  let len := (s.creg key 0x30F).toNat * 64
  decide (others.sum + saveKib (s.hdr w) ≤ len) &&
    (List.range (len / 4)).all (fun p => s.isPinned key 0x30E ((base + p) * 4096))

/-- What the save leaves in the save area: bytes that the spec does not lay out. -/
def State.fillSave (s : State) (key : Nat) : State :=
  let base := (s.creg key 0x30E).toNat
  let (n, s) := s.fresh
  (List.range ((s.creg key 0x30F).toNat * 65536)).foldl (fun s j =>
    s.physWrite (vifOf key) (s.pinned key 0x30E (base + j)) 1 (Config.saveByte n j).toNat) s

/-- The ordering steps of R102. -/
def State.saveOrder (s : State) (w : Nat) : State :=
  (s.releaseWg w).modMs (fun m => m.joinClasses (.dev (vifOf (s.ctxKey w))) [.thread, .copy, .matrix, .reflect, .host])

/-- A wait keeps the count that remains (R188, R189). -/
def Park.rest (p : Park) (cycle : Nat) : Park := { p with left := p.left.map (fun n => n - (cycle - p.since)), since := cycle }

/-- Pre-emption requests of a context that are met are over. -/
def State.metRequests (s : State) : State :=
  s.modSched (fun c => { c with preempts := c.preempts.filter (fun q =>
    s.wgs.any (fun e => e.2.status == .saving && s.ctxKey e.1 == q.1)) })

/-- PREEMPT_SAVE (R301): the claims lapse; when the steps before it are done, the save. -/
def execPreemptSave (w : Nat) (s : State) : Host.Outcome State Fault Refusal :=
  if (s.wg w).status ≠ .saving then .next s
  else
    let s := if (s.wg w).gangs.all (fun e => e.2.run.isNone) then s.lapseAll w else s
    if !s.saveReady w then .next s
    else
      let key := s.ctxKey w
      let s := s.modEng (clusterOf (s.wg w).core) (fun e => if e.busy = some w then { e with busy := none } else e)
      let s := s.saveOrder w
      if !s.saveFits w then
        .next ((s.teardown key { tearRec 0x0B with launch := (s.launch (s.wg w).launch).id, wid := s.wid w 0 0 }).metRequests)
      else
        let s := s.fillSave key
        let s := s.modWg w (fun r => { r with
          status := .saved
          gangs := r.gangs.map (fun e => (e.1, { e.2 with
            parks := e.2.parks.map (fun p => p.rest s.cycle)
            saved := e.2.saved.map (fun v => { v with parks := v.parks.map (fun p => p.rest s.cycle) }) })) })
        .next s.metRequests

/-! ## Contexts (R285, R309, R318) -/

/-- A context right after its creation. -/
def Ctx.fresh : Ctx := { (default : Ctx) with present := true, uihnd := 0xFFFFFFFFFFFFFFFF#64 }

/-- CONTEXT_CREATE (R285, R286, R318). The context field 0x3FF names no context (R278); a locked device makes none (R329). -/
def execContextCreate (vif ctx : Nat) (s : State) : Host.Outcome State Fault Refusal :=
  let key := vif * 1024 + ctx
  if s.prim.locked ∨ 64 ≤ vif ∨ 1023 ≤ ctx ∨ (s.ctx key).present then .next s else .next (s.modCtx key (fun _ => Ctx.fresh))

/-- CONTEXT_TEARDOWN (R309): it begins, or one that has begun goes on when the last run of the context's gangs has ended. -/
def execContextTeardown (key : Nat) (reason : BitVec 8) (s : State) : Host.Outcome State Fault Refusal :=
  match (s.ctx key).ending with
  | some r => .next (if (s.ctx key).present && !s.ctxRuns key then s.finishTeardown key r else s)
  | none => .next (s.teardown key (tearRec reason.toNat))

/-! ## Spawns (R322, R323) -/

/-- A field of a spawn record. -/
def spawnField (r : BitVec 512) (w lo n : Nat) : Nat := fld r.toNat (64 * w + lo) n

/-- An 8-byte write of the device to host memory, at the host port. -/
def State.hostPut (s : State) (vif a x : Nat) : State :=
  s.putOther (.dev vif) .host 8 (locs (locHost a) 8) (leBytes 8 x)

/-- A read of the spawn port, without parking: the number, or the SPAWN code that it ends with. -/
def State.spawnRead (s : State) (key a n : Nat) : Except (Option Nat) Nat × State :=
  if n = 0 then (.ok 0, s)
  else
    let (p, s) := s.planVirtual key 1 .load [(0, a)] n
    match p.go with
    | [] => (.error (if p.corrupt then none else some 3), s)
    | q :: _ =>
      if (p.poison s.ms).1 ≠ 0#32 then (.error (some 4), s)
      else
        let i := Inst.dev (vifOf key)
        (.ok (leNat (q.bytes.map (fun b => match b with
          | .loc x => s.ms.readByte i .thread x
          | .zero | .host _ | .win .. => 0#8))), s)

/-- The status word of a record (R322). -/
def State.spawnStatus (s : State) (vif : Nat) (r : BitVec 512) (id spawn code : Nat) : State :=
  let a := spawnField r 2 3 54 * 8
  if a = 0 then s else s.hostPut vif a (id * 2 ^ 32 + spawnField r 1 0 16 * 2 ^ 16 + spawn * 2 ^ 8 + code)

/-- A spawn record is resolved (R322); one whose reads meet a corrupted table has failed to translate too, and the context goes (R70). -/
def State.spawn (s : State) (vif : Nat) (r : BitVec 512) : State :=
  let key := vif * 1024 + spawnField r 1 32 10
  let prio := spawnField r 0 57 4
  if !(s.ctx key).present then s.spawnStatus vif r 0 2 0
  else
    match s.spawnRead key (spawnField r 0 0 57) 64 with
    | (.error none, s) => (s.spawnStatus vif r 0 3 0).teardown key (tearRec 8)
    | (.error (some k), s) => s.spawnStatus vif r 0 k 0
    | (.ok x, s) =>
      let hdr := BitVec.ofNat 512 x
      let code := hdrCheck hdr
      if code ≠ 0 then s.spawnStatus vif r 0 0 code
      else
        match s.spawnRead key (hdrArgs hdr) (hdrArglen hdr) with
        | (.error none, s) => (s.spawnStatus vif r 0 3 0).teardown key (tearRec 8)
        | (.error (some k), s) => s.spawnStatus vif r 0 k 0
        | (.ok y, s) =>
          if 64 ≤ s.queueLen vif prio then s.spawnStatus vif r 0 1 0
          else
            let join := spawnField r 3 3 54 * 8
            let (id, s) := s.accept key hdr prio (leBytes (hdrArglen hdr) y) none (if join = 0 then none else some (word join))
              ((List.range 4).map (fun k => word (spawnField r (4 + k) 0 64)))
            s.spawnStatus vif r id.toNat 0 0

/-- SPAWN_RECORD (R322), at the spawn port of an enabled interface (R313); a locked device offers none (R329). -/
def execSpawnRecord (vif : Nat) (r : BitVec 512) (s : State) : Host.Outcome State Fault Refusal :=
  if s.prim.locked ∨ 64 ≤ vif ∨ !Word.bit (s.vreg vif 0x200) 0 then .next s else .next (s.spawn vif r)

/-- JOIN_COUNTER_INCREMENT (R323): the launch with a number in the model has retired or failed. -/
def execJoinCounterIncrement (l : Nat) (s : State) : Host.Outcome State Fault Refusal :=
  let x := s.launch l
  match x.join with
  | none => .next s
  | some a =>
    if !x.isOver then .next s
    else
      let old := leNat (s.ms.latest (locs (locHost a.toNat) 8))
      .next ((s.hostPut (vifOf x.ctx) a.toNat (old + 1)).modLaunch l (fun x => { x with join := none }))

end Sys2Proof.Machine
end

