-- ==== Sys2Proof/Machine/Deliver.lean ====
section
/-! DEFINITION. The receiving side of the fabric and the acknowledgements: verification, delivery, windows, pulls
(spec/23_fabric.md R258 to R261, R264 to R269, spec/07_ordering.md R92 to R98). -/

namespace Sys2Proof.Machine

/-! ## Acknowledgements (R83, R261, R277) -/

/-- The failure accumulator of a gang takes a code for a member (R277). -/
def Gang.fail (g : Gang) (member code : Nat) : Gang :=
  { g with fMask := g.fMask ||| BitVec.ofNat 16 (2 ^ member), fCode := if g.fCode = 0 then BitVec.ofNat 8 code else g.fCode }

/-- One entry is acknowledged with a status, 0 or a code of R271. -/
def State.ackEntry (s : State) (e : Entry) (status : Nat) : State :=
  let s := s.modFab (fun f => { f with outst := (f.outst.map (fun o =>
    if o.id = e.id then { o with left := o.left.filter (· != e.member) } else o)).filter (fun o => !o.left.isEmpty) })
  match e.gang with
  | some (w, g) => if status ≠ 0 ∧ (s.wg w).hasRegion then s.modGang w g (fun x => x.fail e.member status) else s
  | none => s

/-- The entries of one packet are acknowledged; a failure sends one error record (R271). -/
def State.ackPacket (s : State) (es : List Entry) (status : Nat) : State :=
  let s := es.foldl (fun s e => s.ackEntry e status) s
  match es with
  | [] => s
  | e :: _ =>
    if status = 0 then s
    else s.errorRecord (e.key.sctx.toNat % 65536) status e.kind.toNat e.key.pkg.toNat e.org e.key.rwin.toNat e.woff

/-- The queue that a header names. -/
def hdrKey (h : BitVec 576) : QueueKey :=
  { sctx := pkSctx h, path := BitVec.ofNat 2 (pkPath h), pod := BitVec.ofNat 7 (pkDpod h), pkg := BitVec.ofNat 9 (pkDpkg h),
    rwin := BitVec.ofNat 12 (pkRwin h) }

/-- A sequence lies in a range modulo 2^16. -/
def inSeq (first last x : Nat) : Bool := decide ((x + 65536 - first) % 65536 ≤ (last + 65536 - first) % 65536)

/-- ACK_RECEIVE (R261): packets of a queue are acknowledged. -/
def State.ackRange (s : State) (peer : Nat) (q : QueueKey) (first last status : Nat) : State :=
  let hit := fun (p : Packet) =>
    decide (1 ≤ pkKind p.hdr ∧ pkKind p.hdr ≤ 3) && pkDpkg p.hdr == peer && hdrKey p.hdr == q && inSeq first last (pkPseq p.hdr)
  let ps := s.fab.sent.filter hit
  let s := s.modFab (fun f => { f with sent := f.sent.filter (fun p => !hit p) })
  ps.foldl (fun s p => s.ackPacket p.ents status) s

def execAckReceive (peer : Nat) (q : QueueKey) (first last : BitVec 16) (status : BitVec 8) (s : State) :
    Host.Outcome State Fault Refusal :=
  .next (s.ackRange peer q first.toNat last.toNat status.toNat)

/-! ## Packing (R259) -/

/-- Entries of one queue that follow its head in one ascending contiguous range of at most 1,024 bytes (R259). An entry with the
ordered flag is not taken past an earlier entry of its sender to the package, and nothing is taken past it (R96, log 106). -/
def takeRun (q : QueueKey) : Nat → Nat → Bool → List Entry → List Entry
  | _, _, _, [] => []
  | at', n, past, x :: l =>
    if x.key = q then
      if x.kind = 1 ∧ x.woff = at' ∧ n + x.bytes.length ≤ 1024 ∧ ¬(x.ord ∧ past) then
        x :: (if x.ord then [] else takeRun q (at' + x.bytes.length) (n + x.bytes.length) past l)
      else []
    else takeRun q at' n (past || (x.key.sctx == q.sctx && x.key.pod == q.pod && x.key.pkg == q.pkg)) l

/-- The entries of the next packet from the reflection queues that a test admits. -/
def nextRun (p : QueueKey → Bool) (rq : List Entry) : List Entry :=
  match rq.find? (fun e => p e.key) with
  | none => []
  | some e =>
    let before := rq.takeWhile (fun x => !p x.key)
    if e.ord ∧ before.any (fun x => x.key.sctx == e.key.sctx && x.key.pod == e.key.pod && x.key.pkg == e.key.pkg) then []
    else if e.kind ≠ 1 ∨ e.ord then [e]
    else e :: takeRun e.key (e.woff + e.bytes.length) e.bytes.length false (rq.drop (before.length + 1))

/-- The queues without some entries. -/
def dropRun (es rq : List Entry) : List Entry := rq.filter (fun x => !es.any (fun y => y.id == x.id && y.member == x.member && y.key == x.key))

/-! ## Window delivery (R95, R96, R266, R268) -/

/-- The checks of R266: 0, or the failure code. -/
def State.parcelCode (s : State) (p : Parcel) : Nat :=
  let e := Tab.get s.fab.rxw p.rwin
  if !rxValid e ∨ rxSize e < p.woff + p.data.length - 1 then 2
  else if !maskAgree p.sctx.toNat (rxPctx e) (rxPmsk e) then 1
  else if (p.kind = 3 ∧ !rxRed e) ∨ (p.kind = 1 ∧ rxSvc e ∧ p.woff < 16384) then 1
  else 0

/-- The location of a byte of a receive window, by the pins of its validation (R265). -/
def State.windowLoc (s : State) (rwin woff : Nat) : Nat :=
  let va := rxBase (Tab.get s.fab.rxw rwin) + woff
  match (Tab.get s.fab.rxPins rwin).find? (fun p => p.vpage == va / 4096) with
  | some p => locHbm (p.frame * 4096 + va % 4096)
  | none => locHbm va

/-- Combine an element (R268): 1 ADD.F32, 2 ADD.BF16, 3 MAX.F32, 4 MAX.BF16. -/
def reduceVal (rop old x : Nat) : Nat :=
  match rop with
  | 1 => ((fmtOf 14).add 1 false old x).bits
  | 2 => ((fmtOf 13).add 1 false old x).bits
  | 3 => ((fmtOf 14).pick true false old x).bits
  | _ => ((fmtOf 13).pick true false old x).bits

/-- Element size of a reduce operation. -/
def ropSize (rop : Nat) : Nat := if rop = 1 ∨ rop = 3 then 4 else 2

/-- Pieces of given lengths from a byte on: first byte and length of each. -/
def spansFrom : Nat → List Nat → List (Nat × Nat)
  | _, [] => []
  | b, n :: ns => (b, n) :: spansFrom (b + n) ns

/-- The same for several entries one after the other. -/
def entrySpans : Nat → List (List Nat) → List (List (Nat × Nat))
  | _, [] => []
  | b, ns :: l => spansFrom b ns :: entrySpans (b + ns.sum) l

/-- The single-copy units of a delivery (R92), entry by entry: a sender's accesses, the elements of a reduction, the aligned 64-byte units
of a flow. -/
def Parcel.units (p : Parcel) (xs : List Nat) : List (List (Nat × Nat)) :=
  match p.kind with
  | 1 => entrySpans 0 p.cuts
  | 3 => [spansFrom 0 (List.replicate (xs.length / ropSize p.rop) (ropSize p.rop))]
  | _ => [spansFrom 0 ((blocks 64 xs).map List.length)]

/-- The bytes that a unit writes: its data, or an element combined with the latest one it lands on (R268). -/
def State.unitBytes (s : State) (p : Parcel) (xs : List Nat) (u : Nat × Nat) : List Byte :=
  let d := (p.data.drop u.1).take u.2
  if p.kind = 3 then leBytes u.2 (reduceVal p.rop (leNat (s.ms.latest xs)) (leNat d)) else d

/-- The agent that delivers into a window, and the receiver's device (R82, R265). -/
def State.landAt (s : State) (p : Parcel) : Inst × Inst :=
  (.die (s.servingDie p.rwin), .dev (vifOf (rxKey (Tab.get s.fab.rxw p.rwin))))

/-- Write one unit of a delivery at its window: a reflect-class write at the serving die, with its poison marks (R78, R95). -/
def State.writeUnit (s : State) (l : Landing) (u : Nat × Nat) : State :=
  let p := l.parcel
  let xs := (l.locs.drop u.1).take u.2
  let bs := s.unitBytes p xs u
  let die := (s.landAt p).1
  let s := match p.wg with
    | some w => s.put w die .reflect 1 xs bs
    | none => s.putOther die .reflect 1 xs bs
  let marked := ((List.range xs.length).zip xs).filter (fun e => p.pmask.testBit ((u.1 + e.1) / 64))
  s.modMs (fun m => (if u.2 < 2 then m else m.tieUnit xs).mark (marked.map Prod.snd))

/-- The end of an entry's delivery: the push of its bytes to dev; an ordered flag joins reflect into thread there (R95, R96). -/
def State.pushEntry (s : State) (p : Parcel) (xs : List Nat) (ord : Bool) : State :=
  let (die, dev) := s.landAt p
  s.modMs (fun m =>
    let m := m.joinAt die .reflect dev .reflect xs
    if ord then m.join dev .reflect dev .thread else m)

/-- Pull records that a delivered store puts into a service window, each a whole aligned block of 64 bytes (R269). -/
def State.takePulls (s : State) (p : Parcel) : State :=
  if p.kind = 1 ∧ rxSvc (Tab.get s.fab.rxw p.rwin) then
    let first := (p.woff + 63) / 64
    s.modFab (fun f => { f with pulls := f.pulls ++ (List.range ((p.woff + p.data.length) / 64 - first)).map (fun j =>
      let off := 64 * (first + j)
      { rwin := BitVec.ofNat 12 p.rwin, sctx := p.sctx, record := BitVec.ofNat 512 (leNat ((p.data.drop (off - p.woff)).take 64)),
        woff := off, org := p.org }) })
  else s

/-- The units of an entry: the sender's access when it is naturally aligned, else each byte (R92). -/
def Entry.cuts (e : Entry) : List Nat :=
  if e.woff % Nat.max e.bytes.length 1 = 0 then [e.bytes.length] else List.replicate e.bytes.length 1

/-- What the loop-back entries of one packet bring. -/
def runParcel (es : List Entry) : Parcel :=
  let e := es.headD default
  { kind := e.kind.toNat, sctx := e.key.sctx, pkg := e.key.pkg.toNat, rwin := e.key.rwin.toNat, woff := e.woff,
    data := es.flatMap Entry.bytes, cuts := es.map Entry.cuts, pmask := e.pmask.toNat, rop := e.rop.toNat, ord := es.any Entry.ord,
    wg := (e.gang.map Prod.fst).or (e.flow.map Prod.fst), org := e.org }

/-- The origin fields of a header. -/
def hdrOrigin (h : BitVec 576) : Origin :=
  { core := hf h 3 35 9, idx := hf h 3 27 8, stamp := BitVec.ofNat 24 (hf h 3 0 24), launch := BitVec.ofNat 32 (hf h 5 32 32),
    pc := 0, wid := 0 }

/-- The number under which a packet of another package is known here: its counter and its source (R260). -/
def hdrNum (h : BitVec 576) : Nat := pkNctr h * 2 ^ 16 + pkSpod h * 512 + pkSpkg h

/-- The accesses of the sender that filled the data of a STORE packet, which does not say where its entries begin: at each byte one of a
size that Config names (log 88), naturally aligned, else a single byte (R92). -/
def storeCuts (size : Nat → Nat) (svc : Bool) : Nat → Nat → Nat → List (List Nat)
  | 0, _, _ => []
  | fuel + 1, off, len =>
    if len = 0 then []
    else
      let k := if len = 1 then 1 else size off
      let n := if (k = 2 ∨ k = 4 ∨ k = 8 ∨ (svc ∧ k = 64)) ∧ off % k = 0 ∧ k ≤ len then k else 1
      [n] :: storeCuts size svc fuel (off + n) (len - n)

/-- What a verified packet brings. -/
def State.inParcel (s : State) (p : Inbound) : Parcel :=
  { kind := pkKind p.hdr, sctx := pkSctx p.hdr, pkg := pkSpkg p.hdr, rwin := pkRwin p.hdr, woff := pkWoff p.hdr, data := p.data,
    cuts := storeCuts (Config.storeAccess (hdrNum p.hdr)) (rxSvc (Tab.get s.fab.rxw (pkRwin p.hdr))) p.data.length (pkWoff p.hdr) p.data.length,
    pmask := pkPmask p.hdr, rop := pkRop p.hdr, ord := pkOrd p.hdr, wg := none, org := hdrOrigin p.hdr }

/-- Every packet of a sender with an OSEQ below one has been delivered (R261). -/
def State.oseqDone (s : State) (sctx : BitVec 32) (oseq : Nat) : Bool :=
  (assocGet s.fab.inOseq sctx [0]).headD 0 == oseq

/-- The next OSEQ of a sender, after those delivered beyond it. -/
def oseqStep (fuel : Nat) (next : Nat) (rest : List Nat) : List Nat :=
  match fuel with
  | 0 => next :: rest
  | fuel + 1 => if rest.contains next then oseqStep fuel ((next + 1) % 65536) (rest.filter (· != next)) else next :: rest

/-- A packet of a sender has been delivered. -/
def State.oseqMark (s : State) (sctx : BitVec 32) (oseq : Nat) : State :=
  let l := assocGet s.fab.inOseq sctx [0]
  let rest := oseq :: l.tail
  s.modFab (fun f => { f with inOseq := assocPut f.inOseq sctx (oseqStep rest.length (l.headD 0) rest) })

/-- Remove the first element that satisfies a test. -/
def dropFirst {α : Type} (p : α → Bool) : List α → List α
  | [] => []
  | x :: l => if p x then l else x :: dropFirst p l

/-- The next packet's worth of a queue of loop-back entries, if no ordered entry must wait (R96, R98). -/
def State.loopHead (s : State) (q : QueueKey) : List Entry :=
  if s.isSelf q.pod.toNat q.pkg.toNat then nextRun (· == q) s.fab.rq else []

/-- The next packet of an inbound queue, in PSEQ order; an ordered one waits for every lower OSEQ (R261). -/
def State.inboundHead (s : State) (q : QueueKey) : Option Inbound :=
  match s.fab.inbound.find? (fun p => decide (pkKind p.hdr ≤ 3) && hdrKey p.hdr == q && pkPseq p.hdr == assocGet s.fab.inPseq q 0 % 65536) with
  | none => none
  | some p => if pkOrd p.hdr && !s.oseqDone (pkSctx p.hdr) (pkOseq p.hdr) then none else some p

/-- A packet is answered with its status, which is kept for duplicates of it (R261). -/
def State.answerPacket (s : State) (h : BitVec 576) (status : Nat) : State :=
  (s.modFab (fun f => { f with answers := Tab.set f.answers (hdrNum h) (status + 1) })).sendAck h status

/-- The delivery under way of a queue. -/
def State.landingOf (s : State) (q : QueueKey) : Option Landing := s.fab.landing.find? (fun l => l.key == q)

/-- A delivery as it begins: nothing of it is written. -/
def State.landingFor (s : State) (q : QueueKey) (p : Parcel) (ents : List Entry) (hdr : Option (BitVec 576)) : Landing :=
  let xs := (List.range p.data.length).map (fun j => s.windowLoc p.rwin (p.woff + j))
  { key := q, parcel := p, locs := xs, ents := ents, hdr := hdr, left := p.units xs, done := [] }

/-- A packet of another package has been delivered or refused: the next of its queue has its turn (R261). -/
def State.inboundDone (s : State) (h : BitVec 576) (status : Nat) : State :=
  let s := s.modFab (fun f => { f with inPseq := assocPut f.inPseq (hdrKey h) ((pkPseq h + 1) % 65536) })
  (s.oseqMark (pkSctx h) (pkOseq h)).answerPacket h status

/-- The head of a queue, loop-back or inbound, is checked (R266): refused as a whole, or its delivery begins. A window that is being cleared
takes no more (R265). -/
def State.beginLanding (s : State) (q : QueueKey) : State :=
  if s.fab.clearing.contains q.rwin.toNat then s
  else
    match s.loopHead q with
    | e :: es =>
        let run := e :: es
        let p := runParcel run
        let code := s.parcelCode p
        let t := s.modFab (fun f => { f with rq := dropRun run f.rq })
        if code ≠ 0 then t.ackPacket run code
        else t.modFab (fun f => { f with landing := f.landing ++ [s.landingFor q p run none] })
    | [] =>
      match s.inboundHead q with
      | none => s
      | some x =>
        let p := s.inParcel x
        let code := s.parcelCode p
        let t := s.modFab (fun f => { f with inbound := dropFirst (· == x) f.inbound })
        if code ≠ 0 then t.inboundDone x.hdr code
        else t.modFab (fun f => { f with landing := f.landing ++ [s.landingFor q p [] (some x.hdr)] })

/-- The entry in delivery carries the ordered flag; of a packet of another package it is the last one, which alone can (R96, log 106). -/
def Landing.atFlag (l : Landing) : Bool :=
  match l.ents with
  | e :: _ => e.ord
  | [] => l.parcel.ord && decide (l.left.length ≤ 1)

/-- An ordered loop-back entry has its turn: nothing that its sender enqueued earlier for the package is undelivered (R96). -/
def State.flagReady (s : State) (l : Landing) : Bool :=
  match l.ents with
  | e :: _ =>
      let before := fun (x : Entry) => x.key.sctx == e.key.sctx && x.key.pod == e.key.pod && x.key.pkg == e.key.pkg && decide (x.id < e.id)
      !e.ord || !(s.fab.rq.any before || s.fab.landing.any (fun y => y.key != l.key && y.ents.any before))
  | [] => true

/-- A delivery changed. -/
def State.modLanding (s : State) (q : QueueKey) (f : Landing → Landing) : State :=
  s.modFab (fun y => { y with landing := y.landing.map (fun l => if l.key = q then f l else l) })

/-- The entry in delivery is delivered: pushed to dev and, of a loop-back, acknowledged (R95); after the last one the delivery is over. -/
def State.landEntry (s : State) (l : Landing) : State :=
  let s := s.pushEntry l.parcel (l.done.map (fun j => l.locs.getD j 0)) l.atFlag
  let s := match l.ents with
    | e :: _ => s.ackEntry e 0
    | [] => s
  if 1 < l.left.length then s.modLanding l.key (fun l => { l with left := l.left.tail, ents := l.ents.tail, done := [] })
  else
    let s := (s.modFab (fun f => { f with landing := f.landing.filter (fun y => y.key != l.key) })).takePulls l.parcel
    match l.hdr with
    | some h => s.inboundDone h 0
    | none => s

/-- Write one of the units that are left of the entry in delivery. -/
def State.landUnit (s : State) (l : Landing) (k : Nat) : State :=
  match l.left with
  | [] => s.landEntry l
  | us :: rest =>
    match us[k]? with
    | none => if us.isEmpty then s.landEntry l else s
    | some u =>
      let l := { l with left := us.eraseIdx k :: rest, done := l.done ++ (List.range u.2).map (u.1 + ·) }
      let s := (s.writeUnit l u).modLanding l.key (fun _ => l)
      if us.length ≤ 1 then s.landEntry l else s

/-- An entry without its V bit. -/
def rxOff (e : BitVec 256) : BitVec 256 := recPut e 0 63 1 0

/-- The entry of a window loses its V bit; claims into it lapse (R242, R265). -/
def State.clearWindow (s : State) (rwin : Nat) : State :=
  (s.modFab (fun f => { f with rxw := Tab.set f.rxw rwin (rxOff (Tab.get f.rxw rwin)), rxPins := Tab.set f.rxPins rwin [] })).withdraw rwin
    (fun _ => true)

/-- The windows that are being cleared and into which no delivery is under way any more are cleared (R265). -/
def State.settleClearing (s : State) : State :=
  let busy := fun (r : Nat) => s.fab.landing.any (fun l => l.parcel.rwin == r)
  (s.fab.clearing.filter (fun r => !busy r)).foldl State.clearWindow (s.modFab (fun f => { f with clearing := f.clearing.filter busy }))

/-- Deliver a unit from the head of a queue, loop-back or inbound, when its ordered flag is as asked (R92, R95): the unit with a number
among those of the head entry that are left. -/
def State.deliverUnit (s : State) (q : QueueKey) (ord : Bool) (k : Nat) : State :=
  let s := if (s.landingOf q).isNone then s.beginLanding q else s
  match s.landingOf q with
  | none => s
  | some l => if l.atFlag ≠ ord ∨ !s.flagReady l then s else (s.landUnit l k).settleClearing

/-- REFLECT_DELIVER (R95): the next unit of the head entry of a queue, without the ordered flag. -/
def execReflectDeliver (q : QueueKey) (s : State) : Host.Outcome State Fault Refusal := .next (s.deliverUnit q false 0)

/-- ORDERED_FLAG_DELIVER (R96). -/
def execOrderedFlagDeliver (q : QueueKey) (s : State) : Host.Outcome State Fault Refusal := .next (s.deliverUnit q true 0)

/-- The same for any unit of the entry in delivery: the units of an entry are written in any order (R92). -/
def State.landAny (s : State) (q : QueueKey) (k : Nat) : State :=
  match s.landingOf q with
  | none => s
  | some l => s.deliverUnit q l.atFlag k

/-! ## User interrupts of other packages (R278) -/

/-- 3 cycles of 4.8 µs at 1.3 GHz: the time after which a packet is sent again (R261). -/
def resendCycles : Nat := 18720

/-- How far a user interrupt's number lies ahead of the next one of its sender. -/
def State.uintAhead (s : State) (p : Inbound) : Nat := (pkPseq p.hdr + 65536 - assocGet s.fab.inUseq (pkSctx p.hdr) 0) % 65536

/-- A waiting user interrupt of a sender that satisfies a test. -/
def State.uintWith (s : State) (sctx : BitVec 32) (t : Inbound → Bool) : Option Inbound :=
  s.fab.inbound.find? (fun p => pkKind p.hdr == 7 && pkSctx p.hdr == sctx && t p)

/-- A user interrupt is taken in its turn or after a gap, and sets the next number; one that comes after its successor has been taken is
refused, since it would reach the pending state out of order (R278, log 85). -/
def State.takeUint (s : State) (p : Inbound) : State :=
  let h := p.hdr
  let late := decide (32768 ≤ s.uintAhead p)
  let next := if late then assocGet s.fab.inUseq (pkSctx h) 0 else (pkPseq h + 1) % 65536
  let s := s.modFab (fun f => { f with inbound := dropFirst (· == p) f.inbound, inUseq := assocPut f.inUseq (pkSctx h) next })
  let s := s.oseqMark (pkSctx h) (pkOseq h)
  if late then s.uiRefuse (pkSctx h) false (hdrOrigin h) true
  else s.uintTake (pkSctx h) (BitVec.ofNat 32 (pkKc h)) (pkKa h % 64) (word (pkKb h)) false (hdrOrigin h)

/-- The user interrupts of a sender that are in their turn, or late. -/
def State.takeUints (sctx : BitVec 32) : Nat → State → State
  | 0, s => s
  | n + 1, s =>
    match s.uintWith sctx (fun p => s.uintAhead p == 0 || decide (32768 ≤ s.uintAhead p)) with
    | some p => takeUints sctx n (s.takeUint p)
    | none => s

/-- A gap in a sender's user interrupts is not waited for any longer: the one nearest to it is taken (log 85). -/
def State.skipGap (s : State) (sctx : BitVec 32) : State :=
  match s.uintWith sctx (fun p => s.fab.inbound.all (fun q => pkKind q.hdr != 7 || pkSctx q.hdr != sctx || decide (s.uintAhead p ≤ s.uintAhead q))) with
  | some p => takeUints sctx s.fab.inbound.length (s.takeUint p)
  | none => s

/-- The same for every sender with one that has waited for 3 cycles. -/
def State.lateUints (s : State) : State :=
  ((s.fab.inbound.filter (fun p => pkKind p.hdr == 7 && decide (p.since + resendCycles ≤ s.cycle))).map (fun p => pkSctx p.hdr)).eraseDups.foldl
    State.skipGap s

/-! ## Verification (R260) -/

/-- The number of the key of an ordered pair of packages. -/
def pairKey (h : BitVec 576) : Nat := hf h 0 20 16 * 65536 + hf h 0 36 16

/-- The key that Primrose has installed for a packet's pair of packages; 0 before that (log 24). -/
def State.hdrKeyOf (s : State) (h : BitVec 576) : BitVec 256 := Tab.get s.fab.keys (pairKey h)

/-- IV: NCTR, source, destination. -/
def packetIv (h : BitVec 576) : BitVec 96 :=
  BitVec.ofNat 96 (pkNctr h * 2 ^ 32 + (pkSpod h * 512 + pkSpkg h) * 2 ^ 16 + pkDpod h * 512 + pkDpkg h)

/-- The header as it is authenticated: HOP read as 0. -/
def hdrAuth (h : BitVec 576) : List Byte := leBytes 72 (hdrPut h 0 55 1 0).toNat

/-- The counter was accepted before, or lies too far below the highest (R260). -/
def counterBad (seen : List Nat) (n : Nat) : Bool :=
  seen.contains n || seen.any (fun m => decide (n + 4096 ≤ m))

/-- Counters kept: those less than 4,096 below the highest. -/
def counterKeep (seen : List Nat) (n : Nat) : List Nat :=
  let l := n :: seen
  let top := l.foldl Nat.max 0
  l.filter (fun m => decide (top < m + 4096))

/-- A security alarm at its lower level is counted and reported (R329). -/
def State.alarmLow (s : State) (a : Alarm) : State :=
  s.modPrim (fun p => { p with
    alarms := Tab.modify p.alarms (match a with
      | .voltage => 0
      | .clock => 1
      | .temperature => 2
      | .tamper => 3
      | .keyMisuse => 4
      | .fabricTag => 5) (· + 1)
    out := p.out ++ [.alarm a false] })

/-- Cycles of a second. -/
def secondCycles : Nat := 1300000000

/-- A tag or counter failure is an alarm at its lower level; those of the last second are kept (R329). -/
def State.tagFail (s : State) : State :=
  (s.alarmLow .fabricTag).modPrim (fun p => { p with tagFails := s.cycle :: p.tagFails.filter (fun t => decide (s.cycle < t + secondCycles)) })

/-- The result of an event that always answers a state. -/
def nextOr (o : Host.Outcome State Fault Refusal) (s : State) : State :=
  match o with
  | .next t => t
  | .fault _ | .refused _ => s

/-- The handshake that a HAND packet brings (R259). -/
def hdrHand (h : BitVec 576) : Handshake :=
  { pkg := BitVec.ofNat 9 (pkSpkg h), sctx := pkSctx h, rwin := BitVec.ofNat 12 (pkRwin h),
    woff := BitVec.ofNat 32 (fld (pkKb h) 32 32), len := BitVec.ofNat 25 (fld (pkKb h) 0 25), release := pkKc h % 2 == 1,
    ask := BitVec.ofNat 64 (pkKd h) }

/-- The answer to the request of a service claim (R238, R269). -/
def State.serviceAnswered (s : State) (ask : Nat) (code : BitVec 8) : State :=
  s.modFab (fun f => { f with services := f.services.map (fun x => { x with
    hands := x.hands.map (fun h => if h.waits && h.ask == ask then h.answered code else h) }) })

/-- HANDRSP: the HAND that it answers is kept no longer, and its request has its answer. -/
def State.takeAnswer (s : State) (h : BitVec 576) : State :=
  let release := pkKc h % 2
  let code := BitVec.ofNat 8 (fld (pkKb h) 24 8)
  let s := s.modFab (fun f => { f with sent := dropFirst (fun p => pkKind p.hdr == 5 && pkDpod p.hdr == pkSpod h && pkDpkg p.hdr == pkSpkg h &&
    pkSctx p.hdr == pkSctx h && pkKd p.hdr == pkKd h && pkKc p.hdr % 2 == release) f.sent })
  if release = 1 then s
  else if s.fab.services.any (fun x => x.hands.any (fun y => y.waits && y.ask == pkKd h)) then s.serviceAnswered (pkKd h) code
  else s.handAnswered (pkSpod h) (pkSpkg h) (pkRwin h) (pkSctx h) (pkKd h) code

/-- An error record of another package reaches the sender's queue, with the entry of the ring that its packet names (R270, R271). -/
def State.takeError (s : State) (h : BitVec 576) (x : Nat) : State :=
  if idHost (pkSctx h) then s.toHost (.record (BitVec.ofNat 256 x))
  else
    s.errorRecord (idKey (pkSctx h)) (fld x 56 8) (fld x 50 6) (fld x 41 9) (hdrOrigin h) (fld x 244 12) (fld x 192 32)

/-- A control packet acts at its destination: ACK, HAND, HANDRSP, UINT, ERROR, and Primrose's notice of a withdrawn window (R259,
log 61). -/
def State.control (s : State) (h : BitVec 576) (data : List Byte) : State :=
  let kb := pkKb h
  match pkKind h with
  | 4 =>
      let q : QueueKey := { sctx := pkSctx h, path := BitVec.ofNat 2 (pkPath h), pod := BitVec.ofNat 7 (pkSpod h),
                            pkg := BitVec.ofNat 9 (pkSpkg h), rwin := BitVec.ofNat 12 (pkRwin h) }
      s.ackRange (pkSpkg h) q (fld kb 48 16) (fld kb 32 16) (fld kb 24 8)
  | 5 => nextOr (execClaimHandshake (hdrHand h) s) s
  | 6 => s.takeAnswer h
  | 7 => s.uintTake (pkSctx h) (BitVec.ofNat 32 (pkKc h)) (pkKa h % 64) (word kb) false (hdrOrigin h)
  | 8 => s.takeError h (leNat data)
  | 9 => s.loseWindow (pkSpod h) (pkSpkg h) (pkRwin h) (pkSctx h)
  | _ => s

/-- A packet whose kind or operation is reserved (R259). -/
def packetReserved (h : BitVec 576) : Bool := pkKind h == 0 || decide (0x0A ≤ pkKind h) || decide (5 ≤ pkRop h)

/-- A verified packet waits for its turn. -/
def State.queueIn (s : State) (h : BitVec 576) (data : List Byte) : State :=
  s.modFab (fun f => { f with inbound := f.inbound ++ [{ hdr := h, data := data, since := s.cycle }] })

/-- A verified packet is taken (R261): reflected data waits for its turn, user interrupts too (R278), another control packet acts. -/
def State.takeIn (s : State) (h : BitVec 576) (data : List Byte) : State :=
  if packetReserved h then s.countLife 34
  else if pkKind h ≤ 3 then s.queueIn h data
  else if pkKind h = 7 then let s := s.queueIn h data; takeUints (pkSctx h) s.fab.inbound.length s
  else if pkKind h = 5 then (s.control h data).oseqMark (pkSctx h) (pkOseq h)
  else s.control h data

/-- A duplicate is answered as the packet was (R261); one that still waits for its turn or for a credit is not. -/
def State.answerAgain (s : State) (h : BitVec 576) : State :=
  if pkKind h = 5 then
    match s.fab.handAnswers.find? (fun e => e.1 == hdrHand h) with
    | some e => s.answerHand e.1 e.2
    | none => s
  else
    match Tab.get s.fab.answers (hdrNum h) with
    | 0 => s
    | k + 1 => s.sendAck h k

/-- PACKET_VERIFY (R260): the packet at a place among those in reassembly. -/
def execPacketVerify (i : Nat) (s : State) : Host.Outcome State Fault Refusal :=
  match s.fab.held[i]? with
  | none => .next s
  | some p =>
    let h := p.hdr
    let src := pkSpod h * 512 + pkSpkg h
    let seen := Tab.get s.fab.seen src
    let s := s.modFab (fun f => { f with held := f.held.eraseIdx i })
    let discard := fun (s : State) =>
      s.tagFail.toHost (.record (errorBytes 3 (pkKind h) (pkSpkg h) true (hdrOrigin h) (pkRwin h) (pkWoff h)))
    match gcmOpen (s.hdrKeyOf h) (packetIv h) (hdrAuth h) p.data p.tag with
    | none => .next (discard s)
    | some data =>
      if counterBad seen (pkNctr h) then .next ((discard s).answerAgain h)
      else .next ((s.modFab (fun f => { f with seen := Tab.set f.seen src (counterKeep seen (pkNctr h)) })).takeIn h data)

/-! ## Receive windows (R265) -/

/-- Translate and pin the pages of a window through the owner's two stages, with write permission; .error true: a corrupted table,
.error false: a fault. -/
def State.pinWindow (s : State) (key : Nat) : List Nat → Except Bool (List Pin) × State
  | [] => (.ok [], s)
  | page :: rest =>
    let (x, s) := s.translate key (page * 4096) { rd := false, wr := false }
    match x, (s.translate key (page * 4096) { rd := false, wr := true }).1 with
    | .ok pa gpa none, .ok .. =>
        let row := s.tlbRow key page
        let pin : Pin := { vpage := page, gpage := gpa / 4096, frame := pa / 4096, gbits := row.gbits, hbits := row.hbits,
                           disc := false, dst := true }
        let (r, s) := s.pinWindow key rest
        (r.map (pin :: ·), s)
    | .corrupt, _ | _, .corrupt => (.error true, s)
    | _, _ => (.error false, s)

/-- The entry of a window written: kept invalid when its owner is not a context here or a page does not translate. -/
def State.setWindow (s : State) (rwin : Nat) (e : BitVec 256) : State :=
  let put := fun (s : State) (e : BitVec 256) (pins : List Pin) =>
    s.modFab (fun f => { f with rxw := Tab.set f.rxw rwin e, rxPins := Tab.set f.rxPins rwin pins })
  let key := rxKey e
  if !rxValid e then put s e []
  else if !s.idSelf (BitVec.ofNat 32 (rxOwner e)) ∨ !(s.ctx key).present then (put s (rxOff e) []).toHost (.windowFault rwin)
  else
    let first := rxBase e / 4096
    let pages := (List.range ((rxBase e + rxSize e) / 4096 - first + 1)).map (first + ·)
    match s.pinWindow key pages with
    | (.ok pins, s) => put s e pins
    | (.error corrupt, s) =>
        let s := (put s (rxOff e) []).toHost (.windowFault rwin)
        if corrupt then s.teardown key (tearRec 8) else s

/-- A sender whose writes an entry took finds them taken no longer by the entry that replaces it. -/
def withdrawn (old new : BitVec 256) (sctx : BitVec 32) : Bool :=
  !rxValid new || rxBase new != rxBase old || rxOwner new != rxOwner old || decide (rxSize new < rxSize old) ||
  !maskAgree sctx.toNat (rxPctx new) (rxPmsk new)

/-- RX_WINDOW_VALIDATE (R265), not on a locked device (R329); an entry that was valid is withdrawn from the senders that the new one does not admit (R242). -/
def execRxWindowValidate (rwin : Nat) (e : BitVec 256) (s : State) : Host.Outcome State Fault Refusal :=
  if 4096 ≤ rwin ∨ s.prim.locked then .next s
  else
    let old := Tab.get s.fab.rxw rwin
    let t := s.setWindow rwin e
    .next (if rxValid old then t.withdraw rwin (withdrawn old (Tab.get t.fab.rxw rwin)) else t)

/-- Claims of this package with a destination window that satisfy a test lapse with WHY 4 (R242). -/
def State.lapseInto (s : State) (p : Slot → Bool) : State :=
  (s.allSlots.filter (fun e =>
    let x := Tab.get (s.wg e.1).slots e.2
    decide (4 ≤ x.kind.toNat) && (x.st == .live || x.st == .released) && p x)).foldl (fun s e => s.lapse e.1 e.2 4) s

/-- RX_WINDOW_CLEAR (R265): at once, or when the deliveries under way into the window are over. -/
def execRxWindowClear (rwin : Nat) (s : State) : Host.Outcome State Fault Refusal :=
  .next ((s.modFab (fun f => { f with clearing := f.clearing ++ [rwin] })).settleClearing)

/-! ## Pulls (R269) -/

/-- Service claims of a die. -/
def serviceMax : Nat := 8

/-- Fields of a grant (as a 512-bit number) and of a pull record. -/
def pullField (r : BitVec 512) (w lo n : Nat) : Nat := fld r.toNat (64 * w + lo) n

def pullSoff (r : BitVec 512) : Nat := pullField r 0 0 40
def pullLen (r : BitVec 512) : Nat := pullField r 1 0 25
def pullDoff (r : BitVec 512) : Nat := pullField r 2 0 40
def pullCoff (r : BitVec 512) : Nat := pullField r 4 0 32

/-- The packets of a span of a window, cut at the multiples of 1,024 (R259): offset within the span, and bytes. -/
def windowCuts (off len : Nat) : List (Nat × Nat) :=
  (List.range ((off + len + 1023) / 1024 - off / 1024)).map (fun j =>
    let lo := Nat.max off ((off / 1024 + j) * 1024)
    (lo - off, Nat.min (off + len) ((off / 1024 + j + 1) * 1024) - lo))

/-- The grant that a pull record names. -/
def State.grantOf (s : State) (p : Pull) : BitVec 512 :=
  BitVec.ofNat 512 (leNat (s.ms.latest ((List.range 64).map (fun j => s.windowLoc p.rwin.toNat (pullField p.record 0 40 8 * 64 + j)))))

/-- The service claim of a pull record, if its format, grant, requester and ranges are good. -/
def State.serviceOf (s : State) (die : Nat) (p : Pull) : Option Service :=
  let key := rxKey (Tab.get s.fab.rxw p.rwin.toNat)
  let r := p.record
  let g := s.grantOf p
  let d := BitVec.ofNat 256 g.toNat
  let tx := Tab.get (s.vif (vifOf key)).txw (pullField g 4 32 12)
  let len := pullLen r
  if pullField r 0 56 8 ≠ 1 ∨ pullField g 4 63 1 = 0 ∨
      !maskAgree p.sctx.toNat (pullField g 5 32 32) (pullField g 5 0 32) ∨ len = 0 ∨ 2 ^ 24 < len ∨ flowBytes d < pullSoff r + len ∨
      !txValid tx ∨ txSize tx < pullDoff r + len - 1 ∨ txSize tx < pullCoff r + 7 ∨ pullCoff r % 8 ≠ 0 then none
  else
    some { id := s.fab.nextId, die := die, pull := p, key := key, d := d, tx := tx, path := pullField g 4 60 2, pins := [], hands := [],
           live := false, mv := {}, last := false }

/-- A service claim changed. -/
def State.modService (s : State) (id : Nat) (f : Service → Service) : State :=
  s.modFab (fun y => { y with services := y.services.map (fun x => if x.id = id then f x else x) })

/-- A service claim ends: its credits go back. -/
def State.endService (s : State) (x : Service) : State :=
  (s.modFab (fun f => { f with services := f.services.filter (fun y => y.id != x.id) })).releaseHands x.tx (s.ctxid x.key) 0 x.hands

/-- A pull is refused: the requester gets a record with code 0x08. -/
def State.pullBad (s : State) (p : Pull) : State :=
  if s.idSelf p.sctx then s.errorRecord (idKey p.sctx) 8 1 s.prim.pkg.toNat p.org p.rwin.toNat p.woff
  else
    s.sendCtl 8 2 (idPod p.sctx) (idPkg p.sctx) p.sctx 0 p.rwin.toNat p.org 0 0 0
      (leBytes 32 (errorBytes 8 1 s.prim.pkg.toNat true p.org p.rwin.toNat p.woff).toNat)

/-- The bytes of the source that a service claim reads. -/
def Service.bytes (x : Service) : List Nat := (List.range (pullLen x.pull.record)).map (pullSoff x.pull.record + ·)

/-- The virtual pages of the source that are not pinned. -/
def Service.pages (x : Service) : List Nat :=
  (ascending (x.bytes.map (fun b => (flowAddr x.d b).1 / 4096))).filter (fun p => !x.pins.any (fun q => q.vpage == p))

/-- Translate and pin pages of a source for reading; .error true: a corrupted table. -/
def State.pinSource (s : State) (id key kind : Nat) : List Nat → Except Bool Unit × State
  | [] => (.ok (), s)
  | page :: rest =>
    let (x, s) := s.translate key (page * 4096) { rd := true, wr := false, kind := kind }
    match x with
    | .ok pa gpa disc =>
        let row := s.tlbRow key page
        let pin : Pin := { vpage := page, gpage := gpa / 4096, frame := pa / 4096, gbits := row.gbits, hbits := row.hbits,
                           disc := disc.isSome, dst := false }
        (s.modService id (fun y => { y with pins := y.pins ++ [pin] })).pinSource id key kind rest
    | .corrupt => (.error true, s)
    | .fault .. | .dirtyFull _ => (.error false, s)

/-- The walk of a service claim's source: its die-store grant, or its pages. A source in core or cluster store has no workgroup that
could reach it: a fault of the walk. -/
def State.walkSource (s : State) (x : Service) : Except Bool Unit × State :=
  let size := (s.dieRegion x.key x.die).2
  if !recR x.d then (.error false, s)
  else if recKind x.d = 0x22 then
    (if x.bytes.all (fun b => (flowAddr x.d b).2 && decide ((flowAddr x.d b).1 % 2 ^ 27 < size)) then .ok () else .error false, s)
  else if [0x01, 0x02, 0x03, 0x11].contains (recKind x.d) then s.pinSource x.id x.key (recKind x.d) x.pages
  else (.error false, s)

/-- A member of the answer window is asked for a credit. -/
def State.askService (s : State) (x : Service) (pkg : Nat) : State :=
  if x.hands.any (fun h => h.pkg.toNat == pkg) then s
  else
    let ask := s.fab.nextAsk
    let s := s.modFab (fun f => { f with nextAsk := ask + 1 })
    let s := s.sendHand (s.txPod x.tx) pkg (s.ctxid x.key) (txRwin x.tx) (pullDoff x.pull.record) (pullLen x.pull.record) false ask
    s.modService x.id (fun y => { y with hands := y.hands ++ [{ pkg := BitVec.ofNat 9 pkg, asked := true, granted := false, ask := ask }] })

/-- Where a service claim reads a byte, by its pins. -/
def State.serviceByte (s : State) (x : Service) (b : Nat) : Byt :=
  let a := flowAddr x.d b
  if recKind x.d = 0x22 then .loc (locDst x.die ((s.dieRegion x.key x.die).1 + a.1 % 2 ^ 27))
  else
    match x.pins.find? (fun p => p.vpage == a.1 / 4096) with
    | none => .zero
    | some p =>
      if p.disc then .zero
      else .loc ((if recKind x.d = 2 ∨ recKind x.d = 3 then locHost else locHbm) (p.frame * 4096 + a.1 % 4096))

/-- A service claim's flow not yet begun: the units that it reads, and its packets, cut at the multiples of 1,024 (R259), by the bytes'
places in the record's range. -/
def State.serviceXfer (s : State) (x : Service) : Xfer :=
  let len := pullLen x.pull.record
  { reads := unitsOf (fun j => (s.serviceByte x (pullSoff x.pull.record + j)).tags) (List.range len)
    writes := (windowCuts (pullDoff x.pull.record) len).map (fun e => (List.range e.2).map (e.1 + ·)) }

/-- The walk of a service claim goes on: its source, then the credits of the answer window's members; a fault, a member that cannot be
reached or a refusal refuses the pull. -/
def State.walkService (s : State) (x : Service) : State :=
  match s.walkSource x with
  | (.error true, s) => (s.endService x).teardown x.key (tearRec 8)
  | (.error false, s) => (s.endService x).pullBad x.pull
  | (.ok (), s) =>
    if s.windowLost x.tx ∨ x.hands.any (fun h => h.refused != 0) then (s.endService x).pullBad x.pull
    else if (txMembers x.tx).all (fun k => x.hands.any (fun h => h.pkg.toNat == k && h.granted)) then
      s.modService x.id (fun y => { y with live := true, mv := s.serviceXfer y })
    else (txMembers x.tx).foldl (fun s k => s.askService x k) s

/-- Iris reads one of the units of a service claim's flow that are left: on the copy path of cluster 0 of its die (R269). -/
def State.serviceRead (s : State) (id k : Nat) : State :=
  match s.fab.services.find? (fun x => x.id == id && x.live) with
  | none => s
  | some x =>
    s.modService id (fun y => { y with mv := y.mv.readUnit k (fun j => match s.serviceByte x (pullSoff x.pull.record + j) with
      | .loc y => (s.ms.readByte (.clus (x.die * 12)) .copy y, s.ms.poisoned y)
      | .zero | .host _ | .win .. => (0#8, false)) })

/-- The next packet of a service claim's flow is appended, when its bytes have been read. -/
def State.serviceWrite (s : State) (id : Nat) : State :=
  match s.fab.services.find? (fun x => x.id == id && x.live) with
  | none => s
  | some x =>
    match x.mv.unitVals 0 (fun got j => got j) with
    | none => s
    | some l =>
      (s.sendData x.key x.tx x.path 2 (pullDoff x.pull.record + (l.head?.map Prod.fst).getD 0) (l.map Prod.snd) 64 0 false default none
        (some id)).modService id (fun y => { y with mv := y.mv.wrote 0 })

/-- Nothing of a service claim's answer is on its way. -/
def State.serviceDone (s : State) (id : Nat) : Bool :=
  !s.fab.unland.any (fun e => e.svc == some id) && !s.fab.sent.any (fun p => p.ents.any (fun e => e.svc == some id))

/-- A service claim goes on: its walk; when its flow has been appended, its completion word; its end. -/
def State.serve (s : State) (id : Nat) : State :=
  match s.fab.services.find? (fun x => x.id == id) with
  | none => s
  | some x =>
    if !x.live then s.walkService x
    else if !x.mv.writes.isEmpty then s
    else if !x.last then
      let data := (leBytes 8 (pullField x.pull.record 3 0 64)).map (fun b => (b, false))
      (s.sendData x.key x.tx x.path 1 (pullCoff x.pull.record) data 8 0 true default none (some id)).modService id
        (fun y => { y with last := true })
    else if s.serviceDone id then s.endService x
    else s

/-- PULL_SERVE (R269): the serving unit of a die takes its next record under one of its 8 service claims. -/
def execPullServe (die : Nat) (s : State) : Host.Outcome State Fault Refusal :=
  match s.fab.pulls.find? (fun p => s.servingDie p.rwin.toNat == die) with
  | none => .next s
  | some p =>
    if serviceMax ≤ (s.fab.services.filter (fun x => x.die == die)).length then .next s
    else
      let s := s.modFab (fun f => { f with pulls := dropFirst (· == p) f.pulls })
      match s.serviceOf die p with
      | none => .next (s.pullBad p)
      | some x => .next ((s.modFab (fun f => { f with services := f.services ++ [x], nextId := f.nextId + 1 })).serve x.id)

end Sys2Proof.Machine
end

