-- ==== Sys2Proof/Machine/Iris.lean ====
section
/-! DEFINITION. Iris: the transfers in progress on the Iris of a cluster, its turns, its reads and writes (spec/21_claims.md R240,
spec/07_ordering.md R90). -/

namespace Sys2Proof.Machine

/-- The transfers in progress on a cluster's Iris (R240): flows and tile moves of its workgroups; on cluster 0 of a die, the service
claims of the die (R269). -/
def State.xfersOf (s : State) (k : Nat) : List (XferId × Xfer) :=
  s.wgs.flatMap (fun e =>
    if clusterOf e.2.core = k then
      (e.2.flows.filter Flow.started).map (fun f => (.flow e.1 f.id, f.mv)) ++ e.2.moves.map (fun m => (.tile e.1 m.id, m.mv))
    else []) ++
  (s.fab.services.filter (fun x => x.live && x.die * 12 == k)).map (fun x => (.service x.id, x.mv))

/-- The transfer whose turn comes next: the first with something left to read after the one that had the last turn, in a circle. -/
def State.nextXfer (s : State) (k : Nat) : Option XferId :=
  let l := s.xfersOf k
  let after := (l.dropWhile (fun e => some e.1 != (s.engine k).lastIris)).drop 1
  ((after ++ l).find? (fun e => !e.2.reads.isEmpty)).map Prod.fst

/-- What is left of a transfer changed. -/
def State.modXfer (s : State) (i : XferId) (f : Xfer → Xfer) : State :=
  match i with
  | .flow w j => s.modFlow w j (fun y => { y with mv := f y.mv })
  | .tile w j => s.modTile w j f
  | .service j => s.modService j (fun y => { y with mv := f y.mv })

/-- The Iris of a cluster gives the next transfer a turn of 4 KiB (R240). -/
def State.irisTurn (s : State) (k : Nat) : State :=
  match s.nextXfer k with
  | none => s
  | some i => (s.modEng k (fun e => { e with lastIris := some i })).modXfer i (fun x => { x with quota := x.quota + turnBytes })

/-- Iris reads one of the units of a transfer that are left. -/
def State.xferRead (s : State) (i : XferId) (k : Nat) : State :=
  match i with
  | .flow w j => s.flowRead w j k
  | .tile w j => s.tileRead w j k
  | .service j => s.serviceRead j k

/-- Iris writes one of the units of a transfer that are left, or appends its next packet. -/
def State.xferWrite (s : State) (i : XferId) (k : Nat) : State :=
  match i with
  | .flow w j => s.flowWrite w j k
  | .tile w j => s.tileWrite w j k
  | .service j => s.serviceWrite j

end Sys2Proof.Machine
end

