-- ==== Sys2Proof/Machine/Link.lean ====
section
/-! DEFINITION. Ports, slots and links: flits, packets put on the fibres, replay, resending, relays, loss of light and parking
(spec/23_fabric.md R248 to R263, R272). -/

namespace Sys2Proof.Machine

/-! ## Flits (R256) -/

/-- One bit into the CRC-16 with polynomial 0x1021. -/
def crcBit (c : Nat) (b : Bool) : Nat :=
  let d := c * 2 % 65536
  if (c.testBit 15) != b then Nat.xor d 0x1021 else d

/-- CRC-16 of bytes in order, each from bit 7 down (PRESUMED, log 40), initial value 0xFFFF. -/
def crc16 (bs : List Byte) : Nat :=
  bs.foldl (fun c b => (List.range 8).foldl (fun c i => crcBit c (b.getLsbD (7 - i))) c) 0xFFFF

/-- A flit from its link control fields and its body of at most 88 bytes. -/
def mkFlit (lseq lack : Nat) (av : Bool) (type tc : Nat) (last : Bool) (body : List Byte) : BitVec 768 :=
  let x := lseq % 4096 * 2 ^ 52 + lack % 4096 * 2 ^ 40 + bitN av * 2 ^ 39 + type % 16 * 2 ^ 35 + tc % 4 * 2 ^ 33 + bitN last * 2 ^ 32 +
    leNat body % 2 ^ 704 * 2 ^ 64
  BitVec.ofNat 768 (x + crc16 (leBytes 96 x))

def flitLseq (f : BitVec 768) : Nat := fld f.toNat 52 12
def flitLack (f : BitVec 768) : Nat := fld f.toNat 40 12
def flitAv (f : BitVec 768) : Bool := f.getLsbD 39
def flitType (f : BitVec 768) : Nat := fld f.toNat 35 4
def flitTc (f : BitVec 768) : Nat := fld f.toNat 33 2
def flitLast (f : BitVec 768) : Bool := f.getLsbD 32
def flitBody (f : BitVec 768) : List Byte := leBytes 88 (f.toNat / 2 ^ 64)

/-- The CRC holds: over all 96 bytes with its own field read as 0. -/
def flitOk (f : BitVec 768) : Bool := crc16 (leBytes 96 (f.toNat / 2 ^ 16 * 2 ^ 16)) == f.toNat % 2 ^ 16

/-- A sequence is covered by an acknowledgement, modulo 4,096. -/
def covered (lack lseq : Nat) : Bool := decide ((lack + 4096 - lseq) % 4096 < 2048)

/-- The bytes of a list in pieces of 88. -/
def pieces (l : List Byte) : List (List Byte) :=
  (List.range ((l.length + 87) / 88)).map (fun j => (l.drop (88 * j)).take 88)

/-- Exactly n bytes. -/
def exactly (n : Nat) (l : List Byte) : List Byte := (List.range n).map (fun i => l.getD i 0)

/-- The bodies of a packet's flits: HEAD, then its BODY flits (R258). -/
def Packet.bodies (p : Packet) : List (Nat × List Byte) :=
  let h := leBytes 72 p.hdr.toNat
  if p.data.isEmpty then [(0, h ++ exactly 16 p.tag)] else (0, h) :: (pieces (p.data ++ exactly 16 p.tag)).map (fun b => (1, b))

/-- Bytes of a packet on the fabric: header, data, tag. -/
def Packet.size (p : Packet) : Nat := 72 + p.data.length + 16

/-! ## Connections -/

/-- The link at the far end of a port now: the package its calendar names in the slot in progress, or 512 + port of a static one. -/
def State.facing (s : State) (port : Nat) : Option Nat :=
  let x := s.port port
  if cfgStatic x.cfg then some (512 + port)
  else
    let e := Tab.get x.calendar ((x.slot + 31) % 32)
    if calValid e then some (calPeer e) else none

/-- LACK and AV of a link. -/
def Link.lack (l : Link) : Nat := (l.expect + 4095) % 4096

/-- A flit with the link's current acknowledgement. -/
def Link.stamp (l : Link) (f : BitVec 768) : BitVec 768 :=
  mkFlit (flitLseq f) l.lack l.got (flitType f) (flitTc f) (flitLast f) (flitBody f)

/-- The share of a flit that wavelength i of n carries: bit j of the flit travels on j mod n, as bit j ÷ n (R249). -/
def shareOf (f : BitVec 768) (n i : Nat) : Nat :=
  (List.range (768 / n)).foldl (fun x b => x + bitN (f.getLsbD (b * n + i)) * 2 ^ b) 0

/-- A flit striped over the width that some lit wavelengths give, the lowest of them (R249). -/
def stripe (lit : Nat) (f : BitVec 768) : List (Nat × Nat) :=
  let n := widths.getD (widthCode lit) 0
  ((((List.range 16).filter (fun i => lit.testBit i)).take n).zip (List.range n)).map (fun e => (e.1, shareOf f n e.2))

/-- How many of n flits a port can put on its fibres now: those its slot has room for; a static port has no slots and sends without
interruption (R252, R272). -/
def Port.takes (x : Port) (n : Nat) : Nat :=
  if cfgStatic x.cfg then (if cfgEn x.cfg && !x.dark then n else 0) else Nat.min n x.room

/-- Put flits on a port's fibres, as many as it can take, striped as its last preamble has settled. -/
def State.emit (s : State) (port : Nat) (fs : List (BitVec 768)) : State :=
  let x := s.port port
  let n := x.takes fs.length
  (s.modPort port (fun x => { x with room := x.room - n })).modFab (fun f => { f with
    out := f.out ++ (fs.take n).map (fun y => { port := port, flit := y, waves := stripe x.waves.toNat y }) })

/-- Replay every kept flit of a link, in order (R257). -/
def State.replayKept (s : State) (port key : Nat) : State :=
  let l := s.link key
  s.emit port (l.kept.map l.stamp)

/-- Send NAK, if the port can: LACK names the last flit accepted. It takes no place in the sequence (log 41). A flit beyond a gap that
has been answered brings no second NAK until the next meeting; a static link has no meetings and answers each (log 105). -/
def State.sendNak (s : State) (port key : Nat) (crc : Bool) : State :=
  let l := s.link key
  if (l.nak && !crc && decide (key < 512)) || (s.port port).takes 1 == 0 then s
  else (s.emit port [mkFlit l.next l.lack l.got 3 0 true []]).modLink key (fun l => { l with nak := true })

/-- The acknowledgement of a peer covers kept flits. -/
def State.ackFlits (s : State) (key lack : Nat) : State :=
  s.modLink key (fun l => { l with kept := l.kept.filter (fun f => !covered lack (flitLseq f)) })

/-! ## Relay space (R254) -/

/-- Bytes of a port's relay buffer of a class. -/
def relayCap (tc : Nat) : Nat := if tc = 0 then 131072 else 16384

/-- Free bytes of a port's relay buffer of a class. -/
def State.relayFree (s : State) (port tc : Nat) : Nat :=
  relayCap tc - ((s.fab.relay.filter (fun p => p.port == port && pkTc p.hdr == tc)).map Packet.size).sum

/-! ## Routes (R253, R255, R261, R272) -/

/-- Slots from the slot in progress to the meeting with a package; none: no direct path. -/
def State.ahead (s : State) (pkg : Nat) : Option Nat :=
  if s.direct pkg then (s.meet pkg).map (fun m => (m.2 + 33 - (s.port m.1).slot) % 32) else none

/-- The static port that carries a reflection queue to another pod. -/
def State.staticPort (s : State) (sctx : BitVec 32) (path : BitVec 2) : Option Nat :=
  let l := s.staticPorts
  l[Config.staticHash sctx path % l.length]?

/-- A packet sent before by one first hop has another route. -/
def State.otherRoute (s : State) (pkg hop : Nat) : Bool :=
  (s.direct pkg && pkg != hop) || (Tab.keys s.fab.links).any (fun y => y != hop && s.relayVia y pkg)

/-- Whether a port may send a packet of this package now; last: its last first hop raised by 1. Queue 2 takes direct packets and
those of static ports, queue 3 first-hop relays. -/
def State.mayGo (s : State) (port key q : Nat) (pod pkg : Nat) (sctx : BitVec 32) (path : BitVec 2) (last : Nat) : Bool :=
  if 512 ≤ key then q == 2 && pod != s.prim.pod.toNat && s.staticPort sctx path == some port
  else if pod ≠ s.prim.pod.toNat ∨ pkg = s.prim.pkg.toNat ∨ (last = key + 1 ∧ s.otherRoute pkg key) then false
  else if q = 2 then pkg == key
  else
    pkg != key && s.relayVia key pkg &&
      (match s.ahead pkg with
       | none => true
       | some n => decide (cfgRthr (s.port port).cfg < n))

/-! ## Packets of this package (R258 to R260) -/

/-- A packet has a place among all packets of its sender to a package (R258): data, handshakes, interrupts and records; not the
acknowledgements, whose SCTX names the other side's queue or request, nor Primrose's packets (log 61). -/
def hasOseq (h : BitVec 576) : Bool := [1, 2, 3, 5, 7, 8].contains (pkKind h)

/-- Seal a packet: its counter, its place among its sender's packets, its encrypted data and its tag. -/
def State.seal (s : State) (h : BitVec 576) (data : List Byte) (ents : List Entry) : Packet × State :=
  let dst := pkDpod h * 512 + pkDpkg h
  let n := Tab.get s.fab.nctr dst
  let from' := (pkSctx h, dst)
  let os := assocGet s.fab.oseq from' 0
  let h := hdrPut h 4 0 64 n
  let h := if hasOseq h then hdrPut h 1 0 16 os else h
  let x := gcmSeal (s.hdrKeyOf h) (packetIv h) (hdrAuth h) data
  ({ hdr := h, data := x.1, tag := x.2, ents := ents, sent := true, since := s.cycle },
   s.modFab (fun f => { f with
     nctr := Tab.set f.nctr dst (n + 1)
     oseq := if hasOseq h then assocPut f.oseq from' ((os + 1) % 65536) else f.oseq }))

/-- Make the packet of some entries of one queue: PSEQ is taken, the packet sealed. -/
def State.packet (s : State) (es : List Entry) : Packet × State :=
  let e := es.headD default
  let q := e.key
  let data := es.flatMap Entry.bytes
  let ps := assocGet s.fab.pseq q 0
  let h := hdrOf [s.hdrWord0 e.kind.toNat 0 (es.any Entry.ord) q.path.toNat q.pod.toNat q.pkg.toNat data.length,
    q.sctx.toNat * 2 ^ 32 + ps * 2 ^ 16, q.rwin.toNat * 2 ^ 52 + e.woff % 2 ^ 32,
    e.pmask.toNat * 2 ^ 48 + e.rop.toNat * 2 ^ 44 + originWord e.org, 0, e.org.launch.toNat * 2 ^ 32, 0, 0, 0]
  let s := s.modFab (fun f => { f with
    pseq := assocPut f.pseq q ((ps + 1) % 65536)
    rq := dropRun es f.rq })
  s.seal h data es

/-- The next packet of a class that a queue of R253 holds for a port: packets to be sent again, then control packets, then the
reflection queues. It is taken out of the state that is answered. -/
def State.candidate (s : State) (port key q tc : Nat) : Option (Packet × State) :=
  if q = 1 then
    match s.fab.relay.findIdx? (fun p => pkTc p.hdr == tc && pkDpkg p.hdr == key) with
    | some i => (s.fab.relay[i]?).map (fun p => (p, s.modFab (fun f => { f with relay := f.relay.eraseIdx i })))
    | none => none
  else
    let ok := fun (p : Packet) => pkTc p.hdr == tc &&
      s.mayGo port key q (pkDpod p.hdr) (pkDpkg p.hdr) (pkSctx p.hdr) (BitVec.ofNat 2 (pkPath p.hdr)) p.port
    match s.fab.sent.findIdx? (fun p => !p.sent && ok p), s.fab.ctl.findIdx? ok with
    | some i, _ => (s.fab.sent[i]?).map (fun p => (p, s.modFab (fun f => { f with sent := f.sent.eraseIdx i })))
    | none, some i =>
        (s.fab.ctl[i]?).map (fun p => (s.modFab (fun f => { f with ctl := f.ctl.eraseIdx i })).seal p.hdr p.data [])
    | none, none =>
      if tc ≠ 0 then none
      else
        match nextRun (fun k => s.mayGo port key q k.pod.toNat k.pkg.toNat k.sctx k.path 0) s.fab.rq with
        | [] => none
        | es => some (s.packet es)

/-- Flits that a port's replay store holds: those of every package that it meets. -/
def State.storeUsed (s : State) (port : Nat) : Nat :=
  let x := s.port port
  let peers := ((List.range 32).map (Tab.get x.calendar)).filter calValid |>.map calPeer
  (((512 + port) :: peers).map (fun k => (s.link k).kept.length)).sum

/-- Flits of a port's replay store (R257). -/
def storeMax : Nat := 4096

/-- A packet may start: it finishes in the slot, and the limits of R257 hold. -/
def State.fits (s : State) (port key : Nat) (p : Packet) : Bool :=
  let n := p.bodies.length
  decide (n ≤ (s.port port).room ∧ (s.link key).kept.length + n ≤ 1024 ∧ s.storeUsed port + n ≤ storeMax)

/-- Put a packet on the fibres: its flits take the next link sequences and are kept. The sender keeps a packet that is to be
acknowledged. -/
def State.transmit (s : State) (port key q : Nat) (p : Packet) : State :=
  let l := s.link key
  let bs := p.bodies
  let fs := ((List.range bs.length).zip bs).map (fun e =>
    mkFlit (l.next + e.1) l.lack l.got e.2.1 (pkTc p.hdr) (e.1 + 1 == bs.length) e.2.2)
  let s := s.emit port fs
  let s := s.modLink key (fun l => { l with
    next := (l.next + fs.length) % 4096
    kept := l.kept ++ fs
    free := if q = 3 then (List.range 4).map (fun c => l.free.getD c 0 - (if c = pkTc p.hdr then p.size else 0)) else l.free })
  let s := s.modPort port (fun x => { x with lastTc := Tab.set x.lastTc q (pkTc p.hdr + 1) })
  if q ≠ 1 ∧ (pkKind p.hdr ≤ 3 ∨ pkKind p.hdr = 5) then
    s.modFab (fun f => { f with sent := f.sent ++ [{ p with sent := true, since := s.cycle, port := key + 1 }] })
  else s

/-- The next packet: of the first queue that holds one, its classes in turn (R253). A first-hop relay is in its queue only while the
peer shows relay space for its class. -/
def State.choice (s : State) (port key : Nat) : Option (Nat × Packet × State) :=
  let last := (s.port port).lastTc
  ([1, 2, 3].flatMap (fun q => (List.range 4).map (fun k => (q, (Tab.get last q + k) % 4)))).findSome? (fun e =>
    match s.candidate port key e.1 e.2 with
    | some (p, t) => if e.1 = 3 ∧ (s.link key).free.getD e.2 0 < p.size then none else some (e.1, p, t)
    | none => none)

/-- Send the next packet, if it may start. -/
def State.sendNext (s : State) (port key : Nat) : Option State :=
  match s.choice port key with
  | some (q, p, t) => if s.fits port key p then some (t.transmit port key q p) else none
  | none => none

/-- A port whose replay store is full sends IDLE flits for the rest of its slot (R257). -/
def State.idle (s : State) (port key : Nat) : State :=
  if s.storeUsed port < storeMax then s
  else
    let l := s.link key
    s.emit port (List.replicate (s.port port).room (mkFlit l.next l.lack l.got 2 0 true []))

/-- Fill the slot. -/
def State.fill (s : State) (port key : Nat) : Nat → State
  | 0 => s.idle port key
  | n + 1 =>
    match s.sendNext port key with
    | some t => t.fill port key n
    | none => s.idle port key

/-! ## Paths (R242, R255) -/

/-- A change of the direct path to a package is reported; a loss lapses claims and discards relayed packets (R242, R254). -/
def State.notePath (s : State) (pkg : Nat) (old : BitVec 16) : State :=
  let l := s.link pkg
  let d := s.direct pkg
  if l.held = d then s
  else
    let port := ((s.meet pkg).getD (0, 0)).1
    let s := s.modLink pkg (fun l => { l with held := d })
    let s := s.eventRecord (if d then 0x25 else 0x24) pkg port 0xF old (BitVec.ofNat 16 (statTxlit (s.port port).stat))
    if d then s
    else
      let s := s.modFab (fun f => { f with relay := f.relay.filter (fun p => pkDpkg p.hdr != pkg) })
      s.lapseInto (fun x => s.txPod x.win == s.prim.pod.toNat && (txMembers x.win).contains pkg && x.hands.all (s.memberLost x.win))

/-- The packages that a port meets. -/
def State.peersOf (s : State) (port : Nat) : List Nat :=
  (((List.range 32).map (Tab.get (s.port port).calendar)).filter calValid).map calPeer

/-- Report the changes of the paths over a port, whose TXLIT was old. -/
def State.notePaths (s : State) (port : Nat) (old : BitVec 16) : State :=
  (s.peersOf port).foldl (fun s k => s.notePath k old) s

/-! ## Slots, and light (R250, R252, R262) -/

/-- Laser modules of some wavelengths. -/
def modulesOf (waves : Nat) : List Nat := (List.range 4).filter (fun m => fld waves (4 * m) 4 != 0)

/-- One event for each laser module of some wavelengths. -/
def State.waveEvents (s : State) (code port waves : Nat) (old new : BitVec 16) : State :=
  (modulesOf waves).foldl (fun s m => s.eventRecord code 0 port m old new) s

/-- A pending write of zpcfg takes effect, the width follows TXLIT, and the next slot begins. -/
def State.openSlot (s : State) (port : Nat) : State :=
  s.modPort port (fun x =>
    let cfg := x.pend.getD x.cfg
    let st := statState x.stat
    let st := if (st = 1 ∨ st = 2) ∧ cfgPark cfg < cfgPark x.cfg ∧ cfgPark cfg < st then 3 else st
    let lit := statTxlit x.stat
    { x with cfg := cfg, pend := none, stat := statOf (statLost x.stat) lit (statRxlit x.stat) st, slot := (x.slot + 1) % 32,
             room := if cfgEn cfg then flitsPerSlot (widthCode lit) else 0, waves := BitVec.ofNat 16 lit })

/-- The bytes of a preamble record that its CRC covers; the order of its fields is the model's (log 40). -/
def preambleBytes (p : Preamble) : List Byte :=
  leBytes 2 p.txlit.toNat ++ leBytes 2 p.firstSeq.toNat ++ leBytes 2 p.ack.toNat ++ p.free.flatMap (leBytes 4) ++ leBytes 64 p.reach.toNat ++
    leBytes 2 p.loss.toNat

/-- Transmit wavelengths of a port lose light (R262): they are marked LOST and leave TXLIT; WIDTH follows at the next preamble. -/
def State.loseLight (s : State) (port : Nat) (waves : BitVec 16) : State :=
  let x := s.port port
  let lit := BitVec.ofNat 16 (statTxlit x.stat)
  let hit := waves &&& lit
  if hit = 0 then s
  else
    let new := lit &&& ~~~hit
    let stat := (x.stat &&& 0xFFFF0000FFFFFFFF#64) ||| word (hit.toNat * 2 ^ 48 + new.toNat * 2 ^ 32)
    ((s.modPort port (fun x => { x with stat := stat })).waveEvents 0x20 port hit.toNat lit new).notePaths port lit

/-- The peer's preamble, or its absence; one whose CRC fails counts as absent (log 40). A loss of light that the peer has detected is
taken as this package's own (R262). -/
def State.takePreamble (s : State) (port key : Nat) (rx : Option Preamble) : State :=
  match rx.filter (fun p => crc16 (preambleBytes p) == p.crc.toNat) with
  | none => s.modLink key (fun l => { l with absent := l.absent + 1 })
  | some p =>
    let s := (s.ackFlits key p.ack.toNat).modLink key (fun l =>
      { l with absent := 0, age := 0, reach := p.reach, free := p.free })
    (s.modPort port (fun x => { x with
      stat := statOf (statLost x.stat) (statTxlit x.stat) p.txlit.toNat (statState x.stat) })).loseLight port p.loss

/-- The preamble that a port sends (R252). -/
def State.preamble (s : State) (port key : Nat) : Preamble :=
  let l := s.link key
  let p : Preamble :=
    { txlit := BitVec.ofNat 16 (statTxlit (s.port port).stat)
      firstSeq := BitVec.ofNat 12 ((l.kept.head?.map flitLseq).getD l.next)
      ack := BitVec.ofNat 12 l.lack
      free := (List.range 4).map (s.relayFree port)
      reach := s.reachVector
      loss := l.loss
      crc := 0 }
  { p with crc := BitVec.ofNat 16 (crc16 (preambleBytes p)) }

/-- The port sends its preamble; what it says of the peer's light has been reported then. -/
def State.sendPreamble (s : State) (port key : Nat) : State :=
  (s.modFab (fun f => { f with pre := f.pre ++ [(port, s.preamble port key)] })).modLink key (fun l => { l with loss := 0 })

/-- SLOT_PREAMBLE (R252): the slot begins; rx is what the peer's preamble carried, none when it is absent. Unacknowledged flits go
first, then the queues of R253. A static port has neither slots nor preambles (R272): here it sends what is queued for it (log 89). -/
def execSlotPreamble (port : Nat) (rx : Option Preamble) (s : State) : Host.Outcome State Fault Refusal :=
  if 16 ≤ port then .next s
  else
    let old := BitVec.ofNat 16 (statTxlit (s.port port).stat)
    let s := s.openSlot port
    let s := (s.peersOf port).foldl (fun s k => s.modLink k (fun l => { l with age := l.age + 1 })) s
    match s.facing port with
    | none => .next (s.notePaths port old)
    | some key =>
      let s := if key < 512 then s.takePreamble port key rx else s
      let s := s.notePaths port old
      if (s.port port).room = 0 then .next s
      else
        let s := if key < 512 then ((s.sendPreamble port key).replayKept port key).modLink key (fun l => { l with nak := false }) else s
        .next (s.fill port key (s.port port).room)

/-! ## Receiving flits (R254, R257) -/

/-- The packet of a HEAD flit and its BODY flits. -/
def packetOf (fs : List (BitVec 768)) : Packet :=
  let h := BitVec.ofNat 576 (leNat ((flitBody (fs.headD 0)).take 72))
  let n := pkDlen h
  let bytes := fs.tail.flatMap flitBody
  if n = 0 then { (default : Packet) with hdr := h, tag := (flitBody (fs.headD 0)).drop 72 }
  else { (default : Packet) with hdr := h, data := exactly n bytes, tag := exactly 16 (bytes.drop n) }

/-- A whole packet has come: it waits for its tag here, or is relayed once (R253, R254, R260). -/
def State.arrive (s : State) (port : Nat) (p : Packet) : State :=
  let h := p.hdr
  if s.isSelf (pkDpod h) (pkDpkg h) then s.modFab (fun f => { f with held := f.held ++ [p] })
  else if hf h 0 55 1 = 1 ∨ pkDpod h ≠ s.prim.pod.toNat ∨ s.relayFree port (pkTc h) < p.size ∨ !s.direct (pkDpkg h) then s
  else s.modFab (fun f => { f with relay := f.relay ++ [{ p with hdr := hdrPut h 0 55 1 1, port := port, sent := false, since := s.cycle }] })

/-- A flit in its turn is accepted. -/
def State.acceptFlit (s : State) (port key : Nat) (f : BitVec 768) : State :=
  let s := s.modLink key (fun l => { l with expect := (l.expect + 1) % 4096, got := true, nak := false })
  if 2 ≤ flitType f then s.countLife 34
  else
    let fs := (if flitType f = 0 then [] else (s.link key).asm) ++ [f]
    if flitLast f then (s.modLink key (fun l => { l with asm := [] })).arrive port (packetOf fs)
    else s.modLink key (fun l => { l with asm := fs })

/-- NAK_REPLAY (R257): what the NAK acknowledges is dropped, every later flit is replayed in order. -/
def State.nakReplay (s : State) (port key lack : Nat) : State := (s.ackFlits key lack).replayKept port key

/-- FLIT_RECEIVE (R257). NAK and IDLE flits take no place in the sequence (log 41). -/
def execFlitReceive (port : Nat) (flit : BitVec 768) (s : State) : Host.Outcome State Fault Refusal :=
  match s.facing port with
  | none => .next s
  | some key =>
    if !flitOk flit then .next (s.sendNak port key true)
    else
      let s := if flitAv flit then s.ackFlits key (flitLack flit) else s
      if flitType flit = 3 then .next (if flitAv flit then s.nakReplay port key (flitLack flit) else s.replayKept port key)
      else if flitType flit = 2 then .next s
      else if flitLseq flit = (s.link key).expect then .next (s.acceptFlit port key flit)
      else if covered (s.link key).lack (flitLseq flit) then .next s
      else .next (s.sendNak port key false)

/-- NAK_REPLAY as a step of its own: on the port that faces the peer. -/
def execNakReplay (peer : Nat) (lack : BitVec 12) (s : State) : Host.Outcome State Fault Refusal :=
  match (List.range 16).find? (fun p => s.facing p == some peer) with
  | some port => .next (s.nakReplay port peer lack.toNat)
  | none => .next (s.ackFlits peer lack.toNat)

/-! ## Resending (R261) -/

/-- The packet at a place among those not acknowledged is sent again, or fails when its destination is unreachable: thread stores,
and the member's packet of a flow whose window keeps another member; the flow itself ends by R243. -/
def State.resend (s : State) (i : Nat) : State :=
  match s.fab.sent[i]? with
  | none => s
  | some p =>
    if !p.sent ∨ s.cycle < p.since + resendCycles then s
    else if s.reachable (pkDpod p.hdr) (pkDpkg p.hdr) then
      s.modFab (fun f => { f with sent := f.sent.set i { p with sent := false } })
    else
      let lost := p.ents.any (fun e => match e.flow with
        | some (w, k) => (match (s.wg w).flows.find? (fun f => f.id == k) with
            | some f => s.destLost (Tab.get (s.wg w).slots f.slot)
            | none => false)
        | none => false)
      if lost then s else (s.modFab (fun f => { f with sent := f.sent.eraseIdx i })).ackPacket p.ents 4

/-- RESEND_TIMEOUT (R261). -/
def execResendTimeout (i : Nat) (s : State) : Host.Outcome State Fault Refusal := .next (s.resend i)

/-- The first entry of the queues, or control packet, whose destination is unreachable and that was never sent: the entry fails with
code 0x04, unless its flow ends by R243; the control packet is dropped (log 42), the sender of a user interrupt hears of it (R278). -/
def State.dropUnreachable (s : State) : Option State :=
  let bad := fun (pod pkg : Nat) => !s.reachable pod pkg
  match s.fab.ctl.findIdx? (fun p => bad (pkDpod p.hdr) (pkDpkg p.hdr)) with
  | some i =>
      let t := s.modFab (fun f => { f with ctl := f.ctl.eraseIdx i })
      (s.fab.ctl[i]?).map (fun p =>
        if pkKind p.hdr = 7 then t.uintLost (pkSctx p.hdr) (BitVec.ofNat 32 (pkKc p.hdr)) (hdrOrigin p.hdr) else t)
  | none =>
    match s.fab.rq.find? (fun e => bad e.key.pod.toNat e.key.pkg.toNat && (match e.flow with
        | some (w, k) => (match (s.wg w).flows.find? (fun f => f.id == k) with
            | some f => !s.destLost (Tab.get (s.wg w).slots f.slot)
            | none => true)
        | none => true)) with
    | some e => some ((s.modFab (fun f => { f with rq := dropRun [e] f.rq })).ackPacket [e] 4)
    | none => none

/-! ## Light (R262) -/

/-- LOSS_OF_LIGHT (R262), as the sender's module monitor detects it. -/
def execLossOfLight (port : Nat) (waves : BitVec 16) (s : State) : Host.Outcome State Fault Refusal :=
  if 16 ≤ port then .next s else .next (s.loseLight port waves)

/-- The light detector of a port finds wavelengths of the peer that it faces dark; its next preamble toward the peer says so (R262). -/
def State.darkReceive (s : State) (port : Nat) (waves : BitVec 16) : State :=
  match s.facing port with
  | none => s
  | some key => s.modLink key (fun l => { l with loss := l.loss ||| waves })

/-- LOST_CLEAR (R262): Primrose clears LOST bits; a wavelength that the park state leaves lit is lit again. -/
def execLostClear (port : Nat) (waves : BitVec 16) (s : State) : Host.Outcome State Fault Refusal :=
  let x := s.port port
  let lost := BitVec.ofNat 16 (statLost x.stat)
  let lit := BitVec.ofNat 16 (statTxlit x.stat)
  let hit := waves &&& lost
  if 16 ≤ port ∨ hit = 0 ∨ s.prim.locked then .next s
  else
    let st := statState x.stat
    let new := if st = 3 then lit else lit ||| (hit &&& BitVec.ofNat 16 (parkLit st))
    let stat := (statOf (lost &&& ~~~hit).toNat new.toNat (statRxlit x.stat) st &&& ~~~0xF000#64) ||| (x.stat &&& 0xF000#64)
    let s := s.modPort port (fun x => { x with stat := stat })
    .next ((s.waveEvents 0x21 port hit.toNat lit new).notePaths port lit)

/-! ## Parking (R263); the ports of a locked device stay dark (R329) -/

/-- A queue is served by a port: that of a package of the pod which it meets, or of another pod when it is the queue's static port (R272). -/
def State.serves (s : State) (port pod pkg : Nat) (sctx : BitVec 32) (path : BitVec 2) : Bool :=
  if cfgStatic (s.port port).cfg then pod != s.prim.pod.toNat && s.staticPort sctx path == some port
  else pod == s.prim.pod.toNat && (s.peersOf port).contains pkg

/-- Bytes queued for a port: packets and entries that it serves, and relayed packets for a package that it meets. -/
def State.queuedBytes (s : State) (port : Nat) : Nat :=
  let mine := fun (p : Packet) => s.serves port (pkDpod p.hdr) (pkDpkg p.hdr) (pkSctx p.hdr) (BitVec.ofNat 2 (pkPath p.hdr))
  ((s.fab.rq.filter (fun e => s.serves port e.key.pod.toNat e.key.pkg.toNat e.key.sctx e.key.path)).map (fun e => e.bytes.length)).sum +
  (((s.fab.sent.filter (fun p => !p.sent && mine p)) ++ s.fab.ctl.filter mine ++ s.fab.relay.filter mine).map Packet.size).sum

/-- Move a port to a park state with its lit wavelengths; an event with both TXLIT values. -/
def State.setPark (s : State) (port st : Nat) (lost : Nat) (code : Option Nat) : State :=
  let x := s.port port
  let old := BitVec.ofNat 16 (statTxlit x.stat)
  let new := BitVec.ofNat 16 (parkLit st) &&& ~~~(BitVec.ofNat 16 lost)
  let s := s.modPort port (fun x => { x with stat := statOf lost new.toNat (statRxlit x.stat) st })
  let s := match code with
    | some c => s.eventRecord c 0 port 0xF old new
    | none => s.waveEvents 0x20 port ((BitVec.ofNat 16 lost) &&& ~~~(BitVec.ofNat 16 (statLost x.stat))).toNat old new
  s.notePaths port old

/-- PORT_PARK (R263): FULL, the transmit queue empty for IDLE µs, PARK at least 1. The step is the change at the preamble; that the
queue stayed empty for so long is the mover's to say (log 43). -/
def execPortPark (port : Nat) (s : State) : Host.Outcome State Fault Refusal :=
  let x := s.port port
  if 16 ≤ port ∨ s.prim.locked ∨ statState x.stat ≠ 0 ∨ cfgPark x.cfg = 0 ∨ cfgIdle x.cfg = 0 ∨ s.queuedBytes port ≠ 0 then .next s
  else .next (s.setPark port (cfgPark x.cfg) (statLost x.stat) (some 0x22))

/-- PORT_WAKE (R263): a parked port with WAKEQ KiB queued starts waking. -/
def execPortWake (port : Nat) (s : State) : Host.Outcome State Fault Refusal :=
  let x := s.port port
  let st := statState x.stat
  if 16 ≤ port ∨ s.prim.locked ∨ (st ≠ 1 ∧ st ≠ 2) ∨ cfgWakeq x.cfg = 0 ∨ s.queuedBytes port < cfgWakeq x.cfg * 1024 then .next s
  else .next (s.modPort port (fun x => { x with stat := statOf (statLost x.stat) (statTxlit x.stat) (statRxlit x.stat) 3 }))

/-- WAKE_COMPLETE (R263). -/
def execWakeComplete (port : Nat) (s : State) : Host.Outcome State Fault Refusal :=
  let x := s.port port
  if 16 ≤ port ∨ s.prim.locked ∨ statState x.stat ≠ 3 then .next s else .next (s.setPark port 0 (statLost x.stat) (some 0x23))

/-- WAKE_TIMEOUT (R263): the woken wavelengths that failed are marked lost. -/
def execWakeTimeout (port : Nat) (failed : BitVec 16) (s : State) : Host.Outcome State Fault Refusal :=
  let x := s.port port
  let woken := failed &&& ~~~(BitVec.ofNat 16 (statTxlit x.stat)) &&& ~~~(BitVec.ofNat 16 (statLost x.stat))
  if 16 ≤ port ∨ s.prim.locked ∨ statState x.stat ≠ 3 ∨ woken = 0 then .next s
  else .next (s.setPark port 0 (Nat.lor (statLost x.stat) woken.toNat) none)

/-! ## The calendar (R251) -/

/-- CALENDAR_LOAD (R251): Primrose loads the 16 calendars, entry s of port p at 32p + s, when the package joins the pod at a place; not on
a locked device (R329). -/
def execCalendarLoad (pod : BitVec 7) (pkg : BitVec 9) (entries : List (BitVec 16)) (s : State) : Host.Outcome State Fault Refusal :=
  .next (s.unlocked (fun s =>
    let s := s.modPrim (fun p => { p with pod := pod, pkg := pkg })
    let cal := fun (p : Nat) =>
      (List.range 32).foldl (fun (c : Tab (BitVec 16)) k => Tab.set c k ((entries.getD (32 * p + k) 0) &&& 0x81FF#16)) []
    let s := (List.range 16).foldl (fun s p => s.modPort p (fun x => { x with calendar := cal p })) s
    let peers := (List.range 16).flatMap s.peersOf
    peers.foldl (fun s k => s.modLink k (fun l => { l with held := s.direct k })) s))

end Sys2Proof.Machine
end

