-- ==== Sys2Proof/Machine/Service.lean ====
section
/-! DEFINITION. The host side, layout changes, service pairs, boot, attestation, alarms, lifetime records, power, and the free steps
of the ordering machine (spec/29_system.md R313 to R316, R321, R324 to R332, spec/07_ordering.md R84, R101). -/

namespace Sys2Proof.Machine

/-! ## Host accesses (R321, R100) -/

/-- CXL.mem exposes n bytes to an interface: HBM of its partition in a range that the physical function has declared (R321). -/
def State.exposed (s : State) (vif addr n : Nat) : Bool :=
  Word.bit (s.vreg vif 0x200) 0 && s.prim.cxl.any (fun r => decide (r.1 ≤ addr ∧ addr + n ≤ r.1 + r.2)) &&
    (List.range n).all (fun j => s.inPartition vif (addr + j))

/-- HOST_MEM_ACCESS (R321): a thread-class access at dev to exposed HBM; none on a locked device (R329). -/
def execHostMemAccess (vif addr : Nat) (access : HostAccess) (s : State) : Host.Outcome State Fault Refusal :=
  let i := Inst.dev vif
  if s.prim.locked then .next s
  else
    match access with
    | .read n => .next (if s.exposed vif addr n then s.toHost (.data (s.ms.read i .thread (locs (locHbm addr) n))) else s)
    | .write bytes =>
        let xs := locs (locHbm addr) bytes.length
        .next (if s.exposed vif addr bytes.length then s.putOther i .thread (accessUnit xs) xs bytes else s)

/-! ## Posted stores (R100, R101, R326) -/

/-- A posted write reaches the far device: a thread's store in the thread's access, a flow's in units of 64 bytes (R92). -/
def State.forward (s : State) (p : Posted) : State :=
  let s := s.modPrim (fun x => { x with posted := x.posted.filter (fun q => q.id != p.id) })
  let xs := locs (locHost p.addr) p.bytes.length
  match p.flow with
  | some (w, _) => s.putOther (s.clusInst w) .copy 64 xs p.bytes
  | none => s.putOther (.dev (vifOf p.ctx)) .host (accessUnit xs) xs p.bytes

/-- An earlier store of the same thread is on its way (R100); a flow's writes are not ordered with others. -/
def Posted.before (q p : Posted) : Bool :=
  q.flow.isNone && p.flow.isNone && q.wg == p.wg && q.gang == p.gang && q.lane == p.lane

/-- STORE_DURABLE (R101): the store with a number is durable, after every earlier one of its thread (R100). -/
def execStoreDurable (i : Nat) (s : State) : Host.Outcome State Fault Refusal :=
  match s.prim.posted.find? (fun p => p.id == i) with
  | none => .next s
  | some p =>
    if (s.prim.posted.takeWhile (fun q => q.id != i)).any (fun q => q.before p) then .next s
    else .next (s.forward p)

/-- GLOBAL_PERSISTENT_FLUSH (R326): every accepted store is forwarded, in order. -/
def execGlobalPersistentFlush (s : State) : Host.Outcome State Fault Refusal := .next (s.prim.posted.foldl State.forward s)

/-! ## Service pairs (R324, R325) -/

/-- A pair that can lead. -/
def Pair.healthy (p : Pair) : Bool := !p.held && !p.halted

def State.pair (s : State) (die : Nat) : Pair := Tab.get s.prim.pairs die
def State.modPair (s : State) (die : Nat) (f : Pair → Pair) : State := s.modPrim (fun p => { p with pairs := Tab.modify p.pairs die f })

/-- Primrose elects the leader of each partition: the healthy pair of its lowest-numbered die. -/
def State.elect (s : State) : State :=
  let code := s.prim.layout.toNat
  (List.range 4).foldl (fun s d =>
    let first := (diesOf code (partOf code d)).find? (fun e => (s.pair e).healthy)
    s.modPair d (fun p => if first = some d then (if p.leader then p else { p with leader := true, beat := s.cycle })
      else { p with leader := false })) s

/-- Takeover (R325): the old pair is held in reset and the failure recorded; the next healthy pair of the partition leaves standby
with its takeover bit set; an event goes to every host port. -/
def State.takeover (s : State) (die : Nat) : State :=
  let s := (s.modPair die (fun p => { p with held := true, leader := false })).countLife 32
  let code := s.prim.layout.toNat
  let s := match (diesOf code (partOf code die)).find? (fun e => (s.pair e).healthy) with
    | some d => s.modPair d (fun p => { p with leader := true, takeover := true, beat := s.cycle })
    | none => s
  s.toHost (.takeover die)

/-- The pair runs firmware that can reach its spawn extension: the leader, since the others are held in standby (R324, log 104). -/
def Pair.runs (p : Pair) : Bool := p.leader && p.healthy

/-- SPAWN_TRIGGER (R324): the pair's spawn buffer goes to an interface's spawn port as one record (R322). -/
def execSpawnTrigger (die vif : Nat) (s : State) : Host.Outcome State Fault Refusal :=
  if !(s.pair die).runs then .next s else execSpawnRecord vif (s.pair die).buffer s

/-- HEARTBEAT (R324). -/
def execHeartbeat (die : Nat) (s : State) : Host.Outcome State Fault Refusal :=
  if (s.pair die).runs then .next (s.modPair die (fun p => { p with beat := s.cycle })) else .next s

/-- 10 ms at 1.3 GHz. -/
def tenMs : Nat := 13000000

/-- HEARTBEAT_LAPSE (R325). -/
def execHeartbeatLapse (die : Nat) (s : State) : Host.Outcome State Fault Refusal :=
  let p := s.pair die
  if p.leader ∧ p.healthy ∧ p.beat + tenMs ≤ s.cycle then .next (s.takeover die) else .next s

/-- LOCKSTEP_MISMATCH (R324): the pair halts at once; a leader is taken over from without a wait (R325), a standby pair's failure is
recorded (R330). -/
def execLockstepMismatch (die : Nat) (s : State) : Host.Outcome State Fault Refusal :=
  let p := s.pair die
  if 4 ≤ die ∨ !p.healthy then .next s
  else
    let s := s.modPair die (fun p => { p with halted := true })
    .next (if p.leader then s.takeover die else s.countLife 32)

/-! ## Layout changes (R314 to R316) -/

/-- The dies that a change of layout affects. -/
def affected (old new : Nat) : List Nat :=
  (List.range 4).filter (fun d =>
    partOf old d != partOf new d || diesOf old (partOf old d) != diesOf new (partOf new d))

/-- The partition of an interface after the change that is staged. -/
def State.stagedPart (s : State) (vif : Nat) : Nat :=
  match s.prim.shadowMap.find? (fun e => e.1 == vif) with
  | some e => e.2
  | none => s.partOfVif vif

/-- The firewall sets of a layout (R314): the link between two dies of one partition is open, at either end. -/
def firewalls (code : Nat) : Tab Bool :=
  (List.range 16).foldl (fun t i => Tab.set t i (i / 4 != i % 4 && partOf code (i / 4) == partOf code (i % 4))) []

/-- LAYOUT_STAGE (R315): the shadow layout, its firewall sets and the interface-to-partition map. -/
def execLayoutStage (code : BitVec 3) (map : List (Nat × Nat)) (s : State) : Host.Outcome State Fault Refusal :=
  if s.prim.commit ≠ .steady ∨ s.prim.locked then .next s
  else .next (s.modPrim (fun p => { p with commit := .staged, shadow := code, shadowMap := map, shadowFw := firewalls code.toNat }))

/-- Back to STEADY, the shadow discarded. -/
def Prim.unstage (p : Prim) : Prim := { p with commit := .steady, shadow := 0, shadowMap := [], shadowFw := [], shadowDies := [] }

/-- LAYOUT_ABORT (R315). -/
def execLayoutAbort (s : State) : Host.Outcome State Fault Refusal :=
  if s.prim.commit ≠ .staged ∨ s.prim.locked then .next s else .next (s.modPrim Prim.unstage)

/-- The staged change is refused: a reserved code, or an enabled interface left without a partition. -/
def State.badLayout (s : State) : Bool :=
  decide (4 ≤ s.prim.shadow.toNat) ||
  (Tab.keys s.vifs).any (fun v => (s.vreg v 0x200).getLsbD 0 && (diesOf s.prim.shadow.toNat (s.stagedPart v)).isEmpty)

/-- LAYOUT_COMMIT (R315): refused, or QUIESCE: every workgroup on an affected die is pre-empted. A commit while one goes on, or with
nothing staged, is refused. -/
def execLayoutCommit (s : State) : Host.Outcome State Fault Refusal :=
  if s.prim.commit ≠ .staged ∨ s.prim.locked then .next s
  else if s.badLayout then .next ((s.modPrim Prim.unstage).toHost (.layout 1))
  else
    let dies := affected s.prim.layout.toNat s.prim.shadow.toNat
    let cores := (List.range 384).filter (fun c => dies.contains (dieOf c))
    let s := s.modPrim (fun p => { p with commit := .quiesce, shadowDies := dies, since := s.cycle })
    .next ((Tab.keys s.ctxs).foldl (fun s k => s.vacate k cores) s)

/-- Every affected die holds no workgroup, no flow, no service claim and no delivery. -/
def State.diesEmpty (s : State) : Bool :=
  s.wgs.all (fun e => !s.prim.shadowDies.contains (dieOf e.2.core) ||
    (!e.2.holds && e.2.flows.all (fun f => !f.started))) &&
  s.fab.services.all (fun x => !s.prim.shadowDies.contains x.die) &&
  s.fab.landing.all (fun l => !s.prim.shadowDies.contains (s.servingDie l.parcel.rwin))

/-- LAYOUT_SWAP (R315): the shadow tables become active and the version rises. -/
def execLayoutSwap (s : State) : Host.Outcome State Fault Refusal :=
  if s.prim.commit ≠ .quiesce ∨ !s.diesEmpty then .next s
  else
    let s := s.prim.shadowMap.foldl (fun s e =>
      s.setVreg e.1 0x200 ((s.vreg e.1 0x200 &&& ~~~6#64) ||| word (e.2 % 4 * 2))) s
    let s := s.modPrim (fun p => Prim.unstage { p with layout := p.shadow, fw := p.shadowFw, layoutVer := p.layoutVer + 1 })
    .next s.elect

/-- QUIESCE_TIMEOUT (R315). -/
def execQuiesceTimeout (s : State) : Host.Outcome State Fault Refusal :=
  if s.prim.commit ≠ .quiesce ∨ s.cycle < s.prim.since + tenMs then .next s
  else .next ((s.modPrim Prim.unstage).toHost (.layout 2))

/-! ## Boot, recovery, provisioning (R327, R329) -/

/-- The image verifies against the fused key, and its version reaches the fused minimum. -/
def State.verifies (s : State) (i : Image) : Bool := Config.slhVerify i.bytes i.signature && decide (s.prim.minVersion ≤ i.version)

/-- A measurement register extended by the SHAKE256 measurement of some bytes: the hash of both (PRESUMED, log 44). -/
def State.extend (s : State) (r : Nat) (bytes : List Byte) : State :=
  s.modPrim (fun p => { p with measure := Tab.modify p.measure r (fun (x : BitVec 512) =>
    Config.shake256 (leBytes 64 x.toNat ++ leBytes 64 (Config.shake256 bytes).toNat)) })

/-- The firmware starts; the leaders are elected. -/
def State.startFirmware (s : State) (i : Image) : State :=
  (s.modPrim (fun p => { p with started := true, recovery := false, version := i.version })).elect

/-- BOOT (R327); a locked device only opens the recovery mailbox (R329). -/
def execBoot (image : Image) (s : State) : Host.Outcome State Fault Refusal :=
  if s.prim.started then .next s
  else if s.prim.locked ∨ !s.verifies image then .next (s.modPrim (fun p => { p with recovery := true }))
  else .next ((s.extend 0 image.bytes).startFirmware image)

/-- RECOVERY_IMAGE (R327): verified and measured as at boot; a locked device does not start it. -/
def execRecoveryImage (image : Image) (s : State) : Host.Outcome State Fault Refusal :=
  if !(s.prim.recovery || s.prim.locked) ∨ !s.verifies image then .next s
  else
    let s := s.extend 0 image.bytes
    .next (if s.prim.locked then s else s.startFirmware image)

/-- PROVISIONING (R328, R329): the identity key is derived and the lock lifted. -/
def execProvisioning (image : Image) (s : State) : Host.Outcome State Fault Refusal :=
  if !s.verifies image then .next s
  else .next (s.modPrim (fun p => { p with hasKey := true, zeroised := false, locked := false }))

/-- The report of an attestation (R328); widths of its last four parts: 4, 2, 1, 1 bytes (log 45). -/
def State.attestation (s : State) (vif : Nat) (nonce : BitVec 256) : List Byte :=
  leBytes 32 nonce.toNat ++ (List.range 8).flatMap (fun r => leBytes 64 (Tab.get s.prim.measure r).toNat) ++
  leBytes 4 s.prim.version ++ leBytes 2 s.prim.layoutVer.toNat ++ leBytes 1 s.prim.layout.toNat ++ leBytes 1 vif

/-- ATTESTATION_REQUEST (R328): from a level-2 context; the report is signed with the identity key. -/
def execAttestationRequest (ctx : Nat) (nonce : BitVec 256) (s : State) : Host.Outcome State Fault Refusal :=
  if (s.ctx ctx).priv ≠ 2 ∨ !(s.ctx ctx).present ∨ !s.prim.hasKey ∨ s.prim.locked then .next s
  else
    let r := s.attestation (vifOf ctx) nonce
    .next (s.toHost (.attest (r ++ Config.slhSign r)))

/-! ## Alarms (R329) -/

/-- SECURITY_ALARM_LOWER (R329): the tamper mesh and key misuse have no lower level. -/
def execSecurityAlarmLower (source : Alarm) (s : State) : Host.Outcome State Fault Refusal :=
  if source = .tamper ∨ source = .keyMisuse then .next s else .next (s.alarmLow source)

/-- Every workgroup ends without a save, and no launch is placed any more; their stores take effect on fetch (log 76). -/
def State.endAll (s : State) : State :=
  let ws := (s.wgs.filter (fun e => e.2.pending)).map Prod.fst
  let s := ws.foldl (fun s w => (s.endWg w).dropMoves w) s
  let s := (Tab.keys s.sched.launches).foldl (fun s l =>
    ((s.dequeue l).modLaunch l (fun x => { x with failed := true, isOver := true })).modMs (fun m => m.launchOver l)) s
  s.modSched (fun c => { c with barriers := [], preempts := [] })

/-- SECURITY_ALARM_HIGHER (R329): the key store is zeroised with the keys of the fabric, every workgroup ended, the ports darkened, the device locked. -/
def execSecurityAlarmHigher (source : Alarm) (s : State) : Host.Outcome State Fault Refusal :=
  let s := s.endAll
  let s := s.modPrim (fun p => { p with hasKey := false, zeroised := true, locked := true, tagFails := [], out := p.out ++ [.alarm source true] })
  let s := s.modFab (fun f => { f with keys := [] })
  .next ((List.range 16).foldl (fun s p =>
    let x := s.port p
    let old := BitVec.ofNat 16 (statTxlit x.stat)
    (s.modPort p (fun x => { x with stat := statOf (statLost x.stat) 0 (statRxlit x.stat) (statState x.stat), room := 0 })).notePaths
      p old) s)

/-! ## Lifetime records and power (R330, R331) -/

/-- LIFETIME_RECORD_WRITE (R330). -/
def execLifetimeRecordWrite (s : State) : Host.Outcome State Fault Refusal := .next (s.modPrim (fun p => { p with lifeNv := p.life }))

/-- PLIM_SET (R331): a value outside 1,200 to 3,200 W changes nothing (log 46). -/
def execPlimSet (watts : Nat) (s : State) : Host.Outcome State Fault Refusal :=
  if 1200 ≤ watts ∧ watts ≤ 3200 ∧ s.prim.locked = false then .next (s.modPrim (fun p => { p with plim := watts })) else .next s

/-- A sample of the power manager, every 10 µs (R331): one measure more while the estimate exceeds PLIM, one less otherwise: 1 K-step starts delayed, 2 vector issue
withheld, 3 every issue withheld. -/
def State.powerSample (s : State) (estimate : Nat) : State :=
  s.modPrim (fun p => { p with throttle := if p.plim < estimate then Nat.min 3 (p.throttle + 1) else p.throttle - 1 })

/-- POWER_SAMPLE (R331). -/
def execPowerSample (estimate : Nat) (s : State) : Host.Outcome State Fault Refusal := .next (s.powerSample estimate)

/-- SUPPLY_DROOP (R331): the slots of a die hold issue, for 64 cycles of the "up to 64" that the rule allows (log 46). -/
def execSupplyDroop (die : Nat) (s : State) : Host.Outcome State Fault Refusal :=
  if 4 ≤ die then .next s
  else .next ((s.modPrim (fun p => { p with droop := Tab.set p.droop die 64 })).countLife (16 + die))

/-! ## Free steps of the ordering machine (R84) -/

/-- The parents of an instance: a die's are the devices whose partition holds it, a device's the contexts of the interface. -/
def State.parents (s : State) (i : Inst) : List Inst :=
  match i with
  | .lane w g _ => [.gang w g]
  | .gang w _ => [.wg w]
  | .wg w => [.clus (clusterOf (s.wg w).core)]
  | .clus c => [.die (c / 12)]
  | .die d => ((Tab.keys s.vifs).filter (fun v => (s.vifDies v).contains d)).map Inst.dev
  | .dev v => ((Tab.keys s.ctxs).filter (fun k => vifOf k == v)).map Inst.fab
  | .fab _ => []

/-- Whether a class has views at an instance: its narrowest is the lane, the cluster, the die or the device (R83). -/
def hasClass (i : Inst) (c : PathClass) : Bool :=
  let lvl := match i with
    | .lane .. => 0
    | .gang .. => 1
    | .wg _ => 2
    | .clus _ => 3
    | .die _ => 4
    | .dev _ => 5
    | .fab _ => 6
  decide (classFloor c ≤ lvl)

/-- FREE_PUSH (R84): a location, with those that its view holds as one unit (R92, R93; assumption 47). -/
def execFreePush (i : Inst) (c : PathClass) (loc : Nat) (s : State) : Host.Outcome State Fault Refusal :=
  if !hasClass i c then .next s
  else .next (s.modMs (fun m => (s.parents i).foldl (fun m p => m.moveUnits i p c [loc]) m))

/-- FREE_PULL (R84). -/
def execFreePull (i : Inst) (c : PathClass) (loc : Nat) (s : State) : Host.Outcome State Fault Refusal :=
  if !hasClass i c then .next s
  else .next (s.modMs (fun m => (s.parents i).foldl (fun m p => m.moveUnits p i c [loc]) m))

end Sys2Proof.Machine
end

