-- ==== Sys2Proof/Machine/Outside.lean ====
section
/-! DEFINITION. What parties beside the cores do that is no step of the opcode table: transactions of a virtual function, the mailbox of
the physical function, declarations, records and measurements of Primrose, the light detectors (spec/29_system.md R313, R314, R317,
R321, R322, R324, R326, R327, R330 to R333, spec/23_fabric.md R251, R260, R262). A locked device offers none of them (R329). -/

namespace Sys2Proof.Machine

/-! ## Virtual functions (R313, R317, R322, R333) -/

/-- The interface that a virtual function of a host port presents: enabled, and attached to that port. -/
def State.function (s : State) (port vf : Nat) : Option Nat :=
  if 1 ≤ vf ∧ vf ≤ 64 ∧ Word.bit (s.vreg (vf - 1) 0x200) 0 ∧ s.hport (vf - 1) = port then some (vf - 1) else none

/-- Lifetime counter number of writes that a spawn or interrupt page drops (log 30). -/
def lifeDrop : Nat := 33

/-- A posted write transaction to BAR 2: a spawn record, an interrupt record, or a write that is dropped and counted. -/
def State.bar2 (s : State) (vif off : Nat) (bytes : List Byte) : State :=
  let x := leNat bytes
  if off < 4096 ∧ off % 64 = 0 ∧ bytes.length = 64 then nextOr (execSpawnRecord vif (BitVec.ofNat 512 x) s) s
  else if 4096 ≤ off ∧ off < 8192 ∧ off % 16 = 0 ∧ bytes.length = 16 then nextOr (execInterruptRecord vif (BitVec.ofNat 128 x) s) s
  else if off < 8192 then s.countLife lifeDrop
  else s

/-- The register at a byte of a configuration window (R317). -/
def windowIdx (off : Nat) : Option Nat := if off % 8 = 0 ∧ off / 8 ≤ 11 then some (0x200 + off / 8) else none

/-- A read of a configuration window: the write-only answer register reads 0. -/
def State.configRead (s : State) (vif off : Nat) : State :=
  match windowIdx off with
  | some i => s.toHost (.register (if i = 0x208 then 0 else s.vreg vif i))
  | none => s

/-- A write of a configuration window. -/
def State.configWrite (s : State) (vif off : Nat) (v : Word) : State :=
  match windowIdx off with
  | some i => s.vregWrite vif i v
  | none => s

/-! ## The mailbox (R251, R330, R332) -/

/-- The 16 calendars, entry s of port p at 32p + s. -/
def State.calendars (s : State) : List (BitVec 16) :=
  (List.range 512).map (fun i => Tab.get (s.port (i / 32)).calendar (i % 32))

/-- The average of some numbers, and of numbers at each place of some lists. -/
def mean (l : List Nat) : Nat := l.sum / l.length
def means (n : Nat) (l : List (List Nat)) : List Nat := (List.range n).map (fun i => mean (l.map (fun x => x.getD i 0)))

/-- Samples of one millisecond, one every 10 µs (R331, R332). -/
def sampleMax : Nat := 100

/-- Their averages: package, the five consumers of R2, four dies, twelve stacks. -/
def averages (l : List Sample) : Sample :=
  { power := mean (l.map Sample.power), consumers := means 5 (l.map Sample.consumers), dies := means 4 (l.map Sample.dies),
    hbm := means 12 (l.map Sample.hbm) }

/-- A sample of the power manager: it throttles by its power (R331) and enters the averages. -/
def State.sample (s : State) (x : Sample) : State :=
  (s.powerSample x.power).modPrim (fun p => { p with samples := (x :: p.samples).take sampleMax })

/-! ## Lifetime records (R330) -/

def State.modLife (s : State) (f : Life → Life) : State := s.modPrim (fun p => { p with life := f p.life })

/-- A row of a stack is remapped: a 16-bit count that saturates, and the 64 most recent rows. -/
def Life.remap (l : Life) (stack row : Nat) : Life :=
  { l with remaps := Tab.modify l.remaps stack (fun e => (if e.1 = 0xFFFF#16 then e.1 else e.1 + 1#16, (row :: e.2).take 64)) }

/-- A laser module's drift is measured. -/
def Life.drifts (l : Life) (i : Nat) (v : Int) : Life :=
  { l with drift := Tab.modify l.drift i (fun d => match d with
    | none => some { least := v, most := v, latest := v }
    | some d => some { least := min d.least v, most := max d.most v, latest := v }) }

/-- Counter numbers (log 30): power-on hours, thermal residency by die and bin, bit-error rate by receive wavelength and decade. -/
def lifeHours : Nat := 35
def lifeThermal (die bin : Nat) : Nat := 48 + die * 8 + bin
def lifeBer (port wave bin : Nat) : Nat := 128 + (port * 16 + wave) * 16 + bin

/-- The bin of a temperature: 10 °C each from 45 °C, the last one for all above. -/
def thermalBin (t : Nat) : Option Nat := if t < 45 then none else some (Nat.min 7 ((t - 45) / 10))

/-- An hour of operation. -/
def State.hour (s : State) (temps : List Nat) : State :=
  ((List.range temps.length).zip temps).foldl (fun s e => match thermalBin e.2 with
    | some b => s.countLife (lifeThermal (e.1 % 4) b)
    | none => s) (s.countLife lifeHours)

/-! ## Declarations and Primrose (R260, R314, R321, R324, R326, R327) -/

/-- A flit offered to a die-to-die link: a closed one drops and counts all but Primrose's management traffic (R314). -/
def State.dieFlit (s : State) (src dst : Nat) (management : Bool) : State :=
  if 4 ≤ src ∨ 4 ≤ dst ∨ src = dst ∨ management ∨ Tab.get s.prim.fw (src * 4 + dst) then s
  else s.modPrim (fun p => { p with fwDrops := Tab.modify p.fwDrops (src * 4 + dst) (fun (x : BitVec 32) => if x = 0xFFFFFFFF#32 then x else x + 1#32) })

/-- A persistent range is declared; Primrose holds 8 (R326). -/
def Prim.persist (p : Prim) (base len : Nat) : Prim := if p.ranges.length < 8 then { p with ranges := p.ranges ++ [(base, len)] } else p

/-- What an outside party does, on a device that is not locked. -/
def State.outsideOpen (s : State) (o : Outside) : State :=
  let on := fun (port vf : Nat) (f : Nat → State) => match s.function port vf with
    | some v => f v
    | none => s
  match o with
  | .bar2 port vf off bytes => on port vf (fun v => s.bar2 v off bytes)
  | .configRead port vf off => on port vf (fun v => s.configRead v off)
  | .configWrite port vf off x => on port vf (fun v => s.configWrite v off x)
  | .calendars => s.toHost (.calendars s.calendars)
  | .life => s.toHost (.life s.prim.lifeNv)
  | .power => s.toHost (.power (averages s.prim.samples) ((List.range 4).map (Tab.get s.prim.held)))
  | .exposeRange base len => s.modPrim (fun p => { p with cxl := p.cxl ++ [(base, len)] })
  | .persistRange base len => s.modPrim (fun p => p.persist base len)
  | .txWindow vif idx e =>
      if vif < 64 ∧ idx < 4096 then s.modVif vif (fun v => { v with txw := Tab.set v.txw idx (txClean e) }) else s
  | .reset => s
  | .spawnBuffer die r => if (s.pair die).runs then s.modPair die (fun p => { p with buffer := r }) else s
  | .raiseMinimum v => if s.prim.started then s.modPrim (fun p => { p with minVersion := Nat.max p.minVersion v }) else s
  | .measure r table => if s.prim.started ∧ 1 ≤ r ∧ r ≤ 7 then s.extend r table else s
  | .installKey src dst key => s.modFab (fun f => { f with keys := Tab.set f.keys (src % 65536 * 65536 + dst % 65536) key })
  | .sample x => s.sample x
  | .hour temps => s.hour temps
  | .rowRemap stack row => if stack < 12 then s.modLife (fun l => l.remap stack row) else s
  | .bitErrors port wave decade =>
      if port < 16 ∧ wave < 16 ∧ 3 ≤ decade ∧ decade ≤ 18 then s.countLife (lifeBer port wave (decade - 3)) else s
  | .laserDrift port m v => if port < 16 ∧ m < 4 then s.modLife (fun l => l.drifts (port * 4 + m) v) else s
  | .darkReceive port waves => if port < 16 then s.darkReceive port waves else s
  | .dieFlit src dst management => s.dieFlit src dst management

/-- PACKAGE RESET: the machine is as State.reset says, but for what lies outside the package or is kept by fuses and non-volatile
records: host memory, the fused minimum, the identity key, the lock, the lifetime records as last written (R329; log 103). -/
def State.packageReset (s : State) : State :=
  let r := State.reset
  { r with
    ms := { r.ms with mem := s.ms.mem.filter (fun e => e.1 % 8 == 1) }
    prim := { r.prim with
      minVersion := s.prim.minVersion, hasKey := s.prim.hasKey, zeroised := s.prim.zeroised, locked := s.prim.locked,
      life := s.prim.lifeNv, lifeNv := s.prim.lifeNv, out := s.prim.out }
    aux := { s.aux with cur := none } }

/-- What an outside party does; a locked device takes nothing but a reset (R329; assumption 92). -/
def State.outside (s : State) (o : Outside) : State :=
  match o with
  | .reset => s.packageReset
  | o => s.unlocked (fun s => s.outsideOpen o)

end Sys2Proof.Machine
end

