-- ==== Sys2Proof/Machine/Turn.lean ====
section
/-! DEFINITION. Which word issues next and which step of the machine itself may be taken (spec/27_control.md R295, spec/01_work.md
R19, R21, R22, spec/11_encoding.md R124, spec/07_ordering.md R84): the choices that step makes where the spec leaves the order open. -/

namespace Sys2Proof.Machine

/-! ## The issuing gang (R295) -/

/-- The split that issues in the gang's next turn (R19). -/
def Gang.nextSplit (g : Gang) : Option Split :=
  (((g.splits.dropWhile (fun x => x.id != g.last)).drop 1) ++ g.splits).find? (fun x => x.lanes != 0#32)

/-- Gangs of an issue slot that may issue, or go on with their run: a workgroup that is being saved, or whose context is being torn down,
only finishes its runs (R301, R309). -/
def State.slotGangs (s : State) (slot : Nat) : List (Nat × Nat) :=
  s.wgs.flatMap (fun e =>
    if e.2.core = slot / 4 ∧ (e.2.status = .running ∨ e.2.status = .saving) then
      (e.2.gangs.filter (fun h => h.2.slot == slot % 4 &&
        (h.2.run.isSome || (e.2.status == .running && (s.ctx (s.ctxKey e.1)).ending.isNone && h.2.ready)))).map
        (fun h => (e.1, h.1))
    else [])

/-- The better of two ready gangs (R295): higher IPRI, ready longer, lower gang place. -/
def State.better (s : State) (a b : Nat × Nat) : Bool :=
  let x := s.gang a.1 a.2
  let y := s.gang b.1 b.2
  let i := (s.wg a.1).ipri
  let j := (s.wg b.1).ipri
  decide (j < i) || (i == j && (decide (x.readyAt < y.readyAt) || (x.readyAt == y.readyAt && decide (x.place ≤ y.place))))

/-- The gang that a slot issues for: the run in progress, else the best ready gang; a droop holds the die's slots, the third measure of
the power manager every slot (R331). -/
def State.slotPick (s : State) (slot : Nat) : Option (Nat × Nat) :=
  if 0 < Tab.get s.prim.droop (dieOf (slot / 4)) ∨ 3 ≤ s.prim.throttle then none
  else
    let l := s.slotGangs slot
    match l.find? (fun e => (s.gang e.1 e.2).run.isSome) with
    | some e => some e
    | none =>
      match l with
      | [] => none
      | a :: r => some (r.foldl (fun b x => if s.better b x then b else x) a)

/-- Slots that hold a gang. -/
def State.slots (s : State) : List Nat :=
  (s.wgs.flatMap (fun e => if e.2.status = .running ∨ e.2.status = .saving then
    e.2.gangs.map (fun h => e.2.core * 4 + h.2.slot) else [])).eraseDups

/-- The gang that issues when step chooses: of the slots' choices the one ready longest. All slots issue in one cycle; the model
issues one word at a time (log 48). -/
def State.pick (s : State) : Option (Nat × Nat) :=
  match s.slots.filterMap s.slotPick with
  | [] => none
  | a :: r => some (r.foldl (fun b x => if (s.gang x.1 x.2).readyAt < (s.gang b.1 b.2).readyAt then x else b) a)

/-! ## A turn: run, fetch, decode -/

/-- A gang without a run begins one for its next split: the latches of its lanes are 0, but for those that it keeps (R21, R22, R283). -/
def State.startRun (s : State) (w g : Nat) : State :=
  match (s.gang w g).run, (s.gang w g).nextSplit with
  | none, some x =>
      s.modGang w g (fun y => { y with
        run := some { split := x.id, count := 0 }
        last := x.id
        b := y.b.filter (fun (e : Nat × Word) => !(x.lanes &&& ~~~x.keep).getLsbD (e.1 / 4)) })
  | _, _ => s

/-- The step that a word is: an STB through a record of kind 0x10 is STB_WINDOW (R172, R275). -/
def State.resolve (s : State) (w g : Nat) (i : Instr) : Instr :=
  match i with
  | .stb x => if recKind ((s.gang w g).dGet (afDn x.sc)) = 0x10 then .stbWindow x else .stb x
  | i => i

/-- The split whose run is in progress. -/
def Gang.turn (g : Gang) : Option Split :=
  match g.run with
  | some r => g.splits.find? (fun x => x.id == r.split)
  | none => none

/-- The lanes that a split has still to replay; none where its word has never been issued. -/
def Split.redo (x : Split) : Option Mask := if x.first then none else x.replay

/-- The gang begins or goes on with a run and fetches its word: the instruction with the state in which exec performs it, or the
state in which the turn ends without one: a fetch fault parks the split (R73), a refused word traps (R124). -/
def State.turn (s : State) (w g : Nat) : Except State (Instr × State) :=
  let s := s.startRun w g
  match (s.gang w g).turn with
  | none => .error (s.modGang w g (fun y => { y with run := none }))
  | some x =>
    let pc := (s.gang w g).splitPc x
    let (f, s) := s.fetch w pc.toNat
    match f with
    | .word n =>
        (match decodeNat n with
         | .ok i => .ok (s.resolve w g i,
             { s with aux := { s.aux with cur := some { wg := w, gang := g, split := x.id, pc := pc, replay := x.redo,
                                                           org := x.org } } })
         | .error e =>
             .error ((s.takeTrap w g x.id (s.gang w g).run cILLEGAL x.lanes (word e.number) pc).settleGang w g))
    | f =>
        let c : Issue := { wg := w, gang := g, split := x.id, pc := pc, lanes := x.lanes, act := x.replay.getD x.lanes, op := 0,
                           w := default, f := default }
        let s : State := { s with aux := { s.aux with cur := some { wg := w, gang := g, split := x.id, pc := pc, replay := x.replay,
                                                                     org := x.org, fetching := x.redo.isNone } } }
        .error ((c.fetchStop pc.toNat f s).settleGang w g)

/-- A word of the vector units: the packed, floating, special and cross-lane opcodes (R331; assumption 46). -/
def isVector (i : Instr) : Bool :=
  match i.word with
  | some (op, _) => decide (0x40 ≤ op ∧ op < 0xA0)
  | none => false

/-! ## What waits in Q(t) while a word issues (R85) -/

/-- The v registers that a word names (R124). -/
def vRegs (i : Instr) : List Nat :=
  match i with
  | .pair w => (match halfForm w.a.hop.toNat, halfForm w.b.hop.toNat with
    | some a, some b => a.regs w.a ++ b.regs w.b
    | _, _ => [])
  | i => (match i.word with
    | some (op, w) => ((form op w).map (fun f => f.regs w)).getD []
    | none => [])

/-- Words whose accesses can wait in Q(t): LDB, STB, LDS, STS, the atomics and PULL. -/
def defers (i : Instr) : Bool :=
  match i.word with
  | some (op, _) => [0xA2, 0xA3, 0xA4, 0xA5, 0xA8, 0xA9, 0xAA, 0xE1].contains op
  | none => false

/-- Words that make no access when they perform: register and control words but EXIT, LDC, and the submissions of records and flows that
registers describe. -/
def isPlain (i : Instr) : Bool :=
  match i.word with
  | some (op, _) => (decide (op < 0xA0) && op != 0x08) || [0xA6, 0xA7, 0xD0, 0xD2, 0xD3, 0xD4, 0xD5].contains op
  | none => false

/-- A word that reads registers of other lanes (R208). -/
def crosses (i : Instr) : Bool :=
  match i.word with
  | some (op, _) => decide (0x90 ≤ op ∧ op ≤ 0x97)
  | none => false

/-- A pair word whose halves access no memory. -/
def plainPair (i : Instr) : Bool :=
  match i with
  | .pair w => [w.a, w.b].all (fun (h : Half) => ((halfForm h.hop.toNat).map (fun f => f.op != 0xA4 && f.op != 0xA5)).getD false)
  | _ => false

/-- An entry gives a register that the word names, or is an acquire that holds what comes later (R85). -/
def QEntry.gives (e : QEntry) (regs : List Nat) : Bool := e.acq.isSome || e.dst.any (fun r => !e.bank && regs.contains r)

/-- The entries of Q(t) that a word waits for have performed (R85): those that give its registers; of a word that is no plain one and whose
accesses do not wait in Q(t), all of its split's lanes; a TLBI waits for every thread's, whose translations it drops (R288, log 4). -/
def State.ready (s : State) (w g : Nat) (lanes : Mask) (i : Instr) : State :=
  match i with
  | .tlbi _ => s.wgs.foldl (fun s e => (Tab.keys e.2.gangs).foldl (fun s g => s.performWhere e.1 g (fun _ => true)) s) s
  | i =>
    let mine := fun (e : QEntry) => crosses i || lanes.getLsbD e.lane
    if isPlain i || plainPair i || defers i then s.performWhere w g (fun e => mine e && e.gives (vRegs i))
    else s.performWhere w g mine

/-- The word's record, with its accesses entering Q(t). -/
def State.deferring (s : State) : State := { s with aux := { s.aux with cur := s.aux.cur.map (fun x => { x with late := true }) } }

/-- After a word whose accesses have entered Q(t) behind n entries: they stay there, but for those of a word within a run; or they perform
at once, after those that must go before them. -/
def State.settleQueue (s : State) (w g n : Nat) (late : Bool) : State :=
  let new := ((s.gang w g).queue.drop n).map QEntry.num
  s.performWhere w g (fun e => new.contains e.num && (e.run || !late))

/-- What must happen before a gang begins a run: JOINs on its masks and member forms that have become ready go on (R146, R210), then a
user interrupt for it is delivered (R306). -/
def State.beforeRun (s : State) (w g : Nat) : State :=
  if (s.gang w g).run.isSome then s
  else
    let key := s.ctxKey w
    let s := (s.modGang w g (fun x => x.releaseJoins s.cycle)).memberForms w g
    if s.handlerGang key = some (w, g) ∧ (s.ctx key).deliverable.isSome then
      nextOr (execUiDeliver key (s.performWhere w g (fun _ => true))) s
    else s

/-- What an event waits for has performed: before a user interrupt is delivered, which takes a FENCEX (R99), its handler gang's entries;
before a workgroup is saved, those that reach the die store it leaves (R102, R302). -/
def State.readyFor (s : State) (i : Instr) : State :=
  match i with
  | .uiDeliver key => (match s.handlerGang key with
    | some (w, g) => s.performWhere w g (fun _ => true)
    | none => s)
  | .preemptSave w => (Tab.keys (s.wg w).gangs).foldl (fun s g => s.performWhere w g (fun e => e.bytes.any (fun b => match b with
    | .loc x => x % 8 == 4
    | .zero | .host _ | .win .. => false))) s
  | _ => s

/-- The gangs whose queues hold an entry. -/
def State.queued (s : State) : List (Nat × Nat) :=
  s.wgs.flatMap (fun e => (e.2.gangs.filter (fun h => !h.2.queue.isEmpty)).map (fun h => (e.1, h.1)))

/-! ## The machine's own steps (R84) -/

/-- Tag and counter failures within a second that raise the higher alarm (R329). -/
def alarmFails : Nat := 4096

/-- Steps that a park may take. -/
def State.parkMoves (s : State) (e : Nat × Nat × Park) : List Instr :=
  let (w, g, p) := e
  [match p.why with
   | .member .. => if (s.gang w g).memberReady p then [.memberFormPerform w g p.id] else []
   | .bwait .. => [.bwaitWake w g p.id]
   | .wseq .. => [.wseqWake w g p.id]
   | .wmem .. => [.wmemRecheck w g p.id]
   | .uiwait .. => []
   | _ => [.parkClear w g p.id],
   if s.expired p then [.waitTimeout w g p.id] else []].flatten

/-- Steps of one workgroup's engine work. -/
def wgMoves (e : Nat × Workgroup) : List Instr :=
  let r := e.2
  let k := clusterOf r.core
  [if r.status = .running then
     [r.gangs.flatMap (fun h => ((List.range 8).filter (fun k => (h.2.joinPc k).isSome)).map (fun k => Instr.joinRelease e.1 h.1 k)),
      if r.isDone then [.workgroupRetire e.1] else []].flatten
   else [],
   if r.status = .saving then [.preemptSave e.1] else [],
   if r.status = .saved then [.workgroupResume e.1] else [],
   if r.status = .relaunch then [.workgroupRelaunch e.1] else [],
   if r.chain.isEmpty then [] else [.taskComplete k, .mdrain k, .mma k, .mload k, .mzero k, .mwait k, .taskStart k],
   (r.slots.filter (fun h => h.2.st == .walking)).map (fun h => Instr.claimWalk e.1 h.1),
   r.flows.flatMap (fun f => if f.started then [.flowSevered e.1 f.id] else [.flowStart e.1 f.id])].flatten

/-- What an Iris does: it writes what has been read, reads, completes, and gives the next turn when nothing can be read (R79, R90, R240). -/
def State.irisMoves (s : State) (k : Nat) : List Move :=
  (s.xfersOf k).flatMap (fun e => [.xferWrite e.1 0, .xferRead e.1 0] ++ (match e.1 with
    | .flow w i => [.event (.flowComplete w i)]
    | .tile w i => [.event (.tmovComplete w i)]
    | .service i => [.serve i])) ++ [.irisTurn k]

/-- The clusters at whose Iris a transfer is in progress. -/
def State.irisBusy (s : State) : List Nat :=
  let wgs := (s.wgs.filter (fun e => e.2.flows.any Flow.started || !e.2.moves.isEmpty)).map (fun e => clusterOf e.2.core)
  let dies := (s.fab.services.filter Service.live).map (fun (x : Service) => x.die * 12)
  (wgs ++ dies).eraseDups

/-- A step is held back by the power manager's first measure: Dahlia's K-steps start later (R331). -/
def State.withheld (s : State) (i : Instr) : Bool :=
  match i with
  | .mma _ => decide (1 ≤ s.prim.throttle)
  | _ => false

/-- The reflection queues with something to deliver here. -/
def State.deliveries (s : State) : List QueueKey :=
  (s.fab.landing.map Landing.key ++ (s.fab.rq.map Entry.key).filter (fun q => s.isSelf q.pod.toNat q.pkg.toNat) ++
    (s.fab.inbound.filter (fun p => decide (pkKind p.hdr ≤ 3))).map (fun p => hdrKey p.hdr)).eraseDups

/-- The steps of the opcode table that step looks at when nothing is on its agenda, in its order (log 48). -/
def State.events (s : State) : List Instr :=
  [(Tab.keys s.ctxs).flatMap (fun k => if (s.ctx k).deliverable.isSome then [.uiDeliver k] else []),
   s.parksNow.flatMap s.parkMoves,
   (List.range s.sched.barriers.length).map Instr.wiredBarrierComplete,
   (s.wgs.flatMap wgMoves).filter (fun i => !s.withheld i),
   s.deliveries.flatMap (fun q => [.reflectDeliver q, .orderedFlagDeliver q]),
   if s.fab.held.isEmpty then [] else [.packetVerify 0],
   if s.fab.pulls.isEmpty then [] else (List.range 4).map Instr.pullServe,
   s.fab.hands.map Instr.claimHandshake,
   (List.range s.fab.sent.length).map Instr.resendTimeout,
   (s.prim.posted.take 1).map (fun p => Instr.storeDurable p.id),
   (s.sched.launches.filter (fun e => e.2.isOver && e.2.join.isSome)).map (fun e => Instr.joinCounterIncrement e.1),
   ((Tab.keys s.ctxs).filter (fun k => (s.ctx k).ending.isSome)).map (fun k => Instr.contextTeardown k 0),
   if alarmFails ≤ s.prim.tagFails.length then [.securityAlarmHigher .fabricTag] else [],
   if s.prim.commit = .quiesce then [.layoutSwap, .quiesceTimeout] else [],
   (s.prim.pairs.filter (fun e => e.2.leader)).map (fun e => Instr.heartbeatLapse e.1),
   (Tab.keys s.sched.pending).map Instr.pendingAdmit,
   if s.vifs.any (fun e => e.2.queues.any (fun q => !q.2.isEmpty)) then [.workgroupPlace] else []].flatten

/-- All of them, with the parts of transfers and the service claims. -/
def State.moves (s : State) : List Move :=
  s.queued.map (fun e => Move.entry e.1 e.2 0) ++ s.events.map Move.event ++ s.irisBusy.flatMap s.irisMoves ++ s.fab.services.map (fun x => Move.serve x.id)

/-- A control packet to this package acts (R261), a user interrupt that has waited behind a gap is taken, or something bound for an
unreachable package is dropped. -/
def State.sweep (s : State) : Option State :=
  match s.fab.ctl.find? (fun p => s.isSelf (pkDpod p.hdr) (pkDpkg p.hdr)) with
  | some p => some ((s.modFab (fun f => { f with ctl := dropFirst (· == p) f.ctl })).control p.hdr p.data)
  | none =>
    if s.fab.inbound.any (fun p => pkKind p.hdr == 7 && decide (p.since + resendCycles ≤ s.cycle)) then some s.lateUints
    else s.dropUnreachable

/-! ## The pushes and pulls that step takes by itself (R84, log 48) -/

/-- Locations with more writes in a second table of earlier writes than in a first. -/
def newWrites : Tab (List Byte) → Tab (List Byte) → List Nat
  | _, [] => []
  | old, e :: l =>
    let old := old.dropWhile (fun o => decide (o.1 < e.1))
    (match old with
     | [] => [e.1]
     | o :: _ => if o.1 = e.1 ∧ o.2.length = e.2.length then [] else [e.1]) ++ newWrites old l

/-- V(i, c)[x] ← the later of it and the position given for x, for several x. -/
def MemSys.raiseAll (m : MemSys) (c : PathClass) (ps : Tab Nat) (i : Inst) : MemSys :=
  { m with views := setRow m.views i c (maxPos ps (rowPos m.views i c)) }

/-- The writes of a gang's word are pushed from its lanes to fab: s is the state before the word. Stores to host memory are of
another class (R82). -/
def State.spread (s : State) (w g : Nat) (t : State) : State :=
  let xs := (newWrites s.ms.hist t.ms.hist).filter (fun x => x % 8 != 1)
  if xs.isEmpty then t
  else t.modMs (fun m => ((t.chain w g 0).drop 1).foldl (fun m i => m.raiseAll .thread (xs.map (fun x => (x, t.ms.lastPos x))) i) m)

/-- Pulls along a chain for some locations and those of their units: the chain is given narrow to wide. -/
def MemSys.pullAt (m : MemSys) (c : PathClass) (xs : List Nat) : List Inst → MemSys
  | i :: j :: l => (m.pullAt c xs (j :: l)).moveUnits j i c xs
  | _ => m

/-- The words that parked WMEMs watch are pulled to their lanes (R187). -/
def State.lookWaits (s : State) : State :=
  s.parksNow.foldl (fun s e => match e.2.2.why with
    | .wmem x addr _ =>
        (s.planScratch e.1 (wmemLvl x) (esize x.type) ((lanesOf e.2.2.act).map (fun i => (i, ((Tab.get addr i).toNat, true))))).go.foldl
          (fun s l => s.modMs (fun m => m.pullAt .thread l.locs (s.chain e.1 e.2.1 l.lane))) s
    | _ => s) s

/-- Cycles during which a die is throttled (R332): while a measure of the power manager or a droop is in force (log 46). -/
def Prim.hold (p : Prim) (n : Nat) : Tab Nat :=
  (List.range 4).foldl (fun t d => if 0 < p.throttle ∨ 0 < Tab.get p.droop d then Tab.set t d (Tab.get t d + n) else t) p.held

/-- The end of a step: no word is in issue, at least n0 cycles pass (log 21), droop holds run down. -/
def State.tick (s : State) (n0 : Nat) : State :=
  let n := n0 + Config.extraCycles s.aux.ctr
  { s with
    aux := { s.aux with cur := none }
    cycle := s.cycle + n
    prim := { s.prim with
      held := s.prim.hold n
      droop := (s.prim.droop.map (fun e => (e.1, e.2 - n))).filter (fun e => e.2 != 0) } }

/-! ## Placing a word where it is fetched next -/

/-- Bytes written into a memory. -/
def putBytes (m : List Host.Cell) (x : Nat) (bs : List Byte) : List Host.Cell :=
  ((List.range bs.length).zip bs).foldl (fun m e => Memory.write m (locAdd x e.1) e.2) m

/-- Tables that map the first GiB of both stages to itself: one page for each of levels 1 to 3, from 0x1000. -/
def mapTables (m : List Host.Cell) : List Host.Cell :=
  putBytes (putBytes (putBytes m (locHbm 0x1000) (leBytes 8 0x20B9)) (locHbm 0x2000) (leBytes 8 0x30B9)) (locHbm 0x3000) (leBytes 8 0x1F9)

/-- A launch of one workgroup of one gang of one thread with 128 registers, whose entry point is 0x10000. -/
def bareLaunch (bs : List Byte) : Launch :=
  { (default : Launch) with hdr := BitVec.ofNat 512 (7 * 2 ^ 36 + 0x10000 * 2 ^ 256), img := putBytes [] (locHbm 0x10000) bs, next := 1 }

/-- A workgroup of that launch stands at its first instruction on core 0: context 0 of interface 0 over all four dies. -/
def State.install (s : State) (bs : List Byte) : State :=
  let l := s.sched.nextLaunch
  let w := s.nextWg
  let x := bareLaunch bs
  { s with
    ms := { s.ms with mem := mapTables s.ms.mem, tlb := [] }
    ctxs := Tab.set s.ctxs 0 { Ctx.fresh with reg := [(0x300, 0x1001#64)] }
    vifs := Tab.set s.vifs 0 { (default : Vif) with reg := [(0x200, 1#64), (0x201, 0x1001#64)] }
    sched := { s.sched with launches := Tab.set s.sched.launches l x, nextLaunch := l + 1 }
    wgs := Tab.set s.wgs w { (default : Workgroup) with status := .running, launch := l, gangs := [(0, newGang x)] }
    nextWg := w + 1
    prim := { s.prim with layout := 2, fw := firewalls 2, droop := [], throttle := 0 } }

/-- The word is stored in the code image where the gang fetches next; none: it could not fetch there. -/
def State.placeCode (s : State) (w g : Nat) (bs : List Byte) : Option State :=
  let t := (s.beforeRun w g).startRun w g
  match (t.gang w g).turn with
  | none => none
  | some x =>
    match t.peek (s.ctxKey w) ((t.gang w g).splitPc x).toNat { rd := false, wr := false, ex := true } with
    | none => none
    | some pa => some (s.modLaunch (s.wg w).launch (fun y => { y with img := putBytes y.img (locHbm pa) bs }))

end Sys2Proof.Machine
end

