-- ==== Sys2Proof/Machine/Dispatch.lean ====
section
/-! DEFINITION. One arm per constructor of Instr: a direct call of its meaning. -/

namespace Sys2Proof.Machine

/-- What each step of spec/opcode_table.json does. -/
def exec (i : Instr) (s : State) : Host.Outcome State Fault Refusal :=
  match i with
  | .nop w => Sys2Proof.Machine.execNop w s
  | .bra w => Sys2Proof.Machine.execBra w s
  | .brc w => Sys2Proof.Machine.execBrc w s
  | .brx w => Sys2Proof.Machine.execBrx w s
  | .lpad w => Sys2Proof.Machine.execLpad w s
  | .call w => Sys2Proof.Machine.execCall w s
  | .callx w => Sys2Proof.Machine.execCallx w s
  | .ret w => Sys2Proof.Machine.execRet w s
  | .exit w => Sys2Proof.Machine.execExit w s
  | .yield w => Sys2Proof.Machine.execYield w s
  | .join w => Sys2Proof.Machine.execJoin w s
  | .joinRelease w g k => Sys2Proof.Machine.execJoinRelease w g k s
  | .kopSet w => Sys2Proof.Machine.execKopSet w s
  | .kopOr w => Sys2Proof.Machine.execKopOr w s
  | .kopAnd w => Sys2Proof.Machine.execKopAnd w s
  | .kopAndn w => Sys2Proof.Machine.execKopAndn w s
  | .kopCopy w => Sys2Proof.Machine.execKopCopy w s
  | .kopLoad w => Sys2Proof.Machine.execKopLoad w s
  | .krd w => Sys2Proof.Machine.execKrd w s
  | .cmp w => Sys2Proof.Machine.execCmp w s
  | .plop w => Sys2Proof.Machine.execPlop w s
  | .pmov w => Sys2Proof.Machine.execPmov w s
  | .pmovSave w => Sys2Proof.Machine.execPmovSave w s
  | .pmovLoad w => Sys2Proof.Machine.execPmovLoad w s
  | .pmovNz w => Sys2Proof.Machine.execPmovNz w s
  | .csrd w => Sys2Proof.Machine.execCsrd w s
  | .rstackPop w => Sys2Proof.Machine.execRstackPop w s
  | .cswr w => Sys2Proof.Machine.execCswr w s
  | .rstackPush w => Sys2Proof.Machine.execRstackPush w s
  | .csor w => Sys2Proof.Machine.execCsor w s
  | .csandn w => Sys2Proof.Machine.execCsandn w s
  | .mov w => Sys2Proof.Machine.execMov w s
  | .movi w => Sys2Proof.Machine.execMovi w s
  | .add w => Sys2Proof.Machine.execAdd w s
  | .addc w => Sys2Proof.Machine.execAddc w s
  | .sub w => Sys2Proof.Machine.execSub w s
  | .subb w => Sys2Proof.Machine.execSubb w s
  | .mul w => Sys2Proof.Machine.execMul w s
  | .mulh w => Sys2Proof.Machine.execMulh w s
  | .mad w => Sys2Proof.Machine.execMad w s
  | .div w => Sys2Proof.Machine.execDiv w s
  | .rem w => Sys2Proof.Machine.execRem w s
  | .min w => Sys2Proof.Machine.execMin w s
  | .max w => Sys2Proof.Machine.execMax w s
  | .abs w => Sys2Proof.Machine.execAbs w s
  | .neg w => Sys2Proof.Machine.execNeg w s
  | .and w => Sys2Proof.Machine.execAnd w s
  | .or w => Sys2Proof.Machine.execOr w s
  | .xor w => Sys2Proof.Machine.execXor w s
  | .andn w => Sys2Proof.Machine.execAndn w s
  | .not w => Sys2Proof.Machine.execNot w s
  | .shl w => Sys2Proof.Machine.execShl w s
  | .shr w => Sys2Proof.Machine.execShr w s
  | .sar w => Sys2Proof.Machine.execSar w s
  | .rot w => Sys2Proof.Machine.execRot w s
  | .fshf w => Sys2Proof.Machine.execFshf w s
  | .popc w => Sys2Proof.Machine.execPopc w s
  | .clz w => Sys2Proof.Machine.execClz w s
  | .ctz w => Sys2Proof.Machine.execCtz w s
  | .brev w => Sys2Proof.Machine.execBrev w s
  | .bfe w => Sys2Proof.Machine.execBfe w s
  | .bfi w => Sys2Proof.Machine.execBfi w s
  | .sel w => Sys2Proof.Machine.execSel w s
  | .sext w => Sys2Proof.Machine.execSext w s
  | .zext w => Sys2Proof.Machine.execZext w s
  | .addr w => Sys2Proof.Machine.execAddr w s
  | .vadd w => Sys2Proof.Machine.execVadd w s
  | .vsub w => Sys2Proof.Machine.execVsub w s
  | .vmul w => Sys2Proof.Machine.execVmul w s
  | .vmulh w => Sys2Proof.Machine.execVmulh w s
  | .vmad w => Sys2Proof.Machine.execVmad w s
  | .vdot w => Sys2Proof.Machine.execVdot w s
  | .vmin w => Sys2Proof.Machine.execVmin w s
  | .vmax w => Sys2Proof.Machine.execVmax w s
  | .vabs w => Sys2Proof.Machine.execVabs w s
  | .vavg w => Sys2Proof.Machine.execVavg w s
  | .vsad w => Sys2Proof.Machine.execVsad w s
  | .vshl w => Sys2Proof.Machine.execVshl w s
  | .vshr w => Sys2Proof.Machine.execVshr w s
  | .vsar w => Sys2Proof.Machine.execVsar w s
  | .vcmp w => Sys2Proof.Machine.execVcmp w s
  | .vsel w => Sys2Proof.Machine.execVsel w s
  | .vpack w => Sys2Proof.Machine.execVpack w s
  | .vunpk w => Sys2Proof.Machine.execVunpk w s
  | .vperm w => Sys2Proof.Machine.execVperm w s
  | .vtbl w => Sys2Proof.Machine.execVtbl w s
  | .vswz w => Sys2Proof.Machine.execVswz w s
  | .fadd w => Sys2Proof.Machine.execFadd w s
  | .fsub w => Sys2Proof.Machine.execFsub w s
  | .fmul w => Sys2Proof.Machine.execFmul w s
  | .fma w => Sys2Proof.Machine.execFma w s
  | .fmin w => Sys2Proof.Machine.execFmin w s
  | .fmax w => Sys2Proof.Machine.execFmax w s
  | .fabs w => Sys2Proof.Machine.execFabs w s
  | .fneg w => Sys2Proof.Machine.execFneg w s
  | .fcmp w => Sys2Proof.Machine.execFcmp w s
  | .fcls w => Sys2Proof.Machine.execFcls w s
  | .frnd w => Sys2Proof.Machine.execFrnd w s
  | .fcvt w => Sys2Proof.Machine.execFcvt w s
  | .icvt w => Sys2Proof.Machine.execIcvt w s
  | .fscl w => Sys2Proof.Machine.execFscl w s
  | .rcp w => Sys2Proof.Machine.execRcp w s
  | .rsq w => Sys2Proof.Machine.execRsq w s
  | .sqrt w => Sys2Proof.Machine.execSqrt w s
  | .exp2 w => Sys2Proof.Machine.execExp2 w s
  | .log2 w => Sys2Proof.Machine.execLog2 w s
  | .sinp w => Sys2Proof.Machine.execSinp w s
  | .cosp w => Sys2Proof.Machine.execCosp w s
  | .tanh w => Sys2Proof.Machine.execTanh w s
  | .shf w => Sys2Proof.Machine.execShf w s
  | .shfi w => Sys2Proof.Machine.execShfi w s
  | .vote w => Sys2Proof.Machine.execVote w s
  | .red w => Sys2Proof.Machine.execRed w s
  | .scan w => Sys2Proof.Machine.execScan w s
  | .bcast w => Sys2Proof.Machine.execBcast w s
  | .matchLanes w => Sys2Proof.Machine.execMatchLanes w s
  | .elect w => Sys2Proof.Machine.execElect w s
  | .memberFormPerform w g park => Sys2Proof.Machine.execMemberFormPerform w g park s
  | .pair w => Sys2Proof.Machine.execPair w s
  | .dld w => Sys2Proof.Machine.execDld w s
  | .dmod w => Sys2Proof.Machine.execDmod w s
  | .ldb w => Sys2Proof.Machine.execLdb w s
  | .stb w => Sys2Proof.Machine.execStb w s
  | .stbWindow w => Sys2Proof.Machine.execStbWindow w s
  | .lds w => Sys2Proof.Machine.execLds w s
  | .sts w => Sys2Proof.Machine.execSts w s
  | .ldc w => Sys2Proof.Machine.execLdc w s
  | .tmov w => Sys2Proof.Machine.execTmov w s
  | .tmovComplete w j => Sys2Proof.Machine.execTmovComplete w j s
  | .atom w => Sys2Proof.Machine.execAtom w s
  | .cas w => Sys2Proof.Machine.execCas w s
  | .atomf w => Sys2Proof.Machine.execAtomf w s
  | .fence w => Sys2Proof.Machine.execFence w s
  | .fencex w => Sys2Proof.Machine.execFencex w s
  | .persist w => Sys2Proof.Machine.execPersist w s
  | .barw w => Sys2Proof.Machine.execBarw w s
  | .wiredBarrierComplete inst => Sys2Proof.Machine.execWiredBarrierComplete inst s
  | .binit w => Sys2Proof.Machine.execBinit w s
  | .barv w => Sys2Proof.Machine.execBarv w s
  | .bexp w => Sys2Proof.Machine.execBexp w s
  | .bwait w => Sys2Proof.Machine.execBwait w s
  | .bwaitWake w g park => Sys2Proof.Machine.execBwaitWake w g park s
  | .btry w => Sys2Proof.Machine.execBtry w s
  | .wseq w => Sys2Proof.Machine.execWseq w s
  | .wseqWake w g park => Sys2Proof.Machine.execWseqWake w g park s
  | .wmem w => Sys2Proof.Machine.execWmem w s
  | .wmemRecheck w g park => Sys2Proof.Machine.execWmemRecheck w g park s
  | .waitTimeout w g park => Sys2Proof.Machine.execWaitTimeout w g park s
  | .menq w => Sys2Proof.Machine.execMenq w s
  | .mtail w => Sys2Proof.Machine.execMtail w s
  | .taskStart clus => Sys2Proof.Machine.execTaskStart clus s
  | .mma clus => Sys2Proof.Machine.execMma clus s
  | .mzero clus => Sys2Proof.Machine.execMzero clus s
  | .mload clus => Sys2Proof.Machine.execMload clus s
  | .mdrain clus => Sys2Proof.Machine.execMdrain clus s
  | .mwait clus => Sys2Proof.Machine.execMwait clus s
  | .taskComplete clus => Sys2Proof.Machine.execTaskComplete clus s
  | .dahliaReset clus => Sys2Proof.Machine.execDahliaReset clus s
  | .claim w => Sys2Proof.Machine.execClaim w s
  | .claimWalk w slot => Sys2Proof.Machine.execClaimWalk w slot s
  | .claimHandshake hand => Sys2Proof.Machine.execClaimHandshake hand s
  | .handshakeResponse w slot pkg code => Sys2Proof.Machine.execHandshakeResponse w slot pkg code s
  | .handshakeTimeout w slot => Sys2Proof.Machine.execHandshakeTimeout w slot s
  | .flow w => Sys2Proof.Machine.execFlow w s
  | .flowStart w j => Sys2Proof.Machine.execFlowStart w j s
  | .flowComplete w j => Sys2Proof.Machine.execFlowComplete w j s
  | .flowSevered w j => Sys2Proof.Machine.execFlowSevered w j s
  | .clrel w => Sys2Proof.Machine.execClrel w s
  | .clqry w => Sys2Proof.Machine.execClqry w s
  | .rfence w => Sys2Proof.Machine.execRfence w s
  | .rfenceQ w => Sys2Proof.Machine.execRfenceQ w s
  | .pull w => Sys2Proof.Machine.execPull w s
  | .pullServe die => Sys2Proof.Machine.execPullServe die s
  | .uint w => Sys2Proof.Machine.execUint w s
  | .uintArrive sender target vec payload host => Sys2Proof.Machine.execUintArrive sender target vec payload host s
  | .uiDeliver ctx => Sys2Proof.Machine.execUiDeliver ctx s
  | .uiwait w => Sys2Proof.Machine.execUiwait w s
  | .uiret w => Sys2Proof.Machine.execUiret w s
  | .uiclr w => Sys2Proof.Machine.execUiclr w s
  | .trap w => Sys2Proof.Machine.execTrap w s
  | .bkpt w => Sys2Proof.Machine.execBkpt w s
  | .tret w => Sys2Proof.Machine.execTret w s
  | .launch w => Sys2Proof.Machine.execLaunch w s
  | .sysrd w => Sys2Proof.Machine.execSysrd w s
  | .syswr w => Sys2Proof.Machine.execSyswr w s
  | .tlbi w => Sys2Proof.Machine.execTlbi w s
  | .dltailWrite vif v => Sys2Proof.Machine.execDltailWrite vif v s
  | .faultAnswerRetry q token => Sys2Proof.Machine.execFaultAnswerRetry q token s
  | .faultAnswerAbort q token => Sys2Proof.Machine.execFaultAnswerAbort q token s
  | .parkClear w g park => Sys2Proof.Machine.execParkClear w g park s
  | .eccCorrected kind => Sys2Proof.Machine.execEccCorrected kind s
  | .eccUncorrectable site => Sys2Proof.Machine.execEccUncorrectable site s
  | .hbmPoison line => Sys2Proof.Machine.execHbmPoison line s
  | .postedStoreRefused j => Sys2Proof.Machine.execPostedStoreRefused j s
  | .workgroupPlace => Sys2Proof.Machine.execWorkgroupPlace s
  | .pendingAdmit clus => Sys2Proof.Machine.execPendingAdmit clus s
  | .loadBalanceExchange clus => Sys2Proof.Machine.execLoadBalanceExchange clus s
  | .workgroupRetire w => Sys2Proof.Machine.execWorkgroupRetire w s
  | .workgroupRelaunch w => Sys2Proof.Machine.execWorkgroupRelaunch w s
  | .preemptRequest ctx cores => Sys2Proof.Machine.execPreemptRequest ctx cores s
  | .preemptSave w => Sys2Proof.Machine.execPreemptSave w s
  | .workgroupResume w => Sys2Proof.Machine.execWorkgroupResume w s
  | .contextTeardown ctx reason => Sys2Proof.Machine.execContextTeardown ctx reason s
  | .slotPreamble port rx => Sys2Proof.Machine.execSlotPreamble port rx s
  | .flitReceive port flit => Sys2Proof.Machine.execFlitReceive port flit s
  | .nakReplay peer lack => Sys2Proof.Machine.execNakReplay peer lack s
  | .packetVerify j => Sys2Proof.Machine.execPacketVerify j s
  | .reflectDeliver q => Sys2Proof.Machine.execReflectDeliver q s
  | .orderedFlagDeliver q => Sys2Proof.Machine.execOrderedFlagDeliver q s
  | .ackReceive peer q first last status => Sys2Proof.Machine.execAckReceive peer q first last status s
  | .resendTimeout j => Sys2Proof.Machine.execResendTimeout j s
  | .lossOfLight port waves => Sys2Proof.Machine.execLossOfLight port waves s
  | .lostClear port waves => Sys2Proof.Machine.execLostClear port waves s
  | .portPark port => Sys2Proof.Machine.execPortPark port s
  | .portWake port => Sys2Proof.Machine.execPortWake port s
  | .wakeComplete port => Sys2Proof.Machine.execWakeComplete port s
  | .wakeTimeout port failed => Sys2Proof.Machine.execWakeTimeout port failed s
  | .calendarLoad pod pkg entries => Sys2Proof.Machine.execCalendarLoad pod pkg entries s
  | .rxWindowValidate rwin entry => Sys2Proof.Machine.execRxWindowValidate rwin entry s
  | .rxWindowClear rwin => Sys2Proof.Machine.execRxWindowClear rwin s
  | .spawnRecord vif r => Sys2Proof.Machine.execSpawnRecord vif r s
  | .joinCounterIncrement launch => Sys2Proof.Machine.execJoinCounterIncrement launch s
  | .interruptRecord vif r => Sys2Proof.Machine.execInterruptRecord vif r s
  | .hostMemAccess vif addr access => Sys2Proof.Machine.execHostMemAccess vif addr access s
  | .globalPersistentFlush => Sys2Proof.Machine.execGlobalPersistentFlush s
  | .bindRecordWrite j r => Sys2Proof.Machine.execBindRecordWrite j r s
  | .dsregWrite ctx die v => Sys2Proof.Machine.execDsregWrite ctx die v s
  | .ctxBaseWrite ctx idx v => Sys2Proof.Machine.execCtxBaseWrite ctx idx v s
  | .ctxprivWrite ctx v => Sys2Proof.Machine.execCtxprivWrite ctx v s
  | .layoutStage code map => Sys2Proof.Machine.execLayoutStage code map s
  | .layoutAbort => Sys2Proof.Machine.execLayoutAbort s
  | .layoutCommit => Sys2Proof.Machine.execLayoutCommit s
  | .layoutSwap => Sys2Proof.Machine.execLayoutSwap s
  | .quiesceTimeout => Sys2Proof.Machine.execQuiesceTimeout s
  | .spawnTrigger die vif => Sys2Proof.Machine.execSpawnTrigger die vif s
  | .heartbeat die => Sys2Proof.Machine.execHeartbeat die s
  | .heartbeatLapse die => Sys2Proof.Machine.execHeartbeatLapse die s
  | .lockstepMismatch die => Sys2Proof.Machine.execLockstepMismatch die s
  | .boot image => Sys2Proof.Machine.execBoot image s
  | .recoveryImage image => Sys2Proof.Machine.execRecoveryImage image s
  | .attestationRequest ctx nonce => Sys2Proof.Machine.execAttestationRequest ctx nonce s
  | .securityAlarmLower source => Sys2Proof.Machine.execSecurityAlarmLower source s
  | .securityAlarmHigher source => Sys2Proof.Machine.execSecurityAlarmHigher source s
  | .lifetimeRecordWrite => Sys2Proof.Machine.execLifetimeRecordWrite s
  | .powerSample estimate => Sys2Proof.Machine.execPowerSample estimate s
  | .supplyDroop die => Sys2Proof.Machine.execSupplyDroop die s
  | .freePush j c loc => Sys2Proof.Machine.execFreePush j c loc s
  | .freePull j c loc => Sys2Proof.Machine.execFreePull j c loc s
  | .storeDurable j => Sys2Proof.Machine.execStoreDurable j s
  | .provisioning image => Sys2Proof.Machine.execProvisioning image s
  | .plimSet watts => Sys2Proof.Machine.execPlimSet watts s
  | .contextCreate vif ctx => Sys2Proof.Machine.execContextCreate vif ctx s

end Sys2Proof.Machine
end

