-- ==== Sys2Proof/Machine/Step.lean ====
section
/-! DEFINITION. One step of the machine: the move that an agent has put on the agenda, else the first of the machine's own steps
that changes anything, else a word of the gang that issues next, whose writes are then pushed along its scopes; then time passes. -/

namespace Sys2Proof.Machine

/-- At least n cycles pass before the next state. -/
def finish (n : Nat) : Host.Outcome State Fault Refusal → Host.Outcome State Fault Refusal
  | .next t => .next (t.tick n)
  | .fault r => .fault r
  | .refused r => .refused r

/-- A word performs, when what it waits for in Q(t) has (R85). Its accesses perform at once, unless they are to stay in Q(t); behind
entries that stay there they enter it too, and where one of its lanes could not, every entry of its split performs first. -/
def State.runInstr (s : State) (w g : Nat) (i : Instr) (late : Bool) : Host.Outcome State Fault Refusal :=
  let lanes := (s.aux.cur.map s.splitLanes).getD 0#32
  let s := s.ready w g lanes i
  let n := (s.gang w g).queue.length
  if defers i ∧ (late ∨ n ≠ 0) then
    match exec i s.deferring with
    | .next t =>
        if (t.gang w g).queue.length = n then exec i (s.performWhere w g (fun e => lanes.getLsbD e.lane))
        else .next (t.settleQueue w g n late)
    | o => o
  else exec i s

/-- A gang issues one word; a vector word waits while the power manager withholds vector issue (R331). -/
def State.issueWord (s : State) (w g : Nat) (late : Bool) : Host.Outcome State Fault Refusal :=
  match (s.beforeRun w g).turn w g with
  | .ok (i, t) => if isVector i ∧ 2 ≤ s.prim.throttle then .next s else t.runInstr w g i late
  | .error s => .next s

/-- The turn of an issue slot. -/
def State.issueSlot (s : State) (slot : Nat) (late : Bool) : Host.Outcome State Fault Refusal :=
  match s.slotPick slot with
  | some (w, g) => s.issueWord w g late
  | none => .next s

/-- The pushes after a word that was issued in a state. -/
def State.pushed (s : State) (w g : Nat) : Host.Outcome State Fault Refusal → Host.Outcome State Fault Refusal
  | .next t => .next (s.spread w g t)
  | .fault r => .fault r
  | .refused r => .refused r

/-- A move that is no issue turn. A word as an event performs nothing: words perform in issue turns only (R295). -/
def State.perform (s : State) (m : Move) : Host.Outcome State Fault Refusal :=
  match m with
  | .event i => if i.hasWord ∨ s.withheld i then .next s else exec i (s.readyFor i)
  | .issue slot => s.issueSlot slot false
  | .issueLate slot => s.issueSlot slot true
  | .entry w g k => .next (s.performAt w g k)
  | .config vif idx v => .next (s.unlocked (fun s => s.vregWrite vif idx v))
  | .xferRead i k => .next (s.xferRead i k)
  | .xferWrite i k => .next (s.xferWrite i k)
  | .irisTurn k => .next (s.irisTurn k)
  | .land q k => .next (s.landAny q k)
  | .serve i => .next (s.serve i)
  | .outside o => .next (s.outside o)

/-- The cycles that a move takes at least: several events may fall into one cycle (R244), a slot issues one word in a cycle (R295). -/
def Move.cycles (m : Move) : Nat :=
  match m with
  | .issue _ | .issueLate _ => 1
  | .entry .. | .event _ | .config .. | .xferRead .. | .xferWrite .. | .irisTurn _ | .land .. | .serve _ | .outside _ => 0

/-- The first of some moves that changes the state. -/
def firstMove (s : State) : List Move → Option State
  | [] => none
  | m :: l =>
    match s.perform m with
    | .next t => if t = s then firstMove s l else some t
    | .fault _ | .refused _ => firstMove s l

/-- One step. -/
def step (s : State) : Host.Outcome State Fault Refusal :=
  match s.aux.agenda with
  | m :: rest => finish m.cycles (({ s with aux := { s.aux with agenda := rest } } : State).perform m)
  | [] =>
    match s.sweep with
    | some t => finish 0 (.next t)
    | none =>
      let s := s.lookWaits
      match firstMove s s.moves with
      | some t => finish 0 (.next t)
      | none =>
        finish 1 (match s.pick with
          | some (w, g) => s.pushed w g (s.issueWord w g false)
          | none => .next s)

/-- The instruction whose low nbits bits are w is stored where the next step fetches: at the next word of the gang that would issue,
or of a workgroup installed for it (log 12); the agenda holds the turn of its slot alone. -/
def State.withFetchWord (s : State) (nbits w : Nat) : State :=
  let bs := leBytes 8 (w % 2 ^ nbits)
  let s : State := { s with aux := { s.aux with agenda := [], cur := none } }
  let at' := match s.pick with
    | some (v, g) => (s.placeCode v g bs).map (fun t => (t, (s.wg v).core * 4 + (s.gang v g).slot))
    | none => none
  match at' with
  | some (t, k) => { t with aux := { t.aux with agenda := [.issue k] } }
  | none => { s.install bs with aux := { s.aux with agenda := [.issue 0] } }

end Sys2Proof.Machine
end

