-- ==== Sys2Proof/Safety.lean ====
section
/-! DEFINITION. What counts as a safe run, and the words in which statements are made: what has not changed, when a word performs,
what it leaves in its gang. -/

namespace Sys2Proof.Machine

/-- The machine goes on. -/
def Goes (o : Host.Outcome State Fault Refusal) : Prop := ∃ t, o = .next t

/-- Memory and code image are in canonical form: addresses strictly rising, no entry equal to what an unlisted address reads as. -/
def State.Inv (s : State) : Prop := Memory.wf s.ms.mem ∧ Memory.wf s.ms.imem

/-- A safe run of some length: every step goes on and keeps the invariant. -/
def SafeRun : Nat → State → Prop
  | 0, s => s.Inv
  | n + 1, s => s.Inv ∧ ∃ t, step s = .next t ∧ SafeRun n t

/-! ## What has not changed -/

/-- Every byte of memory reads as before. -/
def SameMemory (s t : State) : Prop := ∀ x, Memory.read t.ms.mem x = Memory.read s.ms.mem x

/-- Every byte of memory outside some locations reads as before. -/
def SameMemoryBut (xs : List Nat) (s t : State) : Prop := ∀ x, x ∉ xs → Memory.read t.ms.mem x = Memory.read s.ms.mem x

/-- Outside the workgroups nothing has changed: contexts, interfaces, launches and dispatch, engines, fabric, Primrose, time. -/
structure SameDevice (s t : State) : Prop where
  ctxs  : t.ctxs = s.ctxs
  vifs  : t.vifs = s.vifs
  sched : t.sched = s.sched
  eng   : t.eng = s.eng
  fab   : t.fab = s.fab
  prim  : t.prim = s.prim
  cycle : t.cycle = s.cycle
  aux   : t.aux = s.aux
  next  : t.nextWg = s.nextWg

/-- The workgroups are the same but for one gang. -/
structure SameGangs (w g : Nat) (s t : State) : Prop where
  gangs : ∀ v h, ¬(v = w ∧ h = g) → t.gang v h = s.gang v h
  wgs   : ∀ v, { t.wg v with gangs := [] } = { s.wg v with gangs := [] }

/-- Nothing outside one gang has changed. -/
structure OnlyGang (w g : Nat) (s t : State) : Prop where
  mem    : SameMemory s t
  ms     : t.ms = s.ms
  gangs  : SameGangs w g s t
  device : SameDevice s t

/-- The trap, diversion and failure registers, the trap bank, the waits and the place of a gang are as before. -/
structure SameSystem (g h : Gang) : Prop where
  slot   : h.slot = g.slot
  place  : h.place = g.place
  tvec   : h.tvec = g.tvec
  tpc    : h.tpc = g.tpc
  tcause : h.tcause = g.tcause
  tmask  : h.tmask = g.tmask
  tinfo  : h.tinfo = g.tinfo
  inTrap : h.inTrap = g.inTrap
  inUi   : h.inUi = g.inUi
  saved  : h.saved = g.saved
  uivec  : h.uivec = g.uivec
  uipay  : h.uipay = g.uipay
  bankV  : h.bankV = g.bankV
  bankP  : h.bankP = g.bankP
  fCode  : h.fCode = g.fCode
  fMask  : h.fMask = g.fMask
  parks  : h.parks = g.parks
  queue  : h.queue = g.queue

/-- The v registers and latches of a gang are as before. -/
structure SameValues (g h : Gang) : Prop where
  v : h.v = g.v
  b : h.b = g.b

/-- The warns register and its address are as before. -/
structure SameWarns (g h : Gang) : Prop where
  warns  : h.warns = g.warns
  warnpc : h.warnpc = g.warnpc

/-! ## When a word performs (R116, R124) -/

/-- A word in issue that passes checks 1 to 4 of R124 and is active in some lane, in a gang with a thread in EXEC (the threads of the
issuing split are), and whose accesses, if it makes any, perform when it issues (R85). -/
structure Ready (op : Nat) (w : FullWord) (s : State) (c : Issue) : Prop where
  issued : s.issue op w = some c
  formed : form op w = some c.f
  legal  : c.f.illegal w = false
  regs   : s.regBad c.wg c.gang (c.f.regs w) = none
  active : c.act ≠ 0#32
  exec   : ∃ i, i < 32 ∧ ((c.g s).thread i).st = .exec
  now    : ∀ x, s.aux.cur = some x → x.late = false

/-! ## What a word leaves in its gang -/

/-- The lane is active for the word. -/
def Issue.on (c : Issue) (i : Nat) : Prop := i < 32 ∧ c.act.getLsbD i = true

/-- warns and warnpc after some bits have been set one after the other (R133, R134). -/
structure Warned (c : Issue) (bits more : Nat) (g h : Gang) : Prop where
  warns  : h.warns = ((g.warn bits c.pc).warn more c.pc).warns
  warnpc : h.warnpc = ((g.warn bits c.pc).warn more c.pc).warnpc

/-- The lanes of the split stand at the next word; every thread is otherwise as before. -/
def NextWord (c : Issue) (g h : Gang) : Prop :=
  ∀ i, i < 32 → h.thread i = if c.lanes.getLsbD i then { g.thread i with pc := c.pc + 8 } else g.thread i

/-- A v result and its latch entry in each lane that has one, and nothing else in v registers and latches (R22, R118). -/
structure Results (c : Issue) (val : Nat → Option Word) (g h : Gang) : Prop where
  write : ∀ i x, c.on i → val i = some x → c.w.nw = false → h.vGet i c.w.dst.toNat = x
  keep  : ∀ i r, i < 32 → r < 128 → ¬(c.on i ∧ (val i).isSome ∧ c.w.nw = false ∧ r = c.w.dst.toNat) → h.vGet i r = g.vGet i r
  enter : ∀ i x, c.on i → val i = some x →
    h.bGet i 0 = x ∧ h.bGet i 1 = g.bGet i 0 ∧ h.bGet i 2 = g.bGet i 1 ∧ h.bGet i 3 = g.bGet i 2
  hold  : ∀ i j, i < 32 → j < 4 → ¬(c.on i ∧ (val i).isSome) → h.bGet i j = g.bGet i j

/-- A predicate result in each lane that has one; p0 takes none (R139). -/
structure PredResults (c : Issue) (pred : Nat → Option (Nat × Bool)) (g h : Gang) : Prop where
  write : ∀ i n x, c.on i → pred i = some (n, x) → n < 8 → n ≠ 0 → h.pGet i n = x
  keep  : ∀ i n, i < 32 → n < 8 → ¬(c.on i ∧ ∃ x, pred i = some (n, x)) → h.pGet i n = g.pGet i n

/-- A lane-wise word has performed with these results: its gang holds them, the flags are sticky in fpctl, its split stands at
the next word, and nothing else has changed. -/
structure LaneDone (c : Issue) (s t : State) (out : Nat → LaneOut) : Prop where
  only   : OnlyGang c.wg c.gang s t
  system : SameSystem (c.g s) (c.g t)
  masks  : (c.g t).k = (c.g s).k
  recs   : (c.g t).d = (c.g s).d
  values : Results c (fun i => (out i).val) (c.g s) (c.g t)
  preds  : PredResults c (fun i => (out i).pred) (c.g s) (c.g t)
  fpctl  : (c.g t).fpctl = (c.g s).fpctl ||| word (orAll ((lanesOf c.act).map (fun i => (out i).flags)) % 32 * 2 ^ 11)
  warns  : Warned c (c.f.warns c.op c.w) (orAll ((lanesOf c.act).map (fun i => (out i).warns))) (c.g s) (c.g t)
  next   : NextWord c (c.g s) (c.g t)

/-- The sub-elements of a register: n of w bits each (R15). -/
def Elements (w n : Nat) (x : Word) (f : Nat → Nat) : Prop := ∀ j, j < n → x.toNat / 2 ^ (w * j) % 2 ^ w = f j

/-- A lane-wise word has performed, and the sub-elements of its v results are these. -/
def LaneElements (c : Issue) (s t : State) (w n : Nat) (f : Nat → Nat → Nat) : Prop :=
  ∃ x : Nat → Word, LaneDone c s t (fun i => .v (x i)) ∧ ∀ i, Elements w n (x i) (f i)

/-- A word has performed that changes registers of its gang at most: they are those of x. -/
structure WordDone (c : Issue) (s t : State) (x : Gang) : Prop where
  only   : OnlyGang c.wg c.gang s t
  system : SameSystem (c.g s) (c.g t)
  v      : (c.g t).v = x.v
  b      : (c.g t).b = x.b
  p      : (c.g t).p = x.p
  k      : (c.g t).k = x.k
  d      : (c.g t).d = x.d
  fpctl  : (c.g t).fpctl = x.fpctl
  warns  : Warned c (c.f.warns c.op c.w) 0 (c.g s) (c.g t)

/-- The registers that a word reads and writes are as before. -/
structure SameRegisters (g h : Gang) : Prop where
  v     : h.v = g.v
  b     : h.b = g.b
  p     : h.p = g.p
  k     : h.k = g.k
  d     : h.d = g.d
  fpctl : h.fpctl = g.fpctl

/-- Each active lane of the split stands at its address, the other lanes at the next word; every other thread is as before (R18). -/
def Branched (c : Issue) (dest : Nat → Word) (g h : Gang) : Prop :=
  ∀ i, i < 32 → h.thread i =
    if c.lanes.getLsbD i then { g.thread i with pc := if c.act.getLsbD i then dest i else c.pc + 8 } else g.thread i

/-- A trap of the word in issue is taken: its handler is installed, and the gang is in neither trap mode nor a diversion (R296). -/
def CanTrap (c : Issue) (s : State) : Prop :=
  (c.g s).inTrap = false ∧ (c.g s).inUi = false ∧ codeAddr (c.g s).tvec ≠ 0#64

/-- The gang has taken a trap: what its trap registers hold, and that its handler runs (R296). -/
structure Trapped (c : Issue) (cause : Nat) (mask : Mask) (tinfo pc : Word) (g h : Gang) : Prop where
  mode   : h.inTrap = true
  tcause : h.tcause = word cause
  tmask  : h.tmask = word mask.toNat
  tinfo  : h.tinfo = tinfo
  tpc    : h.tpc = codeAddr pc
  at'    : ∀ i, i < 32 → (g.thread i).st ≠ .exited → (h.thread i).st = .exec ∧ (h.thread i).pc = codeAddr g.tvec
  regs   : ∀ i r, i < 32 → r < 120 → h.vGet i r = g.vGet i r

/-- Outside the gangs, memory and launches nothing has changed. -/
structure SameUnits (s t : State) : Prop where
  ctxs  : t.ctxs = s.ctxs
  vifs  : t.vifs = s.vifs
  eng   : t.eng = s.eng
  fab   : t.fab = s.fab
  prim  : t.prim = s.prim
  cycle : t.cycle = s.cycle
  aux   : t.aux = s.aux
  next  : t.nextWg = s.nextWg

/-- A gang's registers but for v registers and latches are as before, and so are its parks and trap state. -/
structure SameControls (g h : Gang) : Prop where
  system : SameSystem g h
  p      : h.p = g.p
  k      : h.k = g.k
  d      : h.d = g.d
  fpctl  : h.fpctl = g.fpctl

/-- The other gangs keep registers and threads; waits of theirs may have become ready. -/
def OthersKeep (w g : Nat) (s t : State) : Prop :=
  ∀ v h, ¬(v = w ∧ h = g) → SameRegisters (s.gang v h) (t.gang v h) ∧ (t.gang v h).thr = (s.gang v h).thr

/-- A park has ended and its threads go on at the next word; every other thread and park is as before (R17, R18). -/
structure GoesOn (p : Park) (g h : Gang) : Prop where
  threads : ∀ i, i < 32 → h.thread i = if p.lanes.getLsbD i then { g.thread i with st := .exec, pc := p.pc + 8 } else g.thread i
  parks   : h.parks = g.parks.filter (fun q => q.id != p.id)

/-- A park has ended and its lanes stand again at their word, as one split that replays the unfinished lanes (R18, R72). -/
structure Replays (p : Park) (g h : Gang) : Prop where
  threads : ∀ i, i < 32 → h.thread i = if p.lanes.getLsbD i then { g.thread i with st := .exec, pc := p.pc } else g.thread i
  parks   : h.parks = g.parks.filter (fun q => q.id != p.id)
  split   : ∃ q ∈ h.splits, q.lanes = p.lanes ∧ q.replay = some p.todo
  v       : h.v = g.v
  p'      : h.p = g.p
  k       : h.k = g.k
  d       : h.d = g.d

/-- A workgroup runs on a core with gangs at their first instruction (R14, R16, R322): every thread at the entry address, the
record of the argument block in d0, the initial values in v1 to v4. -/
structure Begun (s t : State) (w l ord core : Nat) : Prop where
  runs    : (t.wg w).status = .running ∧ (t.wg w).launch = l ∧ (t.wg w).ord = ord ∧ (t.wg w).core = core
  threads : ∀ g i, g < hdrExt (s.launch l).hdr 1 → i < hdrExt (s.launch l).hdr 0 →
    (t.gang w g).thread i = { st := .exec, pc := word (hdrEntry (s.launch l).hdr), rstack := [], refused := 0 }
  block   : ∀ g, g < hdrExt (s.launch l).hdr 1 → (t.gang w g).dGet 0 = argRecord (s.launch l).hdr
  values  : ∀ g i k x, g < hdrExt (s.launch l).hdr 1 → i < 32 → k < 4 → (s.launch l).initV[k]? = some x →
    (t.gang w g).vGet i (1 + k) = x

/-- A walk of page tables for an address comes to the table of level k, and these permissions are left: read, write, fetch (R69,
R70). rd: what a table read gives. -/
inductive TableAt (rd : Nat → Nat → Prop) (root va : Nat) : Nat → Nat → Bool → Bool → Bool → Prop where
  | top : TableAt rd root va 1 root true true true
  | down (k t e : Nat) (r w x : Bool) : TableAt rd root va k t r w x → k < 5 → rd (t + va / 2 ^ (57 - 9 * k) % 512 * 8) e →
      e % 2 = 1 → entReserved e = false → e / 64 % 2 = 0 →
      TableAt rd root va (k + 1) (e / 2 ^ 12 % 2 ^ 44 * 2 ^ 12) (r && e.testBit 3) (w && e.testBit 4) (x && e.testBit 5)

/-- The issuing split has parked at its word with some unfinished lanes (R17, R72). -/
structure ParkedAt (c : Issue) (todo : Mask) (q : Park) (g h : Gang) : Prop where
  parks   : h.parks = g.parks ++ [q]
  lanes   : q.lanes = c.lanes
  todo    : q.todo = todo
  act     : q.act = c.act
  pc      : q.pc = c.pc
  threads : ∀ i, i < 32 → h.thread i = if c.lanes.getLsbD i then { g.thread i with st := .parked, pc := c.pc } else g.thread i

/-- The instance of a scope code that contains a lane (R81). -/
def State.instAt (s : State) (w g i scope : Nat) : Inst := (s.chain w g i).getD scope (.lane w g i)

/-- No active lane raises a flag whose enable bit is 1 (R46). -/
def Quiet (c : Issue) (s : State) (out : Nat → LaneOut) : Prop := ∀ i, c.on i → (c.g s).enabled (out i).flags = 0

end Sys2Proof.Machine
end

