-- ==== Sys2Proof/Certificates/Slice0/Obligations.lean ====
section
/-! DEFINITION. The statements about the model. Every statement about a word holds in any state in which the word is in issue: see
Ready, LaneDone and the frames of Sys2Proof/Safety.lean. -/

open Sys2Proof Sys2Proof.Machine

/-! ## Words used below -/

/-- An operand read in the word's type: two's complement for .s64, unsigned for .n64 and .b64 (R155). -/
def readT (c : Issue) (x : Word) : Int := if c.ty = 7 then x.toInt else x.toNat

/-- An exact result delivered in the word's type: Sat when SAT = 1, else modulo 2^64 (R155). -/
def deliverT (c : Issue) (x : Int) : Word :=
  if c.sat then
    (if c.ty = 7 then BitVec.ofInt 64 (max (-2 ^ 63) (min (2 ^ 63 - 1) x)) else BitVec.ofInt 64 (max 0 (min (2 ^ 64 - 1) x)))
  else BitVec.ofInt 64 x

/-- The control registers with bits that software writes (R152). -/
def cregsRW : List Nat := [0x10, 0x11, 0x12, 0x20, 0x21, 0x22, 0x23, 0x24, 0x30, 0x32]

/-- The lanes that contribute to a cross-lane word in issue: the active ones, in the member form those of kN, which all stand in the
issuing split (R209, R210). -/
def Contributes (c : Issue) (s : State) (m : Mask) : Prop :=
  (c.w.xa % 2 = 0 ∧ m = c.act) ∨
  (c.w.xa % 2 = 1 ∧ (c.g s).kGet (c.w.sc.toNat % 8) &&& ~~~c.lanes = 0#32 ∧ m = c.act &&& (c.lanes &&& (c.g s).kGet (c.w.sc.toNat % 8)))

/-- What an atomic word reaches before it performs (R165, R177): through a record, or a scratch address with an offset. -/
def AtomPlan (c : Issue) (s s1 : State) (p : Plan) : Prop :=
  let g := c.g s
  let n := esize c.w.type
  let s0 := c.warn (c.f.warns c.op c.w) s
  let lvl := c.w.sc.toNat / 64
  (lvl = 0 ∧
    (let d := g.dGet (c.w.sc.toNat % 16)
     let ls := recLanes c.act (c.srcA g)
     s.recTrap c.wg d .atomic n c.act ls = none ∧ c.planRecord d .atomic n ls (c.release s0) = (p, s1))) ∨
  (lvl ≠ 0 ∧
    (let l := (lanesOf c.act).map (fun i => (i, scratchAdv lvl (c.srcA g i).toNat (c.w.sc.toNat % 64 * n)))
     (s.scrBad c.wg lvl n l).1 = 0#32 ∧ p = s.planScratch c.wg lvl n l ∧
       s1 = c.release (if s.scrVoid c.wg lvl n l then c.warn wBOUND s0 else s0)))

/-- Two sub-elements that may be absent, combined, with the flags raised (R214). -/
def combine (comb : Nat → Nat → Rounded) (p q : Option Nat × Nat) : Option Nat × Nat :=
  match p.1, q.1 with
  | none, _ => (q.1, Nat.lor p.2 q.2)
  | _, none => (p.1, Nat.lor p.2 q.2)
  | some a, some b => (some (comb a b).bits, Nat.lor (Nat.lor p.2 q.2) (comb a b).flags)

/-- The tree of RED over the 2^s lanes from l on: the lower half combined with the upper half (R214). -/
def redTree (comb : Nat → Nat → Rounded) (x : Nat → Option Nat × Nat) : Nat → Nat → Option Nat × Nat
  | 0, l => x l
  | s + 1, l => combine comb (redTree comb x s l) (redTree comb x s (l + 2 ^ s))

/-- The object of a word in a region, aligned to 16 bytes (R185). -/
def ObjectAt (c : Issue) (s : State) (x : Nat) : Prop :=
  let lvl := c.w.xb / 128 + 1
  let a := scratchAdv lvl (c.srcA (c.g s) c.low).toNat (c.w.xb % 128 * 16)
  s.scratchAt c.wg lvl a 16 = .loc x ∧ a.1 % 2 ^ offBits lvl % 16 = 0

/-- The bytes of the entry of a context's ring that the device writes after j more: at base + (head mod N) × size (R319). -/
def ringLocs (s : State) (key : Nat) (r : Ring) (j : Nat) : List Nat :=
  locs (locHbm (s.pinned key r.base ((s.creg key r.base).toNat / 2 ^ r.lo % 2 ^ (56 - r.lo) * 2 ^ r.lo +
    ((s.creg key (r.base + 1)).toNat + j) % r.n * r.size))) r.size

/-- A context's ring is enabled and takes n more entries: it is full when head − tail = N (R319). -/
def RingTakes (s : State) (key : Nat) (r : Ring) (n : Nat) : Prop :=
  (s.creg key r.base).toNat % 2 = 1 ∧
  ∀ j, j < n → ((s.creg key (r.base + 1)).toNat + j + 2 ^ 32 - (s.creg key (r.base + 2)).toNat % 2 ^ 32) % 2 ^ 32 ≠ r.n

/-- The bytes of the next entry of the fault queue of a stage's owner (R299, R319). -/
def faultLocs (s : State) (key : Nat) (host : Bool) : List Nat :=
  let v := vifOf key
  if host then locs (locHbm ((s.vreg v 0x205).toNat / 2 ^ 13 % 2 ^ 43 * 2 ^ 13 + (s.vreg v 0x206).toNat % 256 * 32)) 32
  else ringLocs s key fqRing 0

/-- A word has parked with the unfinished lanes of its plan: the reason, and the report that its stage's owner is to get: REASON, STG,
WR, VIF, CTX, TOKEN, the lowest stopping line, WID of the lowest unfinished lane, LAUNCH, MASK (R72, R74, R76, R299). -/
def WaitsFor (c : Issue) (s s1 t : State) (p : Plan) (wr : Bool) : Prop :=
  let key := c.key s
  let lane := (lowest p.todo).getD 0
  let n := s1.sched.nextReport
  let reported := fun (q : Park) (host : Bool) (reason line : Nat) =>
    q.why = .fault (BitVec.ofNat 8 reason) host wr (word line) n ∧
    ∃ r ∈ t.sched.reports, r.num = n ∧ r.wg = c.wg ∧ r.gang = c.gang ∧ r.park = q.id ∧ r.vif = vifOf key ∧
      r.queue = (if host then .host (vifOf key) else .guest key) ∧
      r.bytes.toNat = reason * 2 ^ 56 + (if host then 2 ^ 55 else 0) + (if wr then 2 ^ 54 else 0) + vifOf key * 2 ^ 48 +
        key % 1024 * 2 ^ 38 + r.token.toNat + line % 2 ^ 57 * 2 ^ 64 + (s.wid c.wg c.gang lane).toNat * 2 ^ 128 +
        ((s.launch (s.wg c.wg).launch).id.toNat * 2 ^ 32 + p.todo.toNat) * 2 ^ 192 ∧
      (host = false → RingTakes s1 key fqRing 1 → s1.sched.outstanding (vifOf key) < 256 → r.written = true ∧
        leNat (t.ms.latest (ringLocs s1 key fqRing 0)) = r.bytes.toNat)
  ∃ q, ParkedAt c p.todo q (c.g s) (c.g t) ∧
    ∀ line st, p.stop = some (line, st) → match st with
      | .fault host => reported q host 1 line
      | .discard host => reported q host 2 line ∧ q.lines = p.disc
      | .dirty gpa => q.why = .dirtyFull (word gpa)
      | .corrupt => False

/-- The number that a finite floating value is. -/
def fvNum (v : FV) : ℚ :=
  match v with
  | .fin s m e => (if s then -1 else 1) * (m : ℚ) * (2 : ℚ) ^ e
  | .inf _ | .nan .. => 0

/-- A value is a finite number. -/
def FvFin (v : FV) : Prop := ∃ s m e, v = .fin s m e

/-! ## Encoding -/

/-- Words written out from the encoding tables: `add.s64 v4, v2, v5`, a guarded `add`, `trap 42`, `tret`, `cas`, `flow`, `csrd`,
`vtbl`, and opcode 0xFF, which is no instruction. -/
def Obligations.DecodeWords : Prop :=
  decodeNat 0x088010081400E000 = .ok (.add ⟨false, 0, false, false, 4, 2, 5, 0, 0xE000⟩) ∧
  decodeNat 0x489E02003000E008 = .ok (.add ⟨true, 3, true, true, 0, 0x80, 0x0C, 0, 0xE008⟩) ∧
  decodeNat 0x7C0800000000002A = .ok (.trap ⟨true, 1, false, false, 0, 0, 0, 0, 42⟩) ∧
  decodeNat 0x3C80000000000000 = .ok (.tret ⟨false, 0, false, false, 0, 0, 0, 0, 0⟩) ∧
  decodeNat 0x2A40140019016500 = .ok (.cas ⟨false, 0, false, false, 5, 0, 6, 0x40, 0x16500⟩) ∧
  decodeNat 0x34C0040020240001 = .ok (.flow ⟨false, 0, false, false, 1, 0, 8, 9, 1⟩) ∧
  decodeNat 0x44C1E00000000033 = .ok (.csrd ⟨true, 0, false, false, 0x78, 0, 0, 0, 0x33⟩) ∧
  decodeNat 0x14C020080C100002 = .ok (.vtbl ⟨false, 0, false, false, 8, 2, 3, 4, 2⟩) ∧
  decodeNat 0x3FC0000000000000 = .error .opcode

/-- Every well-formed instruction that has a word is read back from that word, with every operand at every value (R116, R125). -/
def Obligations.DecodeEncode : Prop :=
  ∀ i : Instr, i.wellFormed = true → i.hasWord = true → decode (encode i) = .ok i

/-- A word that decodes is the word of its instruction, which is well-formed: no bit of a word is dropped (R116, R124, R125). -/
def Obligations.EncodeDecode : Prop :=
  ∀ (x : Word) (i : Instr), decode x = .ok i → i.wellFormed = true ∧ i.hasWord = true ∧ encode i = x

/-! ## Steps and reset -/

/-- A step on a turn of an issue slot runs the decoded instruction: the gang that the slot picks begins or goes on with its run
(before a run, its JOINs and member forms that are ready go on and a user interrupt for it is delivered), the word at the address
of its split is fetched, and when it decodes to an instruction, the step is that instruction's exec, with the model's record of
which gang issues; then at least one cycle passes. While accesses of earlier words wait in the gang's Q(t) (R83), a word that is
not a load, a store, an atomic or a PULL performs after those that it waits for (R85). A vector word waits while the power manager
withholds vector issue (R331). A word on a page that both stages map executable is eight bytes of the launch's code image, lowest
byte first (R3, R4). That words are taken from the agenda is the model's choice (assumption 48), and which words leave accesses in
Q(t) is its reading (assumption 4). -/
def Obligations.StepRunsWord : Prop :=
  (∀ (s : State) (slot w g : Nat) (rest : List Move) (x : Split) (n : Nat) (u : State) (i : Instr),
    let s0 : State := { s with aux := { s.aux with agenda := rest } }
    let s1 := (s0.beforeRun w g).startRun w g
    let pc := (s1.gang w g).splitPc x
    let t : State := { u with aux := { u.aux with
      cur := some { wg := w, gang := g, split := x.id, pc := pc, replay := x.redo, org := x.org } } }
    let j := u.resolve w g i
    s0.slotPick slot = some (w, g) → (s1.gang w g).turn = some x → s1.fetch w pc.toNat = (.word n, u) → decodeNat n = .ok i →
    (s.aux.agenda = .issue slot :: rest →
      (s.prim.throttle < 2 ∨ isVector j = false → step s = finish 1 (t.runInstr w g j false)) ∧
      (2 ≤ s.prim.throttle → isVector j = true → step s = finish 1 (.next s0))) ∧
    (s.aux.agenda = .issueLate slot :: rest → s.prim.throttle < 2 ∨ isVector j = false →
      step s = finish 1 (t.runInstr w g j true))) ∧
  (∀ (t : State) (w g : Nat) (j : Instr) (late : Bool),
    ((∀ v h, (t.gang v h).queue = []) → t.runInstr w g j false = exec j t) ∧
    (defers j = false → t.runInstr w g j late = exec j (t.ready w g ((t.aux.cur.map t.splitLanes).getD 0#32) j))) ∧
  (∀ (s t : State) (w va pa e : Nat),
    s.translate (s.ctxKey w) va { rd := false, wr := false, ex := true } = (.ok pa e none, t) →
    ∃ n, s.fetch w va = (.word n, t) ∧
      ∀ j, j < 8 → n / 256 ^ j % 256 = (Memory.read (t.launch (t.wg w).launch).img (locAdd (locHbm pa) j)).toNat)

/-- No step stops: every state has a next state. Between steps no word is in issue, and no die is held that has no cycles of its
hold left (R295, R331). -/
def Obligations.StepGoes : Prop :=
  (∀ s : State, ∃ t, step s = .next t) ∧
  (∀ s t : State, step s = .next t → t.aux.cur = none ∧ ∀ e ∈ t.prim.droop, e.2 ≠ 0)

/-- Every step keeps memory and code image in canonical form, so equal memories are equal data. -/
def Obligations.StepKeepsMemory : Prop :=
  ∀ s t : State, s.Inv → step s = .next t → t.Inv

/-- After package reset the memory is in canonical form. After package reset: no workgroup, launch or context exists, every launch
queue and pending queue is empty, no byte of memory is listed, cycle reads 0, and every port has the reset values of zpcfg and
zpstat (R152, R250). At the first instruction of a gang of a launch without initial registers: every v register is 0, p0 reads 1
and p1 to p7 read 0, k0 to k7 hold the lanes below E0, d0 is a read-only record of byte elements over the argument block, d1 to
d15 are 0, the latches and the trap bank are 0 (R16); the threads below E0 are in EXEC at ENTRY as one split (R14, R17, R18). That
nothing runs and that memory reads 0 after package reset is the model's choice (assumptions 1 and 6), and so is what d0 holds for
an address of 57 bits (assumption 87). -/
def Obligations.ResetState : Prop :=
  (State.reset.Inv) ∧
  ((∀ w, (State.reset.wg w).status = .absent) ∧ (∀ k, (State.reset.ctx k).present = false) ∧
  State.reset.sched.launches = [] ∧ (∀ v p, Tab.get (State.reset.vif v).queues p = []) ∧
  (∀ k, Tab.get State.reset.sched.pending k = []) ∧
  (∀ x, Memory.read State.reset.ms.mem x = 0#8) ∧ State.reset.cycle = 0 ∧
  ∀ p, p < 16 → (State.reset.port p).cfg = 0x0000041000000001#64 ∧ (State.reset.port p).stat = 0x0000FFFFFFFF0000#64) ∧
  (∀ x : Launch, x.initV = [] → hdrExt x.hdr 0 ≤ 32 →
    (∀ i r, (newGang x).vGet i r = 0#64) ∧ (∀ i n, n < 8 → (newGang x).pGet i n = (n == 0)) ∧
    (∀ k i, k < 8 → i < 32 → ((newGang x).kGet k).getLsbD i = decide (i < hdrExt x.hdr 0)) ∧
    (let d := (newGang x).dGet 0
     recKind d = 1 ∧ recBase d = hdrArgs x.hdr % 2 ^ 56 ∧ recEfmt d = 0 ∧ recExtent d = hdrArglen x.hdr ∧
     recR d = true ∧ recW d = false ∧ recA d = false ∧ recSwz d = 0) ∧
    (∀ n, 1 ≤ n → (newGang x).dGet n = 0#256) ∧ (∀ i j, (newGang x).bGet i j = 0#64) ∧
    (newGang x).bankV = [] ∧ (newGang x).bankP = [] ∧
    (∀ i, i < hdrExt x.hdr 0 → ((newGang x).thread i).st = .exec ∧ ((newGang x).thread i).pc = word (hdrEntry x.hdr)) ∧
    (∀ i, hdrExt x.hdr 0 ≤ i → ((newGang x).thread i).st = .exited) ∧ (newGang x).splits.length = 1)

/-! ## Traps -/

/-- A word that is not an instruction traps precisely with ILLEGAL_INSN, tinfo the number of the failing check, every lane of the
issuing split in the faulting mask, at the word's own address (R124); it performs nothing else. So does a word in issue with an
illegal field (check 2), and one that names a v register at or beyond the thread's count with REG_RANGE and the lowest such number
(R15, check 4). An instruction's own check traps its active lanes with ILLEGAL_INSN, tinfo 6: the counts of MTAIL and BINIT (R185,
R226), an object that is not aligned (R185), the shape of TMOV (R176), the vector of UINT and the gang of UIWAIT (R278, R279), the
format of an MX atomic (R180), the addresses of LAUNCH and PULL (R276, R284). That words are taken from the agenda is the model's
choice (assumption 48). -/
def Obligations.WordChecks : Prop :=
  (∀ (s : State) (slot w g : Nat) (rest : List Move) (x : Split) (n : Nat) (u : State) (e : Reject),
    let s0 : State := { s with aux := { s.aux with agenda := rest } }
    let s1 := (s0.beforeRun w g).startRun w g
    let pc := (s1.gang w g).splitPc x
    s.aux.agenda = .issue slot :: rest → s0.slotPick slot = some (w, g) → (s1.gang w g).turn = some x →
    s1.fetch w pc.toNat = (.word n, u) → decodeNat n = .error e →
    step s = .next (((u.takeTrap w g x.id (u.gang w g).run 0x01 x.lanes (word e.number) pc).settleGang w g).tick 1)) ∧
  (∀ (i : Instr) (op : Nat) (w : FullWord) (s : State) (c : Issue) (f : Form),
    let traps := fun (cause tinfo : Nat) => ∃ t, exec i s = .next t ∧ OnlyGang c.wg c.gang s t ∧
      Trapped c cause c.lanes (word tinfo) c.pc (c.g s) (c.g t)
    let count := hdrRegs (s.hdr c.wg)
    i.word = some (op, w) → s.issue op w = some c → form op w = some f → CanTrap c s →
      (f.illegal w = true → traps 0x01 2) ∧
      (f.illegal w = false → ∀ r ∈ f.regs w, count ≤ r → (∀ q ∈ f.regs w, count ≤ q → r ≤ q) → traps 0x02 r)) ∧
  (∀ (w : FullWord) (s : State) (c : Issue),
    let g := c.g s
    let traps := fun (o : Host.Outcome State Fault Refusal) => ∃ t, o = .next t ∧ OnlyGang c.wg c.gang s t ∧
      Trapped c 0x01 c.act 6 c.pc g (c.g t)
    let b := (c.srcB g 64 c.low).toNat
    let lvl := w.xb / 128 + 1
    let obj := scratchAdv lvl (c.srcA g c.low).toNat (w.xb % 128 * 16)
    let skew := s.scratchAt c.wg lvl obj 16 ≠ .bad ∧ obj.1 % 2 ^ offBits lvl % 16 ≠ 0
    let tile := tileOf ((List.range 4).map (fun j => g.vGet c.low (w.sa.toNat + j)))
    let d := g.dGet (w.sc.toNat % 16)
    let a := (c.srcA g c.low).toNat
    let at' : RecLane := { lane := c.low, idx := a, row := idxRow a, el := idxEl a }
    CanTrap c s →
      (Ready 0xD1 w s c → b = 0 ∨ 64 < b → traps (exec (.mtail w) s)) ∧
      (Ready 0xC4 w s c → skew ∨ (s.scratchAt c.wg lvl obj 16 ≠ .bad ∧ (b = 0 ∨ 65535 < b)) → traps (exec (.binit w) s)) ∧
      (skew → (Ready 0xC5 w s c → traps (exec (.barv w) s)) ∧ (Ready 0xC6 w s c → traps (exec (.bexp w) s)) ∧
        (Ready 0xC7 w s c → traps (exec (.bwait w) s)) ∧ (Ready 0xC8 w s c → traps (exec (.btry w) s))) ∧
      (Ready 0xA7 w s c → tile.dlvl = 0 ∨ tile.slvl = 0 ∨ (tile.dlvl = 3 ∧ tile.slvl = 3) ∨ 2 ^ 20 < tile.rows * tile.bytes ∨
        tile.dpitch % 8 ≠ 0 ∨ tile.spitch % 8 ≠ 0 ∨ tile.dst % 2 ^ offBits tile.dlvl % 8 ≠ 0 ∨
        tile.src % 2 ^ offBits tile.slvl % 8 ≠ 0 ∨ (1 < tile.rows ∧ tile.dpitch < tile.bytes) → traps (exec (.tmov w) s)) ∧
      (Ready 0xE2 w s c → 64 ≤ b → traps (exec (.uint w) s)) ∧
      (Ready 0xE3 w s c → s.isHandler (c.key s) c.wg c.gang = false → traps (exec (.uiwait w) s)) ∧
      (18 ≤ w.type → recEfmt d ≠ 0x12 → recEfmt d ≠ 0x13 →
        (Ready 0xA8 w s c → traps (exec (.atom w) s)) ∧ (Ready 0xA9 w s c → traps (exec (.cas w) s))) ∧
      (Ready 0xF3 w s c → a % 64 ≠ 0 → traps (exec (.launch w) s)) ∧
      (Ready 0xE1 w s c → recPerm d .store = none → recKind d ≠ 0x10 ∨ recVirtual d at' % 64 ≠ 0 → traps (exec (.pull w) s)))

/-- Taking a trap with a handler installed, outside trap mode and diversions (R296): the four trap registers hold the recorded
address, the cause, the faulting lanes and tinfo; every non-exited thread stands in EXEC at tvec, in one split; v120 to v127 and
p4 to p7 are exchanged with the trap bank; the latches are 0; trap mode begins; k, d, fpctl and warns are as before, and so is
everything outside the gang. -/
def Obligations.TrapEntry : Prop :=
  ∀ (s : State) (w g split : Nat) (run : Option Run) (cause : Nat) (mask : Mask) (tinfo pc : Word),
    let x := s.gang w g
    x.inTrap = false → x.inUi = false → codeAddr x.tvec ≠ 0#64 →
    let t := s.takeTrap w g split run cause mask tinfo pc
    let y := t.gang w g
    OnlyGang w g s t ∧
    y.tpc = codeAddr pc ∧ y.tcause = word cause ∧ y.tmask = word mask.toNat ∧ y.tinfo = tinfo ∧ y.tvec = x.tvec ∧
    y.inTrap = true ∧ y.inUi = false ∧
    (∀ i, i < 32 → (x.thread i).st ≠ .exited → (y.thread i).st = .exec ∧ (y.thread i).pc = codeAddr x.tvec) ∧
    (∀ i, i < 32 → (x.thread i).st = .exited → y.thread i = x.thread i) ∧
    (∃ n, y.splits = [{ id := n, lanes := x.live, replay := none }]) ∧ y.parks = [] ∧ y.run = none ∧
    (∀ i r, i < 32 → r < 120 → y.vGet i r = x.vGet i r) ∧
    (∀ i j, i < 32 → j < 8 → y.vGet i (120 + j) = Tab.get x.bankV (i * 8 + j)) ∧
    (∀ i j, i < 32 → j < 8 → Tab.get y.bankV (i * 8 + j) = x.vGet i (120 + j)) ∧
    (∀ i n, i < 32 → n < 4 → y.pGet i n = x.pGet i n) ∧
    (∀ i n, i < 32 → 4 ≤ n → n < 8 → y.pGet i n = (Tab.get x.bankP i).getLsbD n ∧ (Tab.get y.bankP i).getLsbD n = x.pGet i n) ∧
    (∀ i j, y.bGet i j = 0#64) ∧ y.k = x.k ∧ y.d = x.d ∧ y.fpctl = x.fpctl ∧ y.warns = x.warns ∧ y.warnpc = x.warnpc

/-- A trap without a handler kills the workgroup with REASON 0x05, and a trap in trap mode or in a diversion with REASON 0x06
(R297). A killed workgroup is gone with its gangs, its regions read 0, and a launch that is not idempotent has failed (R32, R60).
Two execution records of 32 bytes stand next in the context's fault queue, for the kill and for the launch: REASON, CAUSE, the
launch, WID, the address, the faulting lanes and tinfo (R311, R319). Which REASON stands where both cases hold is the model's
reading (assumption 64). -/
def Obligations.KillEndsWorkgroup : Prop :=
  (∀ (s : State) (w g split : Nat) (run : Option Run) (cause : Nat) (mask : Mask) (tinfo pc : Word),
    let x := s.gang w g
    let wid := s.wid w g ((lowest mask).getD 0)
    ((x.inTrap = true ∨ x.inUi = true) →
      s.takeTrap w g split run cause mask tinfo pc = s.kill w 6 cause true wid pc mask tinfo) ∧
    (x.inTrap = false → x.inUi = false → codeAddr x.tvec = 0#64 →
      s.takeTrap w g split run cause mask tinfo pc = s.kill w 5 cause false wid pc mask tinfo)) ∧
  (∀ (s : State) (w reason cause : Nat) (nested : Bool) (wid pc : Word) (mask : Mask) (tinfo : Word),
    (s.wg w).status = .running → hdrIdem (s.hdr w) = false →
    let t := s.kill w reason cause nested wid pc mask tinfo
    (t.wg w).status = .gone ∧ (t.wg w).gangs = [] ∧ (t.wg w).chain = [] ∧ (t.wg w).moves = [] ∧ (t.wg w).acc = [] ∧
    (t.launch (s.wg w).launch).failed = true ∧
    (∀ x, inRegionOf w x = true → Memory.read t.ms.mem x = 0#8) ∧
    (let l := s.launch (s.wg w).launch
     let bytes := fun (code : Nat) => code * 2 ^ 56 + cause * 2 ^ 48 + reason * 2 ^ 40 + (if nested then 2 ^ 39 else 0) + l.id.toNat +
       wid.toNat * 2 ^ 64 + (codeAddr pc).toNat * 2 ^ 128 + (mask.toNat * 2 ^ 32 + tinfo.toNat % 2 ^ 32) * 2 ^ 192
     reason < 256 → cause < 256 → l.failed = false → (s.ctx l.ctx).present = true → RingTakes s l.ctx fqRing 2 →
     (∀ r ∈ s.sched.reports, r.written = true) →
     leNat (t.ms.latest (ringLocs s l.ctx fqRing 0)) = bytes 1 ∧ leNat (t.ms.latest (ringLocs s l.ctx fqRing 1)) = bytes 2))

/-- TRAP and BKPT retire, and then trap with the instruction's code operand in tinfo and the address of the NEXT word in tpc, the
active lanes in tmask (R282); TRET restores what trap entry saved (R283): registers and predicates exchanged back with the bank,
latches, splits, run, parks and threads, with the trapped split at tpc; a split that is sent elsewhere replays nothing. A program
whose trap handler is `tret` alone goes on where it was: from what taking a trap left, TRET leaves every v register, predicate,
latch, mask, record, split, park and thread as the trap found it, with the trapped split at the recorded address and with the
JOINs that could release gone on (R146). TRET outside trap mode traps with ILLEGAL_INSN, tinfo 6. -/
def Obligations.TrapWords : Prop :=
  (∀ w s c, Ready 0xF0 w s c → (c.g s).inTrap = false → (c.g s).inUi = false → codeAddr (c.g s).tvec ≠ 0#64 →
    ∃ t, exec (.trap w) s = .next t ∧ (c.g t).inTrap = true ∧ (c.g t).tcause = 0x16#64 ∧
      (c.g t).tinfo = word (w.modN % 2 ^ 18) ∧ (c.g t).tpc = codeAddr (c.pc + 8) ∧ (c.g t).tmask = word c.act.toNat ∧
      SameMemory s t) ∧
  (∀ w s c, Ready 0xF1 w s c → (c.g s).inTrap = false → (c.g s).inUi = false → codeAddr (c.g s).tvec ≠ 0#64 →
    ∃ t, exec (.bkpt w) s = .next t ∧ (c.g t).inTrap = true ∧ (c.g t).tcause = 0x17#64 ∧
      (c.g t).tinfo = word (w.modN % 2 ^ 18) ∧ (c.g t).tpc = codeAddr (c.pc + 8) ∧ (c.g t).tmask = word c.act.toNat ∧
      SameMemory s t) ∧
  (∀ w s c sv, Ready 0xF2 w s c → (c.g s).inTrap = true → (c.g s).saved = some sv →
    (∃ i, i < 32 ∧ ((c.g s).thread i).st ≠ .exited ∧ (Tab.get sv.st i).1 = .exec) →
    ∃ t, exec (.tret w) s = .next t ∧
      (let live := (c.g t).live
       let m := (((sv.splits.find? (fun x => x.id == sv.split)).map Split.lanes).getD 0#32) &&& live
       let moved := ∃ i, i < 32 ∧ m.getLsbD i = true ∧ (Tab.get sv.st i).2 ≠ codeAddr (c.g s).tpc
       ∃ back : List Split, (¬moved → back = sv.splits.map (fun x => { x with lanes := x.lanes &&& live, keep := if x.id = sv.split then m else x.keep })) ∧
         (moved → back = sv.splits.map (fun x => if x.id = sv.split then { id := x.id, lanes := m, replay := none, keep := m }
           else { x with lanes := x.lanes &&& live })) ∧
         (sv.run.isSome = true → (c.g t).splits = back ∧ (c.g t).last = sv.last) ∧
         ∀ i, i < 32 → ((∃ x ∈ (c.g t).splits, x.lanes.getLsbD i = true) ↔ ∃ x ∈ back, x.lanes.getLsbD i = true)) ∧
      (c.g t).inTrap = false ∧ (c.g t).saved = none ∧ (c.g t).b = sv.lat ∧
      (c.g t).run = sv.run ∧ (c.g t).parks = sv.parks.filterMap (fun p => p.only (c.g t).live) ∧
      (c.g t).k = (c.g s).k ∧ (c.g t).d = (c.g s).d ∧ (c.g t).fpctl = (c.g s).fpctl ∧
      (c.g t).tcause = (c.g s).tcause ∧ (c.g t).tpc = (c.g s).tpc ∧ (c.g t).tmask = (c.g s).tmask ∧ (c.g t).tinfo = (c.g s).tinfo ∧
      (∀ i, i < 32 → ((c.g s).thread i).st ≠ .exited → ((c.g t).thread i).st = (Tab.get sv.st i).1 ∧
        ((c.g t).thread i).pc =
          if (((sv.splits.find? (fun x => x.id == sv.split)).map Split.lanes).getD 0#32).getLsbD i then codeAddr (c.g s).tpc
          else (Tab.get sv.st i).2) ∧
      (∀ i r, i < 32 → r < 120 → (c.g t).vGet i r = (c.g s).vGet i r) ∧
      (∀ i j, i < 32 → j < 8 → (c.g t).vGet i (120 + j) = Tab.get (c.g s).bankV (i * 8 + j) ∧
        Tab.get (c.g t).bankV (i * 8 + j) = (c.g s).vGet i (120 + j)) ∧
      (∀ i n, i < 32 → n < 4 → (c.g t).pGet i n = (c.g s).pGet i n) ∧
      (∀ i n, i < 32 → 4 ≤ n → n < 8 → (c.g t).pGet i n = (Tab.get (c.g s).bankP i).getLsbD n ∧
        (Tab.get (c.g t).bankP i).getLsbD n = (c.g s).pGet i n)) ∧
  (∀ (w : FullWord) (s : State) (c : Issue) (x : Gang) (split : Nat) (run r : Option Run) (cause : Nat) (mask : Mask) (tinfo pc : Word)
      (cyc : Nat),
    let y := x.releaseJoins cyc
    let lanes := y.lanesAt split &&& x.live
    Ready 0xF2 w s c → c.g s = { x.enterTrap split run cause mask tinfo pc cyc with run := r } →
    x.inTrap = false → x.saved = none → (∃ i, i < 32 ∧ (x.thread i).st = .exec) →
    ∃ t, exec (.tret w) s = .next t ∧ (c.g t).inTrap = false ∧ (c.g t).saved = none ∧
      (∀ i r, i < 32 → r < 128 → (c.g t).vGet i r = x.vGet i r) ∧ (∀ i n, i < 32 → n < 8 → (c.g t).pGet i n = x.pGet i n) ∧
      (∀ i j, i < 32 → j < 8 → Tab.get (c.g t).bankV (i * 8 + j) = Tab.get x.bankV (i * 8 + j)) ∧
      (∀ i n, i < 32 → 4 ≤ n → n < 8 → (Tab.get (c.g t).bankP i).getLsbD n = (Tab.get x.bankP i).getLsbD n) ∧
      (c.g t).b = x.b ∧ (c.g t).k = x.k ∧ (c.g t).d = x.d ∧ (c.g t).fpctl = x.fpctl ∧ (c.g t).run = run ∧
      (c.g t).parks = x.parks.filterMap (fun p => p.only x.live) ∧
      (run.isSome = true → (∀ i, i < 32 → lanes.getLsbD i = true → (y.thread i).pc = codeAddr pc) →
        (c.g t).last = x.last ∧ (c.g t).splits = y.splits.map (fun z =>
          { z with lanes := z.lanes &&& x.live, keep := if z.id = split then lanes else z.keep })) ∧
      (∀ i, i < 32 → (c.g t).thread i = if lanes.getLsbD i then { y.thread i with pc := codeAddr pc } else y.thread i)) ∧
  (∀ w s c, Ready 0xF2 w s c → CanTrap c s → ∃ t, exec (.tret w) s = .next t ∧ OnlyGang c.wg c.gang s t ∧
    Trapped c 0x01 c.act 6 c.pc (c.g s) (c.g t))

/-! ## Integer, logic, predicates -/

/-- ADD, SUB, MUL, MAD, MULH, MIN, MAX, ABS, NEG and MOV (R156): each active lane's result; nothing else changes. ADDC and SUBB
read and write the carry predicate pC, all sources before either result (R157); DIV and REM truncate toward zero, and a zero
divisor gives all ones and sets warns.DIVZ without a trap (R158). -/
def Obligations.IntegerResults : Prop :=
  (∀ (w : FullWord) (s : State) (c : Issue),
    let a := fun i => readT c (c.srcA (c.g s) i)
    let b := fun i => readT c (c.srcB (c.g s) 64 i)
    let z := fun i => readT c (c.srcC (c.g s) 64 i)
    (Ready 0x20 w s c → ∃ t, exec (.mov w) s = .next t ∧ LaneDone c s t (fun i => .v (c.srcA (c.g s) i))) ∧
    (Ready 0x22 w s c → ∃ t, exec (.add w) s = .next t ∧ LaneDone c s t (fun i => .v (deliverT c (a i + b i)))) ∧
    (Ready 0x24 w s c → ∃ t, exec (.sub w) s = .next t ∧ LaneDone c s t (fun i => .v (deliverT c (a i - b i)))) ∧
    (Ready 0x26 w s c → ∃ t, exec (.mul w) s = .next t ∧ LaneDone c s t (fun i => .v (deliverT c (a i * b i)))) ∧
    (Ready 0x27 w s c → ∃ t, exec (.mulh w) s = .next t ∧ LaneDone c s t (fun i => .v (BitVec.ofInt 64 (a i * b i / 2 ^ 64)))) ∧
    (Ready 0x28 w s c → ∃ t, exec (.mad w) s = .next t ∧ LaneDone c s t (fun i => .v (deliverT c (a i * b i + z i)))) ∧
    (Ready 0x2B w s c → ∃ t, exec (.min w) s = .next t ∧ LaneDone c s t (fun i => .v (BitVec.ofInt 64 (min (a i) (b i))))) ∧
    (Ready 0x2B w s c → ∃ t, exec (.max w) s = .next t ∧ LaneDone c s t (fun i => .v (BitVec.ofInt 64 (max (a i) (b i))))) ∧
    (Ready 0x2C w s c → ∃ t, exec (.abs w) s = .next t ∧ LaneDone c s t (fun i => .v (deliverT c |a i|))) ∧
    (Ready 0x2C w s c → ∃ t, exec (.neg w) s = .next t ∧ LaneDone c s t (fun i => .v (deliverT c (-a i))))) ∧
  (∀ (w : FullWord) (s : State) (c : Issue),
    let a := fun i => (c.srcA (c.g s) i).toNat
    let b := fun i => (c.srcB (c.g s) 64 i).toNat
    let n := w.sc.toNat % 8
    let cin := fun i => ((c.g s).pGet i n).toNat
    let x := fun i => readT c (c.srcA (c.g s) i)
    let y := fun i => readT c (c.srcB (c.g s) 64 i)
    (Ready 0x23 w s c → ∃ t, exec (.addc w) s = .next t ∧ LaneDone c s t (fun i =>
      { val := some (BitVec.ofNat 64 (a i + b i + cin i)), pred := some (n, decide (2 ^ 64 ≤ a i + b i + cin i)) })) ∧
    (Ready 0x25 w s c → ∃ t, exec (.subb w) s = .next t ∧ LaneDone c s t (fun i =>
      { val := some (BitVec.ofInt 64 ((a i : Int) - b i - cin i)), pred := some (n, decide (a i < b i + cin i)) })) ∧
    (Ready 0x29 w s c → ∃ t, exec (.div w) s = .next t ∧ LaneDone c s t (fun i =>
      if y i = 0 then { val := some 0xFFFFFFFFFFFFFFFF#64, warns := 2 } else .v (deliverT c (Int.tdiv (x i) (y i))))) ∧
    (Ready 0x2A w s c → ∃ t, exec (.rem w) s = .next t ∧ LaneDone c s t (fun i =>
      if y i = 0 then { val := some 0xFFFFFFFFFFFFFFFF#64, warns := 2 }
      else .v (BitVec.ofInt 64 (x i - y i * Int.tdiv (x i) (y i))))))

/-- AND, OR, XOR, ANDN, NOT, the shifts by b mod 64, the rotation and the funnel shift by c mod 64 (R159). POPC, CLZ, CTZ and BREV
(R159); BFE and BFI (R160); SEL, SEXT, ZEXT and ADDR (R161); MOVI (R162). -/
def Obligations.LogicAndFields : Prop :=
  (∀ (w : FullWord) (s : State) (c : Issue),
    let a := fun i => c.srcA (c.g s) i
    let b := fun i => c.srcB (c.g s) 64 i
    let n := fun i => (c.srcBz (c.g s) i).toNat % 64
    let m := fun i => (c.srcCz (c.g s) i).toNat % 64
    let ab := fun i => (a i ++ b i : BitVec 128)
    (Ready 0x2D w s c → ∃ t, exec (.and w) s = .next t ∧ LaneDone c s t (fun i => .v (a i &&& b i))) ∧
    (Ready 0x2E w s c → ∃ t, exec (.or w) s = .next t ∧ LaneDone c s t (fun i => .v (a i ||| b i))) ∧
    (Ready 0x2F w s c → ∃ t, exec (.xor w) s = .next t ∧ LaneDone c s t (fun i => .v (a i ^^^ b i))) ∧
    (Ready 0x30 w s c → ∃ t, exec (.andn w) s = .next t ∧ LaneDone c s t (fun i => .v (a i &&& ~~~b i))) ∧
    (Ready 0x31 w s c → ∃ t, exec (.not w) s = .next t ∧ LaneDone c s t (fun i => .v (~~~a i))) ∧
    (Ready 0x32 w s c → ∃ t, exec (.shl w) s = .next t ∧ LaneDone c s t (fun i => .v (a i <<< n i))) ∧
    (Ready 0x33 w s c → ∃ t, exec (.shr w) s = .next t ∧ LaneDone c s t (fun i => .v (a i >>> n i))) ∧
    (Ready 0x34 w s c → ∃ t, exec (.sar w) s = .next t ∧ LaneDone c s t (fun i => .v ((a i).sshiftRight (n i)))) ∧
    (Ready 0x35 w s c → ∃ t, exec (.rot w) s = .next t ∧ LaneDone c s t (fun i => .v ((a i).rotateLeft (n i)))) ∧
    (Ready 0x36 w s c → ∃ t, exec (.fshf w) s = .next t ∧ LaneDone c s t (fun i =>
      .v (if w.xa = 1 then ((ab i) <<< m i).extractLsb' 64 64 else ((ab i) >>> m i).setWidth 64)))) ∧
  (∀ (w : FullWord) (s : State) (c : Issue),
    let a := fun i => c.srcA (c.g s) i
    let b := fun i => c.srcB (c.g s) 64 i
    let z := fun i => c.srcC (c.g s) 64 i
    let ones := fun (x : Word) => (List.range 64).filter (fun j => x.getLsbD j)
    let len := fun (p l : Nat) => if p < 64 then min l (64 - p) else 0
    (Ready 0x37 w s c → ∃ t, exec (.popc w) s = .next t ∧ LaneDone c s t (fun i => .v (word (ones (a i)).length))) ∧
    (Ready 0x37 w s c → ∃ t, exec (.clz w) s = .next t ∧ LaneDone c s t (fun i =>
      .v (word (match (ones (a i)).getLast? with | some j => 63 - j | none => 64)))) ∧
    (Ready 0x37 w s c → ∃ t, exec (.ctz w) s = .next t ∧ LaneDone c s t (fun i =>
      .v (word (match (ones (a i)).head? with | some j => j | none => 64)))) ∧
    (Ready 0x37 w s c → ∃ t, exec (.brev w) s = .next t ∧ LaneDone c s t (fun i => .v (a i).reverse)) ∧
    (Ready 0x38 w s c → ∃ t, exec (.bfe w) s = .next t ∧ LaneDone c s t (fun i =>
      let p := (c.srcBz (c.g s) i).toNat % 256
      let l := len p ((c.srcCz (c.g s) i).toNat % 256)
      let f := (a i).extractLsb' p l
      .v (if l = 0 then 0 else if c.ty = 7 then f.signExtend 64 else f.setWidth 64))) ∧
    (Ready 0x39 w s c → ∃ t, exec (.bfi w) s = .next t ∧ LaneDone c s t (fun i =>
      let p := (b i).toNat % 256
      let l := len p ((b i).toNat / 256 % 256)
      let m : Word := BitVec.ofNat 64 ((2 ^ l - 1) * 2 ^ p)
      .v (if l = 0 then z i else (z i &&& ~~~m) ||| ((a i <<< p) &&& m)))) ∧
    (Ready 0x3A w s c → ∃ t, exec (.sel w) s = .next t ∧ LaneDone c s t (fun i =>
      .v (if (c.g s).pGet i (w.sc.toNat % 8) ^^ (w.xa % 2 == 1) then a i else b i))) ∧
    (Ready 0x3B w s c → ∃ t, exec (.sext w) s = .next t ∧ LaneDone c s t (fun i =>
      .v (((a i).setWidth (ewidth c.ty)).signExtend 64))) ∧
    (Ready 0x3B w s c → ∃ t, exec (.zext w) s = .next t ∧ LaneDone c s t (fun i =>
      .v (((a i).setWidth (ewidth c.ty)).setWidth 64))) ∧
    (Ready 0x3C w s c → ∃ t, exec (.addr w) s = .next t ∧ LaneDone c s t (fun i => .v (a i + (b i <<< w.xa) + z i))) ∧
    (Ready 0x21 w s c → ∃ t, exec (.movi w) s = .next t ∧ LaneDone c s t (fun i =>
      .v (match w.m2 with
        | 0 => w.imm32.signExtend 64
        | 1 => w.imm32.setWidth 64
        | _ => (w.imm32 ++ (if w.nw then 0 else ((c.g s).vGet i w.dst.toNat).setWidth 32) : BitVec 64)))))

/-- CMP, PLOP and PMOV (R148 to R150). CSRD reads the control register in each active lane; CSWR, CSOR and CSANDN write its RW
bits lane by lane in ascending order, and no other control register (R151, R152). -/
def Obligations.PredicatesAndControls : Prop :=
  (∀ (w : FullWord) (s : State) (c : Issue),
    let n := w.dst.toNat % 8
    let x := fun i => readIn c.ty (c.srcA (c.g s) i).toNat
    let y := fun i => readIn c.ty (c.srcB (c.g s) 64 i).toNat
    let test := fun i => match w.sop with
      | 0 => decide (x i = y i)
      | 1 => decide (x i ≠ y i)
      | 2 => decide (x i < y i)
      | 3 => decide (x i ≤ y i)
      | 4 => decide (y i < x i)
      | _ => decide (y i ≤ x i)
    let p := fun i (f : BitVec 8) => (c.g s).pGet i (f.toNat % 8)
    (Ready 0x10 w s c → ∃ t, exec (.cmp w) s = .next t ∧ LaneDone c s t (fun i => .p n (match w.xa with
      | 0 => test i
      | 1 => (c.g s).pGet i n && test i
      | 2 => (c.g s).pGet i n || test i
      | _ => (c.g s).pGet i n ^^ test i))) ∧
    (Ready 0x11 w s c → ∃ t, exec (.plop w) s = .next t ∧ LaneDone c s t (fun i => .p n (match w.sop with
      | 0 => p i w.sa && p i w.sb
      | 1 => p i w.sa || p i w.sb
      | 2 => p i w.sa ^^ p i w.sb
      | 3 => p i w.sa && !p i w.sb
      | 4 => !(p i w.sa && p i w.sb)
      | 5 => !(p i w.sa || p i w.sb)
      | _ => p i w.sa == p i w.sb))) ∧
    (Ready 0x12 w s c → ∃ t, exec (.pmov w) s = .next t ∧ LaneDone c s t (fun i => .p n (p i w.sa))) ∧
    (Ready 0x12 w s c → ∃ t, exec (.pmovNz w) s = .next t ∧ LaneDone c s t (fun i => .p n (c.srcA (c.g s) i != 0#64))) ∧
    (Ready 0x12 w s c → ∃ t, exec (.pmovSave w) s = .next t ∧ ∃ x : Nat → Word, LaneDone c s t (fun i => .v (x i)) ∧
      ∀ i j, j < 64 → (x i).getLsbD j = (decide (j < 8) && (c.g s).pGet i j)) ∧
    (Ready 0x12 w s c → ∃ t, exec (.pmovLoad w) s = .next t ∧ OnlyGang c.wg c.gang s t ∧ SameSystem (c.g s) (c.g t) ∧
      SameValues (c.g s) (c.g t) ∧ (c.g t).k = (c.g s).k ∧ (c.g t).d = (c.g s).d ∧ (c.g t).fpctl = (c.g s).fpctl ∧
      Warned c (c.f.warns c.op w) 0 (c.g s) (c.g t) ∧ NextWord c (c.g s) (c.g t) ∧
      ∀ i j, i < 32 → j < 8 → (c.g t).pGet i j =
        if c.act.getLsbD i then j == 0 || (c.srcA (c.g s) i).getLsbD j else (c.g s).pGet i j)) ∧
  (∀ (w : FullWord) (s : State) (c : Issue), c.f.warns c.op w = 0 →
    let a := fun i => c.srcA (c.g s) i
    let m := cregMask c.creg
    let written := fun (o : Host.Outcome State Fault Refusal) (f : Word → Word → Word) => ∃ t, o = .next t ∧
      (∀ i, i < 32 → c.cregRead t i =
        (lanesOf c.act).foldl (fun x j => (f x (a j) &&& m) ||| (x &&& ~~~m)) (c.cregRead s i)) ∧
      (∀ n v, n ∈ cregsRW → n ≠ c.creg → ({ c with w := v } : Issue).creg = n →
        ({ c with w := v } : Issue).cregRead t 0 = ({ c with w := v } : Issue).cregRead s 0) ∧
      t.ms = s.ms ∧ SameGangs c.wg c.gang s t ∧ (∀ k, k ≠ c.key s → t.ctx k = s.ctx k) ∧
      (t.vifs, t.sched, t.eng, t.fab, t.prim, t.cycle) = (s.vifs, s.sched, s.eng, s.fab, s.prim, s.cycle) ∧
      SameValues (c.g s) (c.g t) ∧ (c.g t).p = (c.g s).p ∧ (c.g t).k = (c.g s).k ∧ (c.g t).d = (c.g s).d ∧
      (c.g t).saved = (c.g s).saved ∧ (c.g t).parks = (c.g s).parks ∧ (c.g t).bankV = (c.g s).bankV ∧
      (c.g t).bankP = (c.g s).bankP ∧ (c.g t).inTrap = (c.g s).inTrap ∧ (c.g t).inUi = (c.g s).inUi ∧
      NextWord c (c.g s) (c.g t)
    (Ready 0x13 w s c → ∃ t, exec (.csrd w) s = .next t ∧ LaneDone c s t (fun i => .v (c.cregRead s i))) ∧
    (Ready 0x14 w s c → c.creg ∈ cregsRW → written (exec (.cswr w) s) (fun _ x => x)) ∧
    (Ready 0x15 w s c → c.creg ∈ cregsRW → written (exec (.csor w) s) (fun old x => old ||| x)) ∧
    (Ready 0x16 w s c → c.creg ∈ cregsRW → written (exec (.csandn w) s) (fun old x => old &&& ~~~x)))

/-! ## Control flow -/

/-- KOP and KRD (R146, R147): the mask written, exited lanes cleared; nothing else changes. EXIT ends the active threads, which
leave every rejoin mask; in trap mode it ends every thread of the gang and trap mode (R143). JOIN parks the active lanes of kN and
lets the others pass (R145), also when then every thread waits and one of the JOINs can release; when none of them can, the gang
traps with JOIN_DEADLOCK (R20); JOIN_RELEASE lets every thread that waits there go on, once every lane of kN waits or has exited
(R20). -/
def Obligations.MasksAndJoins : Prop :=
  (∀ (w : FullWord) (s : State) (c : Issue),
    let g := c.g s
    let a := g.kGet (w.sb.toNat % 8)
    let done := fun (o : Host.Outcome State Fault Refusal) (m : Mask) => ∃ t, o = .next t ∧
      WordDone c s t { g with k := Tab.set g.k (w.dst.toNat % 8) (m &&& g.live) } ∧ NextWord c g (c.g t)
    (Ready 0x0B w s c → done (exec (.kopSet w) s) c.act) ∧
    (Ready 0x0B w s c → done (exec (.kopOr w) s) (a ||| c.act)) ∧
    (Ready 0x0B w s c → done (exec (.kopAnd w) s) (a &&& c.act)) ∧
    (Ready 0x0B w s c → done (exec (.kopAndn w) s) (a &&& ~~~c.act)) ∧
    (Ready 0x0B w s c → done (exec (.kopCopy w) s) a) ∧
    (Ready 0x0B w s c → done (exec (.kopLoad w) s) ((c.srcA g c.low).setWidth 32)) ∧
    (Ready 0x0C w s c → ∃ t, exec (.krd w) s = .next t ∧ LaneDone c s t (fun _ => .v ((g.kGet (w.sa.toNat % 8)).setWidth 64)))) ∧
  ((∀ (w : FullWord) (s : State) (c : Issue), Ready 0x08 w s c → (c.g s).inTrap = true →
    ∃ t, exec (.exit w) s = .next t ∧ (c.g t).inTrap = false ∧ (c.g t).saved = none ∧ (c.g t).parks = [] ∧
      (∀ i, i < 32 → ((c.g t).thread i).st = .exited) ∧ (∀ n, n < 8 → (c.g t).kGet n = (c.g s).kGet n &&& ~~~(c.g s).live) ∧
      SameValues (c.g s) (c.g t) ∧ (c.g t).p = (c.g s).p ∧ (c.g t).d = (c.g s).d ∧ SameGangs c.wg c.gang s t) ∧
  (∀ (w : FullWord) (s : State) (c : Issue) (l n : Nat) (q : Word),
    let x := c.g s
    let k := w.sa.toNat % 8
    let wait := fun (i : Nat) => if (c.act &&& x.kGet k).getLsbD i then some (k, c.pc) else match (x.thread i).st with
      | .joinWait n _ => some (n.toNat, (x.thread i).pc)
      | .exited | .exec | .parked => none
    Ready 0x0A w s c → CanTrap c s → x.parks = [] → (∀ i, i < 32 → x.live.getLsbD i = true → (wait i).isSome = true) →
    (∀ m y, (∃ i, i < 32 ∧ wait i = some (m, y)) →
      ∃ j, j < 32 ∧ (x.kGet m).getLsbD j = true ∧ x.live.getLsbD j = true ∧ wait j ≠ some (m, y)) →
    x.live.getLsbD l = true → (∀ i, i < l → x.live.getLsbD i = false) → wait l = some (n, q) →
    ∃ t, exec (.join w) s = .next t ∧ OnlyGang c.wg c.gang s t ∧ Trapped c 0x11 x.live (word n) q x (c.g t)) ∧
  (∀ (w : FullWord) (s : State) (c : Issue), Ready 0x08 w s c → (c.g s).inTrap = false →
    ((∃ i, i < 32 ∧ ¬c.on i ∧ ((c.g s).thread i).st = .exec) ∨ (∀ i, i < 32 → ((c.g s).thread i).st ≠ .exited → c.on i)) →
    ∃ t, exec (.exit w) s = .next t ∧ OnlyGang c.wg c.gang s t ∧ SameSystem (c.g s) (c.g t) ∧ SameValues (c.g s) (c.g t) ∧
      (c.g t).p = (c.g s).p ∧ (c.g t).d = (c.g s).d ∧ (∀ i, c.on i → ((c.g t).thread i).st = .exited) ∧
      (∀ i, i < 32 → ¬c.on i → (c.g t).thread i =
        if c.lanes.getLsbD i then { (c.g s).thread i with pc := c.pc + 8 } else (c.g s).thread i) ∧
      (∀ n, n < 8 → (c.g t).kGet n = (c.g s).kGet n &&& ~~~c.act)) ∧
  (∀ (w : FullWord) (s : State) (c : Issue), Ready 0x0A w s c →
    let k := w.sa.toNat % 8
    let waits := c.act &&& (c.g s).kGet k
    let wait := fun (i : Nat) => if waits.getLsbD i then some (k, c.pc) else match ((c.g s).thread i).st with
      | .joinWait n _ => some (n.toNat, ((c.g s).thread i).pc)
      | .exited | .exec | .parked => none
    ((∃ i, i < 32 ∧ waits.getLsbD i = false ∧ ((c.g s).thread i).st = .exec) ∨
      ((∀ i, i < 32 → (c.g s).live.getLsbD i = true → (wait i).isSome = true) ∧ ∃ m y, (∃ i, i < 32 ∧ wait i = some (m, y)) ∧
        ∀ j, j < 32 → ((c.g s).kGet m).getLsbD j = true → (c.g s).live.getLsbD j = true → wait j = some (m, y))) →
    ∃ t, exec (.join w) s = .next t ∧ WordDone c s t (c.g s) ∧
      ∀ i, i < 32 →
        if waits.getLsbD i then ((c.g t).thread i).st = .joinWait (BitVec.ofNat 3 k) c.split ∧ ((c.g t).thread i).pc = c.pc
        else (c.g t).thread i = if c.lanes.getLsbD i then { (c.g s).thread i with pc := c.pc + 8 } else (c.g s).thread i) ∧
  (∀ (s : State) (w g k : Nat) (pc : Word),
    let x := s.gang w g
    let m := x.lanesWhere (fun t => match t.st with
      | .joinWait n _ => n.toNat == k && t.pc == pc
      | .exited | .exec | .parked => false)
    m ≠ 0#32 → (∀ i, i < 32 → (x.kGet k).getLsbD i = true → m.getLsbD i = true ∨ (x.thread i).st = .exited) →
    (∀ q, q ≠ pc → (x.joinWaiters k q) = 0#32) →
    ∃ t, exec (.joinRelease w g k) s = .next t ∧ OnlyGang w g s t ∧ SameRegisters x (t.gang w g) ∧ SameSystem x (t.gang w g) ∧
      ∀ i, i < 32 → (t.gang w g).thread i = if m.getLsbD i then { x.thread i with st := .exec, pc := pc + 8 } else x.thread i))

/-- NOP, YIELD and LPAD do nothing but go on (R122, R137, R144); BRA and BRC send lanes to their target (R141). -/
def Obligations.Branches : Prop :=
  ∀ (w : FullWord) (s : State) (c : Issue),
    let g := c.g s
    let target := c.pc + 8 * w.imm32.signExtend 64
    (Ready 0x00 w s c → ∃ t, exec (.nop w) s = .next t ∧ WordDone c s t g ∧ NextWord c g (c.g t)) ∧
    (Ready 0x09 w s c → ∃ t, exec (.yield w) s = .next t ∧ WordDone c s t g ∧ NextWord c g (c.g t)) ∧
    (Ready 0x04 w s c → ∃ t, exec (.lpad w) s = .next t ∧ WordDone c s t g ∧ NextWord c g (c.g t)) ∧
    (Ready 0x01 w s c → ∃ t, exec (.bra w) s = .next t ∧ WordDone c s t g ∧ Branched c (fun _ => target) g (c.g t)) ∧
    (Ready 0x02 w s c → ∃ t, exec (.brc w) s = .next t ∧ WordDone c s t g ∧
      Branched c (fun i => if g.pGet i (w.dst.toNat % 8) ^^ (w.m2 % 2 == 1) then target else c.pc + 8) g (c.g t))

/-- CALL and RET push and pop the return stacks of the active lanes and send them on; a full or an empty stack traps (R142).
Control register 0x006 pushes and pops the same stacks and traps alike (R152). BRX and CALLX (R136 to R138): an index below the
table's bound takes the entry's target, whose word is the landing pad with the table's label; the inactive lanes of the split go
on at the next word; an index beyond the bound traps with TABLE_BOUND, a target whose word is no such pad with LPAD_MISMATCH, the
lanes that miss in tmask and the label in tinfo, and a CALLX whose targets are good and whose stacks are full with CALL_DEPTH. -/
def Obligations.CallsAndTables : Prop :=
  (∀ (w : FullWord) (s : State) (c : Issue),
    let g := c.g s
    let target := c.pc + 8 * w.imm32.signExtend 64
    let stack := fun i => (g.thread i).rstack
    let room := ∀ i, c.on i → (stack i).length < 32
    let some' := ∀ i, c.on i → stack i ≠ []
    let full := maskIf c.act (fun i => 32 ≤ (stack i).length)
    let empty := maskIf c.act (fun i => (stack i).isEmpty)
    let moved := fun (t : State) (dest : Nat → Word) (st : Nat → List Word) => ∀ i, i < 32 → (c.g t).thread i =
      if c.act.getLsbD i then { g.thread i with pc := dest i, rstack := st i }
      else if c.lanes.getLsbD i then { g.thread i with pc := c.pc + 8 } else g.thread i
    (Ready 0x05 w s c → room → ∃ t, exec (.call w) s = .next t ∧ WordDone c s t g ∧
      moved t (fun _ => target) (fun i => codeAddr (c.pc + 8) :: stack i)) ∧
    (Ready 0x07 w s c → some' → ∃ t, exec (.ret w) s = .next t ∧ WordDone c s t g ∧
      moved t (fun i => (stack i).headD 0) (fun i => (stack i).tail)) ∧
    (Ready 0x13 w s c → some' → ∃ t, exec (.rstackPop w) s = .next t ∧ OnlyGang c.wg c.gang s t ∧
      Results c (fun i => some ((stack i).headD 0)) g (c.g t) ∧ moved t (fun _ => c.pc + 8) (fun i => (stack i).tail)) ∧
    (Ready 0x14 w s c → room → ∃ t, exec (.rstackPush w) s = .next t ∧ WordDone c s t g ∧
      moved t (fun _ => c.pc + 8) (fun i => codeAddr (c.srcA g i) :: stack i)) ∧
    (Ready 0x05 w s c → CanTrap c s → full ≠ 0#32 → ∃ t, exec (.call w) s = .next t ∧ OnlyGang c.wg c.gang s t ∧
      Trapped c 0x14 full 32 c.pc g (c.g t)) ∧
    (Ready 0x07 w s c → CanTrap c s → empty ≠ 0#32 → ∃ t, exec (.ret w) s = .next t ∧ OnlyGang c.wg c.gang s t ∧
      Trapped c 0x15 empty 0 c.pc g (c.g t)) ∧
    (Ready 0x14 w s c → CanTrap c s → full ≠ 0#32 → ∃ t, exec (.rstackPush w) s = .next t ∧ OnlyGang c.wg c.gang s t ∧
      Trapped c 0x14 full 32 c.pc g (c.g t)) ∧
    (Ready 0x13 w s c → CanTrap c s → empty ≠ 0#32 → ∃ t, exec (.rstackPop w) s = .next t ∧ OnlyGang c.wg c.gang s t ∧
      Trapped c 0x15 empty 0 c.pc g (c.g t))) ∧
  (∀ (w : FullWord) (s s1 s2 s3 : State) (c : Issue) (h : Nat) (ents words : List Nat),
    let g := c.g s
    let table := c.pc + 8 * w.imm32.signExtend 64
    let lanes := lanesOf c.act
    let idx := fun i => (c.srcA g i).toNat
    let dest := fun (e : Nat) => table + 8 * (BitVec.ofNat 32 (e % 2 ^ 32)).signExtend 64
    let bound := if h / 2 ^ 54 = 0x0FF then h % 2 ^ 16 else 0
    let label := h / 2 ^ 32 % 2 ^ 16
    let pad := fun (x : Nat) => decide (x / 2 ^ 63 % 2 = 0 ∧ x / 2 ^ 54 % 2 ^ 8 = 0x04 ∧ x % 2 ^ 16 = label)
    let reached := (c.warn (c.f.warns c.op w) s).fetch c.wg table.toNat = (.word h, s1) ∧ h < 2 ^ 64 ∧ (∀ i, c.on i → idx i < bound) ∧
      s1.fetchAll c.wg (lanes.map (fun i => (table + 8 * word (idx i + 1)).toNat)) = ((ents, none), s2) ∧
      s2.fetchAll c.wg (ents.map (fun e => (dest e).toNat)) = ((words, none), s3) ∧ ents.length = lanes.length ∧
      words.length = lanes.length
    let found := reached ∧ ∀ x ∈ words, pad x = true
    let moved := fun (t : State) (st : Nat → List Word) => ∀ e ∈ lanes.zip ents,
      (c.g t).thread e.1 = { (g.thread e.1) with pc := dest e.2, rstack := st e.1 }
    let passed := fun (i : Nat) => if c.lanes.getLsbD i then { g.thread i with pc := c.pc + 8 } else g.thread i
    (Ready 0x03 w s c → found → ∃ t, exec (.brx w) s = .next t ∧ OnlyGang c.wg c.gang s3 t ∧ SameRegisters g (c.g t) ∧
      SameSystem g (c.g t) ∧ moved t (fun i => (g.thread i).rstack) ∧
      (∀ i, i < 32 → c.act.getLsbD i = false → (c.g t).thread i = passed i)) ∧
    (Ready 0x06 w s c → found → (∀ i, c.on i → (g.thread i).rstack.length < 32) →
      ∃ t, exec (.callx w) s = .next t ∧ OnlyGang c.wg c.gang s3 t ∧ SameRegisters g (c.g t) ∧ SameSystem g (c.g t) ∧
      moved t (fun i => codeAddr (c.pc + 8) :: (g.thread i).rstack) ∧
      (∀ i, i < 32 → c.act.getLsbD i = false → (c.g t).thread i = passed i)) ∧
    (CanTrap c s → (c.warn (c.f.warns c.op w) s).fetch c.wg table.toNat = (.word h, s1) → h < 2 ^ 64 →
      maskIf c.act (fun i => bound ≤ idx i) ≠ 0#32 →
      (let beyond := fun (o : Host.Outcome State Fault Refusal) => ∃ t, o = .next t ∧ OnlyGang c.wg c.gang s1 t ∧
        Trapped c 0x12 (maskIf c.act (fun i => bound ≤ idx i)) (word bound) c.pc g (c.g t)
       (Ready 0x03 w s c → beyond (exec (.brx w) s)) ∧ (Ready 0x06 w s c → beyond (exec (.callx w) s)))) ∧
    (Ready 0x06 w s c → CanTrap c s → found → maskIf c.act (fun i => 32 ≤ (g.thread i).rstack.length) ≠ 0#32 →
      ∃ t, exec (.callx w) s = .next t ∧ OnlyGang c.wg c.gang s3 t ∧
      Trapped c 0x14 (maskIf c.act (fun i => 32 ≤ (g.thread i).rstack.length)) 32 c.pc g (c.g t)) ∧
    (∀ m : Mask, m ≠ 0#32 → (∀ i, i < 32 → (m.getLsbD i = true ↔ ∃ x, (i, x) ∈ lanes.zip words ∧ pad x = false)) → reached →
      CanTrap c s →
      (Ready 0x03 w s c → ∃ t, exec (.brx w) s = .next t ∧ OnlyGang c.wg c.gang s3 t ∧
        Trapped c 0x13 m (word label) c.pc g (c.g t)) ∧
      (Ready 0x06 w s c → ∃ t, exec (.callx w) s = .next t ∧ OnlyGang c.wg c.gang s3 t ∧
        Trapped c 0x13 m (word label) c.pc g (c.g t))))

/-! ## Packed words -/

/-- VADD, VSUB, VMUL, VMULH, VMAD, VMIN, VMAX, VABS and VAVG: every sub-element of every active lane (R193), delivered as R191
says. VSHL, VSHR, VSAR, VCMP and VSEL (R193, R195). -/
def Obligations.PackedArithmetic : Prop :=
  (∀ (w : FullWord) (s : State) (c : Issue),
    let n := ewidth c.ty
    let a := fun i j => readIn c.ty ((c.srcA (c.g s) i).toNat / 2 ^ (n * j) % 2 ^ n)
    let b := fun i j => readIn c.ty ((c.srcB (c.g s) n i).toNat / 2 ^ (n * j) % 2 ^ n)
    let z := fun i j => readIn c.ty ((c.srcC (c.g s) n i).toNat / 2 ^ (n * j) % 2 ^ n)
    let lo : Int := if 4 ≤ c.ty ∧ c.ty < 8 then -2 ^ (n - 1) else 0
    let hi : Int := if 4 ≤ c.ty ∧ c.ty < 8 then 2 ^ (n - 1) - 1 else 2 ^ n - 1
    let low := fun (x : Int) => (x % 2 ^ n).toNat
    let give := fun (x : Int) => low (if c.sat then max lo (min hi x) else x)
    let done := fun (o : Host.Outcome State Fault Refusal) (f : Nat → Nat → Nat) => ∃ t, o = .next t ∧ LaneElements c s t n (64 / n) f
    (Ready 0x40 w s c → done (exec (.vadd w) s) (fun i j => give (a i j + b i j))) ∧
    (Ready 0x41 w s c → done (exec (.vsub w) s) (fun i j => give (a i j - b i j))) ∧
    (Ready 0x42 w s c → done (exec (.vmul w) s) (fun i j => give (a i j * b i j))) ∧
    (Ready 0x43 w s c → done (exec (.vmulh w) s) (fun i j => low (a i j * b i j / 2 ^ n))) ∧
    (Ready 0x44 w s c → done (exec (.vmad w) s) (fun i j => give (a i j * b i j + z i j))) ∧
    (Ready 0x46 w s c → done (exec (.vmin w) s) (fun i j => low (min (a i j) (b i j)))) ∧
    (Ready 0x47 w s c → done (exec (.vmax w) s) (fun i j => low (max (a i j) (b i j)))) ∧
    (Ready 0x48 w s c → done (exec (.vabs w) s) (fun i j => give |a i j|)) ∧
    (Ready 0x49 w s c → done (exec (.vavg w) s) (fun i j => low ((a i j + b i j + if w.xa % 2 = 1 then 0 else 1) / 2)))) ∧
  (∀ (w : FullWord) (s : State) (c : Issue),
    let n := ewidth c.ty
    let e := fun (x : Word) j => x.toNat / 2 ^ (n * j) % 2 ^ n
    let a := fun i j => e (c.srcA (c.g s) i) j
    let b := fun i j => e (c.srcB (c.g s) n i) j
    let k := fun i j => (if c.f.useB w = .raw then w.sb.toNat else b i j) % n
    let lo : Int := if 4 ≤ c.ty ∧ c.ty < 8 then -2 ^ (n - 1) else 0
    let hi : Int := if 4 ≤ c.ty ∧ c.ty < 8 then 2 ^ (n - 1) - 1 else 2 ^ n - 1
    let low := fun (x : Int) => (x % 2 ^ n).toNat
    let x := fun i j => readIn c.ty (a i j)
    let y := fun i j => readIn c.ty (b i j)
    let test := fun i j => match w.sop with
      | 0 => decide (x i j = y i j)
      | 1 => decide (x i j ≠ y i j)
      | 2 => decide (x i j < y i j)
      | 3 => decide (x i j ≤ y i j)
      | 4 => decide (y i j < x i j)
      | _ => decide (y i j ≤ x i j)
    let done := fun (o : Host.Outcome State Fault Refusal) (f : Nat → Nat → Nat) => ∃ t, o = .next t ∧ LaneElements c s t n (64 / n) f
    (Ready 0x4B w s c → done (exec (.vshl w) s) (fun i j =>
      let r := x i j * 2 ^ k i j
      low (if c.sat then max lo (min hi r) else r))) ∧
    (Ready 0x4C w s c → done (exec (.vshr w) s) (fun i j => a i j / 2 ^ k i j)) ∧
    (Ready 0x4D w s c → done (exec (.vsar w) s) (fun i j => low (sextN n (a i j) / 2 ^ k i j))) ∧
    (Ready 0x4E w s c → done (exec (.vcmp w) s) (fun i j => if test i j then 2 ^ n - 1 else 0)) ∧
    (Ready 0x4F w s c → ∃ t, exec (.vsel w) s = .next t ∧ LaneDone c s t (fun i =>
      .v ((c.srcA (c.g s) i &&& c.srcC (c.g s) 64 i) ||| (c.srcB (c.g s) 64 i &&& ~~~c.srcC (c.g s) 64 i)))))

/-- VDOT and VSAD (R194). VPACK and VUNPK (R196); VPERM, VTBL and VSWZ (R197). -/
def Obligations.PackedDotsAndMoves : Prop :=
  (∀ (w : FullWord) (s : State) (c : Issue),
    let n := ewidth c.ty
    let u := fun i j => (c.srcA (c.g s) i).toNat / 2 ^ (n * j) % 2 ^ n
    let v := fun i j => (c.srcB (c.g s) n i).toNat / 2 ^ (n * j) % 2 ^ n
    let z := fun i => (c.srcC (c.g s) n i).toNat
    let signed := decide (4 ≤ c.ty ∧ c.ty < 8)
    let m := if n ≤ 16 then 32 else 64
    let acc := fun i h => if signed then sextN m (z i / 2 ^ (m * h)) else ((z i / 2 ^ (m * h) % 2 ^ m : Nat) : Int)
    let dot := fun i h => ((List.range (m / n)).map (fun q =>
      readIn c.ty (u i (m / n * h + q)) *
        (if w.xa % 2 = 1 then (v i (m / n * h + q) : Int) else readIn c.ty (v i (m / n * h + q))))).sum
    let lo : Int := if signed then -2 ^ (m - 1) else 0
    let hi : Int := if signed then 2 ^ (m - 1) - 1 else 2 ^ m - 1
    (Ready 0x45 w s c → ∃ t, exec (.vdot w) s = .next t ∧ LaneElements c s t m (64 / m) (fun i h =>
      let r := acc i h + dot i h
      ((if c.sat then max lo (min hi r) else r) % 2 ^ m).toNat)) ∧
    (Ready 0x4A w s c → ∃ t, exec (.vsad w) s = .next t ∧ LaneDone c s t (fun i =>
      let r : Int := z i + ((List.range (64 / n)).map (fun j => |readIn c.ty (u i j) - readIn c.ty (v i j)|)).sum
      .v (BitVec.ofInt 64 (if c.sat then min (2 ^ 64 - 1) r else r))))) ∧
  (∀ (w : FullWord) (s : State) (c : Issue),
    let n := ewidth c.ty
    let k := 64 / n
    let a := fun i j => (c.srcA (c.g s) i).toNat / 2 ^ (n * j) % 2 ^ n
    let b := fun i j => (c.srcB (c.g s) n i).toNat / 2 ^ (n * j) % 2 ^ n
    let z := fun i j => (c.srcC (c.g s) n i).toNat / 2 ^ (n * j) % 2 ^ n
    let ab := fun i j => if j < k then a i j else b i (j - k)
    let half := fun (x : Nat) =>
      let v : Int := if w.xa % 2 = 1 ∨ (4 ≤ c.ty ∧ c.ty < 8) then sextN n x else x
      let lo : Int := if w.xa % 2 = 0 ∧ 4 ≤ c.ty ∧ c.ty < 8 then -2 ^ (n / 2 - 1) else 0
      let hi : Int := if w.xa % 2 = 0 ∧ 4 ≤ c.ty ∧ c.ty < 8 then 2 ^ (n / 2 - 1) - 1 else 2 ^ (n / 2) - 1
      ((if c.sat then max lo (min hi v) else v) % 2 ^ (n / 2)).toNat
    let byte := fun (x : Word) j => x.toNat / 2 ^ (8 * j) % 256
    let tbl := fun i m => if m < 8 then byte (c.srcA (c.g s) i) m else byte (c.srcB (c.g s) 64 i) (m - 8)
    let done := fun (o : Host.Outcome State Fault Refusal) (m : Nat) (f : Nat → Nat → Nat) =>
      ∃ t, o = .next t ∧ LaneElements c s t m (64 / m) f
    (Ready 0x50 w s c → done (exec (.vpack w) s) (n / 2) (fun i j => half (ab i j))) ∧
    (Ready 0x51 w s c → done (exec (.vunpk w) s) (2 * n) (fun i j =>
      (readIn c.ty (a i (w.xa % 2 * (k / 2) + j)) % 2 ^ (2 * n)).toNat)) ∧
    (Ready 0x52 w s c → done (exec (.vperm w) s) n (fun i j =>
      if (z i j).testBit (n - 1) then 0 else ab i (z i j % (2 * k)))) ∧
    (Ready 0x53 w s c → done (exec (.vtbl w) s) 8 (fun i j =>
      let x := byte (c.srcC (c.g s) 64 i) j
      if w.xa = 0 ∧ 128 ≤ x then 0 else tbl i (if w.xa ≤ 1 then x % 16 else x / 16))) ∧
    (Ready 0x54 w s c → done (exec (.vswz w) s) n (fun i j =>
      if n = 32 then a i (w.sb.toNat / 2 ^ j % 2)
      else if n = 16 then a i (w.sb.toNat / 4 ^ j % 4) else a i (j / 4 * 4 + w.sb.toNat / 4 ^ (j % 4) % 4))))

/-! ## Floating point -/

/-- A floating word that raises no enabled flag: each sub-element is the format's operation under the word's rounding mode, and
its flags become sticky (R43, R45, R199, R200, R203). FABS, FNEG and FCLS raise no flag: the sign bit cleared, the sign bit
inverted, the one-hot class (R200, R202). FCMP gives a mask or a predicate of sub-element 0, of all, of any (R201). That FCMP
raises the flags of every sub-element is the model's reading (assumption 68). -/
def Obligations.FloatingResults : Prop :=
  (∀ (w : FullWord) (s : State) (c : Issue),
    let g := c.g s
    let n := ewidth c.ty
    let f := fmtOf c.ty
    let m := if c.rnd = 0 then g.fpctl.toNat % 4 + 1 else c.rnd
    let z := c.ftz
    let a := fun i j => (c.srcA g i).toNat / 2 ^ (n * j) % 2 ^ n
    let b := fun i j => (c.srcB g n i).toNat / 2 ^ (n * j) % 2 ^ n
    let x := fun i j => (c.srcC g n i).toNat / 2 ^ (n * j) % 2 ^ n
    let done := fun (o : Host.Outcome State Fault Refusal) (r : Nat → Nat → Rounded) =>
      let out := fun i => outOf n (64 / n) (r i)
      Quiet c s out → ∃ t, o = .next t ∧ LaneDone c s t out
    (Ready 0x60 w s c → done (exec (.fadd w) s) (fun i j => f.add m z (a i j) (b i j))) ∧
    (Ready 0x61 w s c → done (exec (.fsub w) s) (fun i j => f.sub m z (a i j) (b i j))) ∧
    (Ready 0x62 w s c → done (exec (.fmul w) s) (fun i j => f.mul m z (a i j) (b i j))) ∧
    (Ready 0x63 w s c → done (exec (.fma w) s) (fun i j => f.fma m z (a i j) (b i j) (x i j))) ∧
    (Ready 0x64 w s c → done (exec (.fmin w) s) (fun i j => f.pick false z (a i j) (b i j))) ∧
    (Ready 0x65 w s c → done (exec (.fmax w) s) (fun i j => f.pick true z (a i j) (b i j))) ∧
    (Ready 0x6A w s c → done (exec (.frnd w) s) (fun i j => f.integral m (w.xa % 2 == 1) (a i j))) ∧
    (Ready 0x6D w s c → done (exec (.fscl w) s) (fun i j => f.scale m (a i j) (sextN n (b i j))))) ∧
  (∀ (w : FullWord) (s : State) (c : Issue),
    let g := c.g s
    let n := ewidth c.ty
    let k := 64 / n
    let f := fmtOf c.ty
    let a := fun i j => (c.srcA g i).toNat / 2 ^ (n * j) % 2 ^ n
    let b := fun i j => (c.srcB g n i).toNat / 2 ^ (n * j) % 2 ^ n
    let r := fun i j => (fcompare w.sop (f.decode (a i j)) (f.decode (b i j))).1
    let fl := fun i => orAll ((List.range k).map (fun j => (fcompare w.sop (f.decode (a i j)) (f.decode (b i j))).2))
    let signs := (List.range k).foldl (fun m j => m + 2 ^ (n * j + (n - 1))) 0
    (Ready 0x66 w s c → ∃ t, exec (.fabs w) s = .next t ∧ LaneDone c s t (fun i => .v (c.srcA g i &&& ~~~word signs))) ∧
    (Ready 0x67 w s c → ∃ t, exec (.fneg w) s = .next t ∧ LaneDone c s t (fun i => .v (c.srcA g i ^^^ word signs))) ∧
    (Ready 0x69 w s c → ∃ t, exec (.fcls w) s = .next t ∧ LaneElements c s t n k (fun i j =>
      let e := a i j / 2 ^ f.fb % 2 ^ f.eb
      let q := a i j % 2 ^ f.fb
      let neg := (a i j).testBit (n - 1)
      if e = 2 ^ f.eb - 1 then
        (if q = 0 then (if neg then 0x001 else 0x080) else if q.testBit (f.fb - 1) then 0x200 else 0x100)
      else if e = 0 then (if q = 0 then (if neg then 0x008 else 0x010) else if neg then 0x004 else 0x020)
      else if neg then 0x002 else 0x040)) ∧
    (Ready 0x68 w s c → w.xa = 0 → Quiet c s (fun i => { flags := fl i }) →
      ∃ t, ∃ x : Nat → Word, exec (.fcmp w) s = .next t ∧ LaneDone c s t (fun i => { val := some (x i), flags := fl i }) ∧
        ∀ i, Elements n k (x i) (fun j => if r i j then 2 ^ n - 1 else 0)) ∧
    (Ready 0x68 w s c → w.xa ≠ 0 → Quiet c s (fun i => { flags := fl i }) →
      let x := fun i => if w.xa = 1 then r i 0 else if w.xa = 2 then (List.range k).all (r i) else (List.range k).any (r i)
      ∃ t, exec (.fcmp w) s = .next t ∧ LaneDone c s t (fun i => { pred := some (w.dst.toNat % 8, x i), flags := fl i })))

/-- ICVT and FCVT place their results by part (R204): narrowing fills part cvtPart of DST and keeps the rest; widening reads part
cvtPart of the source; equal widths convert every sub-element. That a value outside the integer range is told by its rounded value
is the model's reading (assumption 90). -/
def Obligations.Conversions : Prop :=
  ∀ (w : FullWord) (s : State) (c : Issue),
    let g := c.g s
    let placed := fun (src dst : Nat) (cv : Nat → Nat → Nat → Rounded) (i : Nat) =>
      let ws := ewidth src
      let wd := ewidth dst
      let p := cvtPart w
      let a := fun j => (c.srcA g i).toNat / 2 ^ (ws * j) % 2 ^ ws
      let old := fun j => (if w.nw then 0 else (g.vGet i w.dst.toNat).toNat) / 2 ^ (wd * j) % 2 ^ wd
      if ws < wd then outOf wd (64 / wd) (fun j => cv i j (a (p * (64 / wd) + j)))
      else
        let k := 64 / ws
        ({ val := some (packEls wd (64 / wd) (fun j => if p * k ≤ j ∧ j < p * k + k then (cv i j (a (j - p * k))).bits else old j))
           flags := orAll ((List.range k).map (fun j => (cv i (p * k + j) (a j)).flags)) } : LaneOut)
    let m := if c.rnd = 0 then g.fpctl.toNat % 4 + 1 else c.rnd
    let done := fun (o : Host.Outcome State Fault Refusal) (out : Nat → LaneOut) =>
      Quiet c s out → ∃ t, o = .next t ∧ LaneDone c s t out
    (Ready 0x6C w s c →
      let src := icvtSrc w
      let dst := plainType c.ty
      done (exec (.icvt w) s) (placed src dst (fun _ _ x => if 12 ≤ src then toInt src dst m x else ofInt src dst m c.sat x))) ∧
    (Ready 0x6B w s c →
      let src := fcvtSrc w
      let dst := plainType w.type
      let r := ewidth dst
      done (exec (.fcvt w) s) (placed src dst (fun i j x =>
        fcvt src dst m c.sat c.ftz r ((c.srcC g 64 i).toNat / 2 ^ (r * j) % 2 ^ r) x)))

/-- Rounding to nearest (R43): when the rounded pattern is finite, no finite value of the format lies closer to m × 2^e; the
values are compared as fractions of a power of two small enough for both. -/
def Obligations.NearestRounding : Prop :=
  ∀ (code m : Nat) (e : Int) (s : Bool), code ∈ [12, 13, 14, 15, 16, 17] → m ≠ 0 →
    let f := fmtOf code
    let r := f.round 1 false s m e
    ∀ (s1 s2 : Bool) (m1 m2 : Nat) (e1 e2 : Int) (y : Nat), y < 2 ^ (f.eb + f.fb + 1) →
      f.decode r.bits = .fin s1 m1 e1 → f.decode y = .fin s2 m2 e2 →
      let sc := fun (s : Bool) (m : Nat) (x : Int) (u : Int) => (if s then -(m : Int) else (m : Int)) * 2 ^ (x - u).toNat
      ∀ u : Int, u ≤ e → u ≤ e1 → u ≤ e2 → |sc s m e u - sc s1 m1 e1 u| ≤ |sc s m e u - sc s2 m2 e2 u|

/-- RCP, RSQ, SQRT, EXP2, LOG2, SINP, COSP and TANH (R205, R206): the special function of each sub-element. Outside the special
cases the value is the part's own where it meets R207 (assumption 20); this statement rests on that reading. -/
def Obligations.SpecialFunctions : Prop :=
  ∀ (w : FullWord) (s : State) (c : Issue),
    let g := c.g s
    let n := ewidth c.ty
    let m := if c.rnd = 0 then g.fpctl.toNat % 4 + 1 else c.rnd
    let a := fun i j => (c.srcA g i).toNat / 2 ^ (n * j) % 2 ^ n
    let done := fun (o : Host.Outcome State Fault Refusal) (k : Nat) =>
      let out := fun i => outOf n (64 / n) (fun j =>
        special k c.ty m ((Config.special k c.ty (word (a i j))).toNat % 2 ^ n) (a i j))
      Quiet c s out → ∃ t, o = .next t ∧ LaneDone c s t out
    (Ready 0x80 w s c → done (exec (.rcp w) s) 0) ∧ (Ready 0x81 w s c → done (exec (.rsq w) s) 1) ∧
    (Ready 0x82 w s c → done (exec (.sqrt w) s) 2) ∧ (Ready 0x83 w s c → done (exec (.exp2 w) s) 3) ∧
    (Ready 0x84 w s c → done (exec (.log2 w) s) 4) ∧ (Ready 0x85 w s c → done (exec (.sinp w) s) 5) ∧
    (Ready 0x86 w s c → done (exec (.cosp w) s) 6) ∧ (Ready 0x87 w s c → done (exec (.tanh w) s) 7)

/-- FADD, FSUB, FMUL, FMA, FMIN, FMAX, FCMP, FRND, FCVT, ICVT, FSCL, the special functions, and RED and SCAN over the issuing
split: a word that raises an enabled flag in some active lane traps precisely with FP_TRAP (R46): no lane is written, the flags of
every active lane are sticky in fpctl and stand in tinfo, and tmask holds the lanes that raised an enabled flag. The flags of a
special function outside R206, that FCMP raises those of every sub-element and which flags ICVT raises are the model's readings
(assumptions 20, 68 and 90). -/
def Obligations.FloatingTraps : Prop :=
  ∀ (w : FullWord) (s : State) (c : Issue),
    let g := c.g s
    let traps := fun (op : Nat) (o : Host.Outcome State Fault Refusal) (out : Nat → LaneOut) =>
      let fl := orAll ((lanesOf c.act).map (fun i => (out i).flags))
      let bad := maskIf c.act (fun i => g.enabled (out i).flags != 0)
      Ready op w s c → CanTrap c s → bad ≠ 0#32 → ∃ t, o = .next t ∧ OnlyGang c.wg c.gang s t ∧
        Trapped c 0x0E bad (word fl) c.pc g (c.g t) ∧ (c.g t).fpctl = g.fpctl ||| word (fl % 32 * 2 ^ 11) ∧
        (c.g t).k = g.k ∧ (c.g t).d = g.d
    traps 0x60 (exec (.fadd w) s) (c.faddLane g) ∧ traps 0x61 (exec (.fsub w) s) (c.fsubLane g) ∧
    traps 0x62 (exec (.fmul w) s) (c.fmulLane g) ∧ traps 0x63 (exec (.fma w) s) (c.fmaLane g) ∧
    traps 0x64 (exec (.fmin w) s) (c.fminLane g) ∧ traps 0x65 (exec (.fmax w) s) (c.fmaxLane g) ∧
    traps 0x68 (exec (.fcmp w) s) (c.fcmpLane g) ∧
    traps 0x6A (exec (.frnd w) s) (fun i => c.eachF (fun j => c.fmt.integral (c.mode g) (w.xa % 2 == 1) (c.eA g i j))) ∧
    traps 0x6B (exec (.fcvt w) s) (c.fcvtLane g) ∧ traps 0x6C (exec (.icvt w) s) (c.icvtLane g) ∧
    traps 0x6D (exec (.fscl w) s) (fun i => c.eachF (fun j => c.fmt.scale (c.mode g) (c.eA g i j) (sextN c.ew (c.eB g i j)))) ∧
    traps 0x80 (exec (.rcp w) s) (c.specialLane 0 g) ∧ traps 0x81 (exec (.rsq w) s) (c.specialLane 1 g) ∧
    traps 0x82 (exec (.sqrt w) s) (c.specialLane 2 g) ∧ traps 0x83 (exec (.exp2 w) s) (c.specialLane 3 g) ∧
    traps 0x84 (exec (.log2 w) s) (c.specialLane 4 g) ∧ traps 0x85 (exec (.sinp w) s) (c.specialLane 5 g) ∧
    traps 0x86 (exec (.cosp w) s) (c.specialLane 6 g) ∧ traps 0x87 (exec (.tanh w) s) (c.specialLane 7 g) ∧
    (w.xa % 2 = 0 → traps 0x93 (exec (.red w) s) (c.cross g c.act).out ∧ traps 0x94 (exec (.scan w) s) (c.cross g c.act).out)

/-! ## Cross-lane and member forms, pairs -/

/-- SHF, SHFI and BCAST: each contributor receives the sub-element or register of a contributing lane, or keeps its own (R212).
VOTE, MATCH and ELECT (R213): counts and masks over the contributors. -/
def Obligations.CrossLaneWords : Prop :=
  (∀ (w : FullWord) (s : State) (c : Issue) (m : Mask), Contributes c s m →
    let g := c.g s
    let n := ewidth c.ty
    let k := 64 / n
    let a := fun l => c.srcA g l
    let b := fun l => c.srcBz g l
    let has := fun l => l < 32 ∧ m.getLsbD l = true
    let imm := w.sb.toNat
    let wid := 2 ^ (5 - imm / 32)
    let from' := fun i => match w.sop with
      | 0 => if imm % 32 ≤ i % wid then some (i % wid - imm % 32) else none
      | 1 => some (i % wid + imm % 32)
      | 2 => some (Nat.xor (i % wid) (imm % 32))
      | _ => some ((i % wid + imm % 32) % wid)
    let c' := { c with act := m }
    (Ready 0x90 w s c → ∃ t, ∃ x : Nat → Word, exec (.shf w) s = .next t ∧ LaneDone c' s t (fun i => .v (x i)) ∧ ∀ i, has i →
      Elements n k (x i) (fun j =>
        let sel := (b i).toNat / 2 ^ (8 * j) % 256 % (32 * k)
        if has (sel / k) then (a (sel / k)).toNat / 2 ^ (n * (sel % k)) % 2 ^ n else (a i).toNat / 2 ^ (n * j) % 2 ^ n)) ∧
    (Ready 0x91 w s c → ∃ t, ∃ x : Nat → Word, exec (.shfi w) s = .next t ∧ LaneDone c' s t (fun i => .v (x i)) ∧ ∀ i, has i →
      x i = match from' i with
        | some q => if q < wid ∧ has (i / wid * wid + q) then a (i / wid * wid + q) else a i
        | none => a i) ∧
    (Ready 0x95 w s c → ∃ t, ∃ x : Nat → Word, exec (.bcast w) s = .next t ∧ LaneDone c' s t (fun i => .v (x i)) ∧ ∀ i, has i →
      x i = if has ((b i).toNat % 32) then a ((b i).toNat % 32) else a i)) ∧
  (∀ (w : FullWord) (s : State) (c : Issue) (m : Mask), Contributes c s m →
    let g := c.g s
    let n := ewidth c.ty
    let d := w.dst.toNat % 8
    let yes := fun l => m.getLsbD l && g.pGet l (w.sa.toNat % 8)
    let l32 := List.range 32
    let c' := { c with act := m }
    (Ready 0x92 w s c → ∃ t, exec (.vote w) s = .next t ∧ LaneDone c' s t (fun i => match w.sop with
      | 0 => .p d (l32.any yes)
      | 1 => .p d (l32.all (fun l => !m.getLsbD l || yes l))
      | 2 => .p d (!l32.any yes || l32.all (fun l => !m.getLsbD l || yes l))
      | 3 => .v (word ((l32.filter yes).foldl (fun x l => x + 2 ^ l) 0))
      | 4 => .v (word (l32.filter yes).length)
      | _ => .v (word ((l32.filter yes).filter (· < i)).length))) ∧
    (Ready 0x96 w s c → ∃ t, ∃ x : Nat → Word, exec (.matchLanes w) s = .next t ∧ LaneDone c' s t (fun i => .v (x i)) ∧
      ∀ i, i < 32 → m.getLsbD i = true → ∀ l, l < 64 → (x i).getLsbD l =
        (m.getLsbD l && ((c.srcA g l).toNat % 2 ^ n == (c.srcA g i).toNat % 2 ^ n))) ∧
    (Ready 0x97 w s c → ∃ t, ∃ x : Nat → Bool, exec (.elect w) s = .next t ∧ LaneDone c' s t (fun i => .p d (x i)) ∧
      ∀ i, i < 32 → m.getLsbD i = true → x i =
        ((l32.find? (fun l => if w.sop = 1 then yes l else m.getLsbD l)) == some i)))

/-- RED and SCAN (R214). Integer types: the sum of the contributors' sub-elements, delivered once, and minimum, maximum, AND, OR
and XOR over all contributors, or over those up to (w.xa bit 1: below) the lane. Floating types, with no enabled flag raised: RED
combines in the fixed tree, SCAN in ascending order, absent lanes left out, and the flags of every combination become sticky. That
the exact total is saturated once is the model's reading (assumption 49). -/
def Obligations.Reductions : Prop :=
  ∀ (w : FullWord) (s : State) (c : Issue) (m : Mask), Contributes c s m →
    let g := c.g s
    let n := ewidth c.ty
    let k := 64 / n
    let lo : Int := if 4 ≤ c.ty ∧ c.ty < 8 then -2 ^ (n - 1) else 0
    let hi : Int := if 4 ≤ c.ty ∧ c.ty < 8 then 2 ^ (n - 1) - 1 else 2 ^ n - 1
    let el := fun l j => (c.srcA g l).toNat / 2 ^ (n * j) % 2 ^ n
    let x := fun l j => readIn c.ty (el l j)
    let of := fun (ls : List Nat) j => match w.sop with
      | 0 => let r := (ls.map (fun l => x l j)).sum
             ((if c.sat then max lo (min hi r) else r) % 2 ^ n).toNat
      | 1 => ((ls.map (fun l => x l j)).foldl min hi % 2 ^ n).toNat
      | 2 => ((ls.map (fun l => x l j)).foldl max lo % 2 ^ n).toNat
      | 3 => (ls.map (fun l => el l j)).foldl Nat.land (2 ^ n - 1)
      | 4 => (ls.map (fun l => el l j)).foldl Nat.lor 0
      | _ => (ls.map (fun l => el l j)).foldl Nat.xor 0
    let all := (List.range 32).filter (fun l => m.getLsbD l)
    let c' := { c with act := m }
    let f := fmtOf c.ty
    let mode := if c.rnd = 0 then g.fpctl.toNat % 4 + 1 else c.rnd
    let comb := match w.sop with
      | 0 => f.add mode false
      | 1 => f.pick false false
      | _ => f.pick true false
    let inf := (2 ^ f.eb - 1) * 2 ^ f.fb
    let unit := match w.sop with
      | 0 => 2 ^ (n - 1)
      | 1 => inf
      | _ => 2 ^ (n - 1) + inf
    let tree := fun j => redTree comb (fun l => (if m.getLsbD l then some (el l j) else none, 0)) 5 0
    let chain := fun (ls : List Nat) j => ls.foldl (fun p l => combine comb p (some (el l j), 0)) (none, 0)
    let upTo := fun i => all.filter (fun l => if w.xa / 2 % 2 = 1 then l < i else l ≤ i)
    let flags := fun (r : Nat → Option Nat × Nat) => orAll ((List.range k).map (fun j => (r j).2))
    let red : Nat → LaneOut := fun _ => { val := some (packEls n k (fun j => (tree j).1.getD unit)), flags := flags tree }
    let scan : Nat → LaneOut := fun i =>
      { val := some (packEls n k (fun j => (chain (upTo i) j).1.getD unit)), flags := flags (chain all) }
    (c.ty < 12 → (Ready 0x93 w s c → ∃ t, ∃ x : Nat → Word, exec (.red w) s = .next t ∧ LaneDone c' s t (fun i => .v (x i)) ∧
        ∀ i, i < 32 → m.getLsbD i = true → Elements n k (x i) (of all)) ∧
      (Ready 0x94 w s c → ∃ t, ∃ x : Nat → Word, exec (.scan w) s = .next t ∧ LaneDone c' s t (fun i => .v (x i)) ∧
        ∀ i, i < 32 → m.getLsbD i = true → Elements n k (x i) (of (upTo i)))) ∧
    (12 ≤ c.ty → (Ready 0x93 w s c → Quiet c' s red → ∃ t, exec (.red w) s = .next t ∧ LaneDone c' s t red) ∧
      (Ready 0x94 w s c → Quiet c' s scan → ∃ t, exec (.scan w) s = .next t ∧ LaneDone c' s t scan))

/-- A member form performs once when every lane of kN has arrived or has exited (R210): the arrived threads go on as one split at
the next word, their parks are gone, the contributors hold the results of the operands that each brought at its arrival, and
nothing else changes. A legal pair word of two halves that do not access memory: both halves read the registers as they stood
before the word, half A's results are written first, and the split goes on at the next word (R128). The frame of the pair word
leaves warns and warnpc out (assumption 50). -/
def Obligations.MembersAndPairs : Prop :=
  (∀ (s : State) (w g park : Nat) (p : Park) (op : BitVec 8) (x : FullWord) (seat : Nat) (arr : Tab Arrival),
    let y := s.gang w g
    let ps := y.memberParks p.pc
    let lanes := ps.foldl (fun m q => m ||| q.lanes) 0#32
    let brought := ps.foldl (fun (t : Tab Arrival) q => match q.why with
      | .member _ _ _ a => a.foldl (fun t e => Tab.set t e.1 e.2) t
      | _ => t) []
    let who := maskIf lanes (fun i => (Tab.get brought i).act)
    let f := (form op.toNat x).getD default
    let c : Cross := { op := op.toNat, w := x, f := f, mode := y.mode (f.rndEff x), who := who, arr := brought }
    let outs := (lanesOf who).map (fun i => (i, c.out i))
    let fl := orAll (outs.map (fun e => e.2.flags))
    y.parkOf park = some p → p.why = .member op x seat arr → y.enabled fl = 0 →
    (∀ i, i < 32 → (y.kGet (x.sc.toNat % 8)).getLsbD i = true → lanes.getLsbD i = true ∨ (y.thread i).st = .exited) →
    ∃ t, exec (.memberFormPerform w g park) s = .next t ∧ OnlyGang w g s t ∧
      (t.gang w g).parks = y.parks.filter (fun q => ps.all (fun r => q.id != r.id)) ∧
      (∀ i, i < 32 → (t.gang w g).thread i = if lanes.getLsbD i then { y.thread i with st := .exec, pc := p.pc + 8 } else y.thread i) ∧
      (let z := y.putLanes x.nw x.dst.toNat outs
       (t.gang w g).v = z.v ∧ (t.gang w g).b = z.b ∧ (t.gang w g).p = z.p) ∧
      (t.gang w g).k = y.k ∧ (t.gang w g).d = y.d ∧ (t.gang w g).fpctl = y.fpctl ||| word (fl % 32 * 2 ^ 11)) ∧
  (∀ (w : PairWord) (s : State) (c : Issue) (fa fb : HalfForm),
    s.issue 0 { h := w.h, gp := 0, gi := false, nw := false, dst := 0, sa := 0, sb := 0, sc := 0, mod := 0 } = some c →
    (∃ i, i < 32 ∧ ((c.g s).thread i).st = .exec) →
    halfForm w.a.hop.toNat = some fa → halfForm w.b.hop.toNat = some fb →
    fa.badSrc w.a false = false → fb.badSrc w.b true = false → pairBroken fa fb w = false →
    s.regBad c.wg c.gang (fa.regs w.a ++ fb.regs w.b) = none →
    let a := c.half fa w.a w.srcA s
    let b := c.half fb w.b w.srcB s
    fa.op ≠ 0xA4 → fa.op ≠ 0xA5 → fb.op ≠ 0xA4 → fb.op ≠ 0xA5 →
    ∃ t, exec (.pair w) s = .next t ∧ OnlyGang c.wg c.gang s t ∧ SameSystem (c.g s) (c.g t) ∧
      (let x := (c.g s).putLanes false a.w.dst.toNat ((lanesOf a.act).map (fun i => (i, a.halfLane (c.g s) i)))
       let y := x.putLanes false b.w.dst.toNat ((lanesOf b.act).map (fun i => (i, b.halfLane (c.g s) i)))
       (c.g t).v = y.v ∧ (c.g t).b = y.b ∧ (c.g t).p = y.p) ∧
      (c.g t).k = (c.g s).k ∧ (c.g t).d = (c.g s).d ∧ (c.g t).fpctl = (c.g s).fpctl ∧ NextWord c (c.g s) (c.g t))

/-! ## Loads, stores, atomics -/

/-- LDS reads each active lane's bytes from the scratch location that vA advanced by imm16 names, as the lane's view has them,
extended in TYPE (R167, R173); an address outside the lane's region traps (R59). LDC reads the launch's constant copy of the
argument block; beyond it the lane gets 0 and warns.BOUND is set (R174). STS stores the low bytes of vD lane by lane in ascending
order (R168, R173); every other byte of memory is as before. A load of a poisoned word traps with the lanes that read one (R78).
The accesses perform as the word issues (see Ready). -/
def Obligations.ScratchAndConstants : Prop :=
  (∀ (w : FullWord) (s : State) (c : Issue),
    let g := c.g s
    let n := esize w.type
    let lvl := w.xb % 4
    let at' := fun i => s.scratchAt c.wg lvl (scratchAdv lvl (c.srcA g i).toNat w.imm16.toInt) n
    let bytes := fun i => match at' i with
      | .loc x => (locs x n).map (s.ms.readByte (.lane c.wg c.gang i) .thread)
      | .void | .bad => List.replicate n 0#8
    let bad := maskIf c.act (fun i => at' i = .bad)
    (Ready 0xA4 w s c → bad = 0#32 → (∀ i x, c.on i → at' i = .loc x → ∀ y ∈ locs x n, s.ms.poisoned y = false) →
      ∃ t, exec (.lds w) s = .next t ∧ Results c (fun i => some (extend w.type (leNat (bytes i)))) g (c.g t) ∧
        Warned c (c.f.warns c.op w) (if (lanesOf c.act).any (fun i => at' i = .void) then wBOUND else 0) g (c.g t) ∧
        SameControls g (c.g t) ∧ NextWord c g (c.g t) ∧ t.ms.mem = s.ms.mem ∧ SameGangs c.wg c.gang s t ∧ SameDevice s t) ∧
    (Ready 0xA4 w s c → CanTrap c s → bad ≠ 0#32 → ∃ t, exec (.lds w) s = .next t ∧ OnlyGang c.wg c.gang s t ∧
      ∃ a, Trapped c (scrCause lvl) bad a c.pc g (c.g t)) ∧
    (let sick := maskIf c.act (fun i => match at' i with
       | .loc x => (locs x n).any (fun y => s.ms.poisoned y)
       | .void | .bad => false)
     Ready 0xA4 w s c → CanTrap c s → bad = 0#32 → sick ≠ 0#32 → ∃ t, exec (.lds w) s = .next t ∧ OnlyGang c.wg c.gang s t ∧
       ∃ a, Trapped c 0x0B sick a c.pc g (c.g t)) ∧
    (let stores := (lanesOf c.act).flatMap (fun i => match at' i with
       | .loc x => (locs x n).zip (leBytes n (g.vGet i w.dst.toNat).toNat)
       | .void | .bad => [])
     (Ready 0xA5 w s c → bad = 0#32 → c.mustWait s = false →
       ∃ t, exec (.sts w) s = .next t ∧
         (∀ x, Memory.read t.ms.mem x = Memory.read (stores.foldl (fun m e => Memory.write m e.1 e.2) s.ms.mem) x) ∧
         SameValues g (c.g t) ∧ SameControls g (c.g t) ∧ NextWord c g (c.g t) ∧ SameGangs c.wg c.gang s t ∧ SameDevice s t) ∧
     (Ready 0xA5 w s c → CanTrap c s → bad ≠ 0#32 → ∃ t, exec (.sts w) s = .next t ∧ OnlyGang c.wg c.gang s t ∧
       ∃ a, Trapped c (scrCause lvl) bad a c.pc g (c.g t)))) ∧
  (∀ (w : FullWord) (s : State) (c : Issue),
    let x := s.launch (s.wg c.wg).launch
    let n := esize w.type
    let o := fun i => ((c.srcA (c.g s) i).toNat : Int) + w.imm16.toInt
    Ready 0xA6 w s c → ∃ t, exec (.ldc w) s = .next t ∧ LaneDone c s t (fun i =>
      if 0 ≤ o i ∧ o i + n ≤ hdrArglen x.hdr then .v (extend w.type (leNat ((x.args.drop (o i).toNat).take n)))
      else { val := some 0, warns := 1 }))

/-- Translation in two stages (R69 to R71): a stage without a valid root, an address at or beyond 2^57 or an entry that is not
valid is a translation fault of that stage; a reserved field, a leaf at level 1 or 2, none at level 5, a misaligned frame or an
inconsistent 64 KiB group is a corrupted table; a leaf gives the address, the permissions that every entry on the way grants,
DISC, D and the page's size. The guest stage's tables are read through the host stage, whose failure is a fault there. A
permission missing at a stage is that stage's fault (R72). A translation that the access may use sets AC in every entry used, and
D for a write (R69, R75); the first write to a page of the host stage appends its entry to the dirty log, unless the ring is full
(R75, R76). The lanes of an access whose lines all translate perform, the others stay unfinished, and the lowest stopping line is
named (R72). That a walk that ends in a fault sets no bit is the model's reading (assumption 81), and so is what the frame's place
allows (assumption 22). -/
def Obligations.Translation : Prop :=
  (∀ (s : State) (key va : Nat),
    let vif := vifOf key
    let stage := fun (rd : Nat → Nat → Prop) (root va : Nat) (fault corrupt : Prop) (ok : (Leaf → Prop) → Prop) =>
      ∀ k t r w x e, TableAt rd root va k t r w x → rd (t + va / 2 ^ (57 - 9 * k) % 512 * 8) e →
        let frame := e / 2 ^ 12 % 2 ^ 44 * 2 ^ 12
        let leaf := fun (size : Nat) (dirty : Bool) (l : Leaf) => l.addr = frame + va % 2 ^ (57 - 9 * k) ∧
          l.rd = (r && e.testBit 3) ∧ l.wr = (w && e.testBit 4) ∧ l.ex = (x && e.testBit 5) ∧ l.disc = e.testBit 59 ∧
          l.dirty = dirty ∧ l.size = size
        (e % 2 = 0 → fault) ∧
        (e % 2 = 1 → e / 2 ^ 60 % 16 ≠ 0 ∨ e / 2 ^ 56 % 8 ≠ 0 ∨ e / 2 ^ 10 % 4 ≠ 0 ∨ e / 2 % 4 ≠ 0 → corrupt) ∧
        (e % 2 = 1 → entReserved e = false →
          (e / 64 % 2 = 1 → k ≤ 2 ∨ (k < 5 ∧ frame % 2 ^ (57 - 9 * k) ≠ 0) → corrupt) ∧ (e / 64 % 2 = 0 → k = 5 → corrupt) ∧
          (e / 64 % 2 = 1 → 3 ≤ k → k < 5 → frame % 2 ^ (57 - 9 * k) = 0 → ok (leaf (if k = 4 then 2 else 3) (e.testBit 8))) ∧
          (e / 64 % 2 = 1 → k = 5 → e / 512 % 2 = 0 → ok (leaf 0 (e.testBit 8))) ∧
          (e / 64 % 2 = 1 → k = 5 → e / 512 % 2 = 1 → ∀ f : Nat → Nat,
            (∀ j, j < 16 → rd (t + (va / 2 ^ 12 % 512 / 16 * 16 + j) * 8) (f j)) →
            let same := f 0 / 2 ^ 12 % 16 = 0 ∧ ∀ j, j < 16 → f j % 2 = 1 ∧ f j / 64 % 2 = 1 ∧ f j / 512 % 2 = 1 ∧
              entReserved (f j) = false ∧ f j / 2 ^ 12 % 2 ^ 44 = f 0 / 2 ^ 12 % 2 ^ 44 + j ∧ f j / 8 % 8 = f 0 / 8 % 8 ∧
              (f j).testBit 59 = (f 0).testBit 59
            (same → ok (leaf 1 ((f 0).testBit 8))) ∧ (¬same → corrupt)))
    let hroot := (s.vreg vif 0x201).toNat
    let groot := (s.creg key 0x300).toNat
    let host := s.hostWalk vif va
    let guest := s.guestWalk key va
    let gread := fun (a x : Nat) => ∃ l, s.hostWalk vif a = .ok l ∧ l.rd = true ∧ s.frameOk vif 1 l.addr = true ∧
      s.physRead l.addr 8 = x
    (hroot % 2 = 0 ∨ 2 ^ 57 ≤ va → host = .fault) ∧
    (groot % 2 = 0 ∨ 2 ^ 57 ≤ va → guest = .fault false) ∧
    (hroot % 2 = 1 → va < 2 ^ 57 → stage (fun a x => s.physRead a 8 = x) (hroot / 2 ^ 12 % 2 ^ 44 * 2 ^ 12) va (host = .fault)
      (host = .corrupt) (fun f => ∃ l, host = .ok l ∧ f l)) ∧
    (groot % 2 = 1 → va < 2 ^ 57 → stage gread (groot / 2 ^ 12 % 2 ^ 44 * 2 ^ 12) va (guest = .fault false) (guest = .corrupt)
        (fun f => ∃ l, guest = .ok l ∧ f l) ∧
      ∀ k t r w x, TableAt gread (groot / 2 ^ 12 % 2 ^ 44 * 2 ^ 12) va k t r w x →
        (s.guestRead vif (t + va / 2 ^ (57 - 9 * k) % 512 * 8) = .fault → guest = .fault true) ∧
        (s.guestRead vif (t + va / 2 ^ (57 - 9 * k) % 512 * 8) = .corrupt → guest = .corrupt))) ∧
  (∀ (s : State) (key va : Nat) (a : Access),
    let vif := vifOf key
    let r := s.translate key va a
    let lacks := fun (l : Leaf) => (a.rd = true ∧ l.rd = false) ∨ (a.wr = true ∧ l.wr = false) ∨ (a.ex = true ∧ l.ex = false)
    s.cached key va a = none →
    (s.guestWalk key va = .corrupt → r.1 = .corrupt) ∧
    (∀ host, s.guestWalk key va = .fault host → r.1 = .fault host false ∧ r.2.ms = s.ms) ∧
    (∀ g, s.guestWalk key va = .ok g →
      (lacks g → r.1 = .fault false true ∧ r.2.ms = s.ms) ∧
      (¬lacks g →
        (s.hostWalk vif g.addr = .corrupt → r.1 = .corrupt) ∧
        (s.hostWalk vif g.addr = .fault → r.1 = .fault true false ∧ r.2.ms = s.ms) ∧
        (∀ h, s.hostWalk vif g.addr = .ok h →
          let disc := if g.disc then some false else if h.disc then some true else none
          let first := a.wr = true ∧ disc = none ∧ h.dirty = false
          let enabled := (s.vreg vif 0x202).toNat % 2 = 1
          let full := ((s.vreg vif 0x203).toNat + 2 ^ 32 - (s.vreg vif 0x204).toNat) % 2 ^ 32 = 4096
          (lacks h ∨ s.frameOk vif a.kind h.addr = false → r.1 = .fault true true ∧ r.2.ms = s.ms) ∧
          (¬lacks h → s.frameOk vif a.kind h.addr = true → canTouch g.refs (a.wr && disc.isNone) = false →
            r.1 = .fault true false ∧ r.2.ms = s.ms) ∧
          (¬lacks h → s.frameOk vif a.kind h.addr = true → canTouch g.refs (a.wr && disc.isNone) = true →
            (first → enabled → full → r.1 = .dirtyFull g.addr ∧ r.2.ms = s.ms) ∧
            (¬(first ∧ enabled ∧ full) → r.1 = .ok h.addr g.addr disc ∧
              (∀ e ∈ g.refs ++ g.under ++ h.refs, r.2.physRead e.pa 8 / 128 % 2 = 1) ∧
              (a.wr = true → disc = none → ∀ e, g.refs.head? = some e ∨ h.refs.head? = some e →
                r.2.physRead e.pa 8 / 256 % 2 = 1) ∧
              r.2.vreg vif 0x203 = if first ∧ enabled then word (((s.vreg vif 0x203).toNat + 1) % 2 ^ 32)
                else s.vreg vif 0x203)))))) ∧
  (∀ (s t : State) (vif gpa size : Nat), size < 4 → s.logDirty vif gpa size = some t →
    let base := (s.vreg vif 0x202).toNat
    let xs := locs (locHbm (base / 2 ^ 15 % 2 ^ 41 * 2 ^ 15 + (s.vreg vif 0x203).toNat % 4096 * 8)) 8
    let bits := if size = 0 then 12 else if size = 1 then 16 else if size = 2 then 21 else 30
    (base % 2 = 0 → t = s) ∧
    (base % 2 = 1 → SameMemoryBut xs s t ∧ leNat (t.ms.latest xs) = gpa % 2 ^ 57 / 2 ^ bits * 2 ^ bits + size ∧
      t.vreg vif 0x203 = word (((s.vreg vif 0x203).toNat + 1) % 2 ^ 32))) ∧
  (∀ (s : State) (key kind n : Nat) (need : Need) (lanes : List (Nat × Nat)),
    let wr := need != .load
    let lines := ascending (lanes.flatMap (fun e => linesOf e.2 n))
    let out := (s.xlatLines key { rd := need != .store, wr := wr, ex := false, kind := kind } lines).1
    let p := (s.planVirtual key kind need lanes n).1
    let stops := fun (e : Nat × Nat) (l : Nat) => l ∈ linesOf e.2 n ∧ lineStop wr (xlatAt out l) ≠ none
    kind ≠ 0x10 → 0 < n → (lanes.map Prod.fst).Nodup → (∀ e ∈ lanes, e.1 < 32) →
    (∀ e ∈ lanes, (p.todo.getLsbD e.1 = true ↔ ∃ l, stops e l) ∧
      ((∃ q ∈ p.go, q.lane = e.1 ∧ q.addr = e.2) ↔ ¬∃ l, stops e l)) ∧
    (p.stop = none ↔ ∀ e ∈ lanes, ¬∃ l, stops e l) ∧
    (∀ l st, p.stop = some (l, st) → st ≠ .corrupt → (∃ e ∈ lanes, stops e l) ∧ ∀ e ∈ lanes, ∀ m, stops e m → l ≤ m)) ∧
  (∀ (wr : Bool),
    (∀ pa gpa, lineStop wr (.ok pa gpa none) = none) ∧
    (∀ pa gpa host, lineStop wr (.ok pa gpa (some host)) = if wr then some (.discard host) else none) ∧
    (∀ host perm, lineStop wr (.fault host perm) = some (.fault host)) ∧
    (∀ gpa, lineStop wr (.dirtyFull gpa) = some (.dirty gpa)) ∧ lineStop wr .corrupt = some .corrupt)

/-- LDB through a record (R66, R67, R172): with every lane's bytes reached and none poisoned, the lanes within the extent get
their values and the others 0; where a line stops lanes, the others get theirs and the word waits with those (R72 to R74, R298,
R299). The checks of R67 for LDB, STB, ATOM, CAS and ATOMF, each before any lane performs: a format that threads cannot use, a
load or atomic on host or window kinds, a missing permission, an element out of a record with OOBT = 1, a scratch address out of
reach; and poisoned bytes, when every lane has translated (R78). A corrupted table tears the context down (R70). The accesses
perform as the word issues (see Ready). -/
def Obligations.RecordLoads : Prop :=
  (∀ (w : FullWord) (s s1 : State) (c : Issue) (p : Plan),
    let g := c.g s
    let n := esize w.type
    let d := g.dGet (w.sc.toNat % 16)
    let ls := recLanes c.act (c.srcA g)
    let s0 := c.warn (c.f.warns c.op w) s
    Ready 0xA2 w s c → s.recTrap c.wg d .load n c.act ls = none → c.planRecord d .load n ls s0 = (p, s1) → p.todo = 0#32 →
    p.stop = none → (p.poison s1.ms).1 = 0#32 →
      ∃ t, exec (.ldb w) s = .next t ∧
        Results c (fun i => some (match p.go.find? (fun q => q.lane == i) with
          | some q => extend w.type (s1.loadLane c.wg c.gang q)
          | none => 0)) g (c.g t) ∧
        SameControls g (c.g t) ∧ NextWord c g (c.g t) ∧ t.ms.mem = s1.ms.mem ∧ SameGangs c.wg c.gang s1 t ∧ SameDevice s1 t) ∧
  (∀ (w : FullWord) (s s1 : State) (c : Issue) (p : Plan) (line : Nat) (st : Stop),
    let g := c.g s
    let n := esize w.type
    let d := g.dGet (w.sc.toNat % 16)
    let ls := recLanes c.act (c.srcA g)
    let s0 := c.warn (c.f.warns c.op w) s
    let q := p.hold (p.poison s1.ms).1
    let out := fun i => recOut d (idxRow (c.srcA g i).toNat) (idxEl (c.srcA g i).toNat) n
    Ready 0xA2 w s c → s.recTrap c.wg d .load n c.act ls = none → c.planRecord d .load n ls s0 = (p, s1) → p.stop = some (line, st) →
    (∀ r ∈ s1.sched.reports, r.written = true ∧ r.num < s1.sched.nextReport) →
      (st ≠ .corrupt → ∃ t, exec (.ldb w) s = .next t ∧ WaitsFor c s s1 t q false ∧
        Results c (fun i => if out i then some 0 else (q.go.find? (fun y => y.lane == i)).map (fun y =>
          extend w.type (s1.loadLane c.wg c.gang y))) g (c.g t) ∧
        (c.g t).p = g.p ∧ (c.g t).k = g.k ∧ (c.g t).d = g.d ∧ (c.g t).fpctl = g.fpctl ∧
        SameMemoryBut (faultLocs s1 (c.key s) true ++ faultLocs s1 (c.key s) false) s1 t) ∧
      (st = .corrupt → exec (.ldb w) s = .next ((s1.teardownAt 8 c.wg c.gang c.pc p.todo).settleGang c.wg c.gang))) ∧
  (∀ (w : FullWord) (s : State) (c : Issue),
    let g := c.g s
    let n := esize w.type
    let d := g.dGet (w.sc.toNat % 16)
    let traps := fun (o : Host.Outcome State Fault Refusal) (cause : Nat) (mask : Mask) (tinfo : Nat) => ∃ t, o = .next t ∧
      OnlyGang c.wg c.gang s t ∧ Trapped c cause mask (word tinfo) c.pc g (c.g t)
    let out := fun i => recOut d (idxRow (c.srcA g i).toNat) (idxEl (c.srcA g i).toNat) n
    let outs := maskIf c.act (fun i => out i)
    let least := fun (m : Mask) (x : Nat) => ∃ i, i < 32 ∧ m.getLsbD i = true ∧ (∀ j, j < i → m.getLsbD j = false) ∧
      x = (c.srcA g i).toNat
    let fails := fun (o : Host.Outcome State Fault Refusal) (load perm : Bool) =>
      let plain := recEfmt d < 0x14
      let near := load = false ∨ recKind d ∉ [0x02, 0x03, 0x10]
      (¬plain → traps o 0x01 c.act 6) ∧
      (plain → load = true → recKind d = 0x02 ∨ recKind d = 0x03 → traps o 0x08 c.act (recKind d)) ∧
      (plain → load = true → recKind d = 0x10 → traps o 0x09 c.act 0x10) ∧
      (plain → near → perm = false → traps o 0x06 c.act (recBehav d)) ∧
      (plain → near → perm = true → recOobt d = true → outs ≠ 0#32 → ∀ x, least outs x → traps o 0x07 outs x) ∧
      (plain → near → perm = true → (recOobt d = false ∨ outs = 0#32) → ∀ lvl, kindLevel (recKind d) = some lvl →
        let bad := maskIf c.act (fun i => !out i &&
          s.scratchAt c.wg lvl (scratchAdv lvl (recBase d) (recSum d (idxRow (c.srcA g i).toNat) (idxEl (c.srcA g i).toNat) i)) n == .bad)
        bad ≠ 0#32 → ∃ x, traps o (scrCause lvl) bad x)
    CanTrap c s →
      (Ready 0xA2 w s c → fails (exec (.ldb w) s) true (recR d)) ∧
      (Ready 0xA3 w s c → fails (exec (.stb w) s) false (recW d) ∧ fails (exec (.stbWindow w) s) false (recW d)) ∧
      (w.type < 18 → w.sc.toNat / 64 = 0 →
        (Ready 0xA8 w s c → fails (exec (.atom w) s) true (recA d)) ∧ (Ready 0xA9 w s c → fails (exec (.cas w) s) true (recA d)) ∧
        (Ready 0xAA w s c → fails (exec (.atomf w) s) true (recA d)))) ∧
  (∀ (w : FullWord) (s s1 : State) (c : Issue) (p : Plan),
    let g := c.g s
    let d := g.dGet (w.sc.toNat % 16)
    let ls := recLanes c.act (c.srcA g)
    let s0 := c.warn (c.f.warns c.op w) s
    let sick := (p.poison s1.ms).1
    let traps := fun (o : Host.Outcome State Fault Refusal) => ∃ t, o = .next t ∧ t.ms.mem = s1.ms.mem ∧
      Trapped c 0x0B sick (word (p.poison s1.ms).2) c.pc g (c.g t)
    CanTrap c s → p.stop = none → sick ≠ 0#32 →
      (Ready 0xA2 w s c → s.recTrap c.wg d .load (esize w.type) c.act ls = none →
        c.planRecord d .load (esize w.type) ls s0 = (p, s1) → traps (exec (.ldb w) s)) ∧
      (w.type < 18 → AtomPlan c s s1 p → c.mustWait s = false →
        (Ready 0xA8 w s c → traps (exec (.atom w) s)) ∧ (Ready 0xA9 w s c → traps (exec (.cas w) s)) ∧
        (Ready 0xAA w s c → traps (exec (.atomf w) s)))) ∧
  (∀ (p : Plan) (m : MemSys),
    let unit := fun (q : LanePlan) (y j : Nat) => q.bytes[j]? = some (.loc y) ∧ m.poisoned y = true
    (∀ i, i < 32 → ((p.poison m).1.getLsbD i = true ↔ ∃ q ∈ p.go, q.lane = i ∧ ∃ y j, unit q y j)) ∧
    (∀ q ∈ p.go, ∀ y j, unit q y j → (p.poison m).2 ≤ q.unitAddr j))

/-- STB through a record (R172, R275, R80): with every lane's bytes reached, the lanes store in ascending order: into memory,
where every other byte is as before; through a window, one entry for each member in its queue, counted as outstanding, with the
word's path or the record's and the word's ordered flag (R94, R97); or as posted stores to the host port, kind 0x03 persistent
(R100). Where a line stops lanes, the others store and the word waits with those: for translation, a discarded page or a full
dirty ring (R72, R74, R76). Each names the word's origin entry (R270). STB_WINDOW is the same word. The accesses perform as the
word issues (see Ready); those that stay in Q(t) have a statement of their own. -/
def Obligations.RecordStores : Prop :=
  ∀ (w : FullWord) (s s1 : State) (c : Issue) (p : Plan),
    let g := c.g s
    let n := esize w.type
    let d := g.dGet (w.sc.toNat % 16)
    let kind := recKind d
    let ls := recLanes c.act (c.srcA g)
    let s0 := c.warn (c.f.warns c.op w) s
    let s0' := if kind ≠ 0x10 ∧ 64 ≤ w.xb then c.warn wIGN s0 else s0
    let val := fun i => c.srcB g 64 i
    let stores := p.go.flatMap (fun q => (q.bytes.zip (leBytes n (val q.lane).toNat)).filterMap (fun e => match e.1 with
      | .loc x => some (x, e.2)
      | .zero | .host _ | .win .. => none))
    let path := if w.xb / 64 % 2 = 1 then w.xb / 16 % 4 else recPath d
    let win := fun (q : LanePlan) => match q.bytes.head? with
      | some (.win e off) => (e, off)
      | _ => (0, 0)
    let host := fun (q : LanePlan) => match q.bytes.head? with
      | some (.host a) => a
      | _ => 0
    let org := (c.origin s1).1
    let done := fun (o : Host.Outcome State Fault Refusal) => ∃ t, o = .next t ∧
      SameValues g (c.g t) ∧ SameControls g (c.g t) ∧ NextWord c g (c.g t) ∧ SameGangs c.wg c.gang s1 t ∧
      (kind ≠ 0x10 → kind ≠ 2 → kind ≠ 3 → SameUnits s1 t ∧
        ∀ x, Memory.read t.ms.mem x = Memory.read (stores.foldl (fun m e => Memory.write m e.1 e.2) s1.ms.mem) x) ∧
      (kind = 0x10 → (∀ q ∈ p.go, q.bytes = (List.range n).map (fun j => .win (win q).1 ((win q).2 + j))) →
        t.ms = s1.ms ∧ t.prim = s1.prim ∧
        t.fab.rq = s1.fab.rq ++ p.go.zipIdx.flatMap (fun q => (List.range (txCount (win q.1).1)).map (fun k =>
          ({ id := s1.fab.nextId + q.2, key := s1.queueOf (c.key s) (win q.1).1 path k, member := k, kind := 1, woff := (win q.1).2,
             bytes := leBytes n (val q.1.lane).toNat, unit := n, pmask := 0, rop := 0, ord := w.xb / 128 % 2 == 1, org := org,
             gang := some (c.wg, c.gang), flow := none } : Entry))) ∧
        t.fab.outst = s1.fab.outst ++ p.go.zipIdx.map (fun q =>
          { id := s1.fab.nextId + q.2, wg := c.wg, gang := c.gang, ctx := c.key s, path := BitVec.ofNat 2 path,
            left := List.range (txCount (win q.1).1) })) ∧
      (kind = 2 ∨ kind = 3 → (∀ q ∈ p.go, q.bytes = (List.range n).map (fun j => .host (host q + j))) →
        t.ms = s1.ms ∧ t.fab = s1.fab ∧
        t.prim.posted = s1.prim.posted ++ p.go.zipIdx.map (fun q =>
          { id := s1.prim.nextPosted + q.2, wg := c.wg, gang := c.gang, lane := q.1.lane, addr := host q.1,
            bytes := leBytes n (val q.1.lane).toNat, pers := kind == 3, ctx := c.key s, org := org, port := s1.hport (vifOf (c.key s)) }))
    Ready 0xA3 w s c → s.recTrap c.wg d .store n c.act ls = none → c.mustWait s = false →
    c.planRecord d .store n ls (c.release s0') = (p, s1) →
      (p.todo = 0#32 → p.stop = none → done (exec (.stb w) s) ∧ done (exec (.stbWindow w) s)) ∧
      (∀ line st, p.stop = some (line, st) → (∀ r ∈ s1.sched.reports, r.written = true ∧ r.num < s1.sched.nextReport) →
        let waits := fun (o : Host.Outcome State Fault Refusal) => ∃ t, o = .next t ∧ WaitsFor c s s1 t p true ∧
          SameValues g (c.g t) ∧ (c.g t).p = g.p ∧ (c.g t).k = g.k ∧ (c.g t).d = g.d ∧ (c.g t).fpctl = g.fpctl ∧
          (kind ≠ 0x10 → kind ≠ 2 → kind ≠ 3 → ∀ x, x ∉ faultLocs s1 (c.key s) true ++ faultLocs s1 (c.key s) false →
            Memory.read t.ms.mem x = Memory.read (stores.foldl (fun m e => Memory.write m e.1 e.2) s1.ms.mem) x)
        (st ≠ .corrupt → waits (exec (.stb w) s) ∧ waits (exec (.stbWindow w) s)) ∧
        (st = .corrupt → exec (.stb w) s = .next ((s1.teardownAt 8 c.wg c.gang c.pc p.todo).settleGang c.wg c.gang)))

/-- One atomic step on a lane's bytes (R84, R168): it reads the latest write of each byte, and when it writes, those bytes alone
change, to the low bytes of its value. ATOM, CAS and ATOMF on types of one to eight bytes (R177 to R179): the lanes take one
atomic step each, in ascending order, and get the old value extended in TYPE; a lane outside the extent gets 0. Where a line stops
lanes, the others perform and the word waits with those (R72, R74, R76). The accesses perform as the word issues (see Ready). -/
def Obligations.Atomics : Prop :=
  (∀ (s : State) (w g : Nat) (p : LanePlan) (f : Nat → Option Nat),
    let n := p.bytes.length
    let r := s.atomicLane w g p f
    (∀ b ∈ p.bytes, ∃ x, b = .loc x) → p.locs.Nodup →
      r.1 = leNat (p.locs.map (Memory.read s.ms.mem)) ∧
      (∀ x, x ∉ p.locs → Memory.read r.2.ms.mem x = Memory.read s.ms.mem x) ∧
      (f r.1 = none → SameMemory s r.2) ∧
      (∀ y, f r.1 = some y → leNat (p.locs.map (Memory.read r.2.ms.mem)) = y % 256 ^ n) ∧
      r.2.wgs = s.wgs ∧ SameUnits s r.2) ∧
  (∀ (w : FullWord) (s s1 : State) (c : Issue) (p : Plan),
    let g := c.g s
    let n := esize w.type
    let b := fun i => (c.srcB g 64 i).toNat
    let d := g.dGet (w.sc.toNat % 16)
    let out := fun i => recOut d (idxRow (c.srcA g i).toNat) (idxEl (c.srcA g i).toNat) n
    let done := fun (o : Host.Outcome State Fault Refusal) (f : Nat → Nat → Option Nat) =>
      (p.todo = 0#32 → p.stop = none → (p.poison s1.ms).1 = 0#32 →
        let r := c.atomics p f s1
        ∃ t, o = .next t ∧
          Results c (fun i => some (match r.1.find? (fun e => e.1 == i) with
            | some e => extend w.type e.2
            | none => 0)) g (c.g t) ∧
          SameControls g (c.g t) ∧ NextWord c g (c.g t) ∧ t.ms.mem = r.2.ms.mem ∧ SameGangs c.wg c.gang s1 t ∧ SameUnits s1 t) ∧
      (∀ line st, p.stop = some (line, st) → st ≠ .corrupt → (∀ r ∈ s1.sched.reports, r.written = true ∧ r.num < s1.sched.nextReport) →
        let q := p.hold (p.poison s1.ms).1
        let r := c.atomics q f s1
        ∃ t, o = .next t ∧ WaitsFor c s s1 t q true ∧
          Results c (fun i => match r.1.find? (fun e => e.1 == i) with
            | some e => some (extend w.type e.2)
            | none => if out i then some 0 else none) g (c.g t) ∧
          (c.g t).p = g.p ∧ (c.g t).k = g.k ∧ (c.g t).d = g.d ∧ (c.g t).fpctl = g.fpctl ∧
          SameMemoryBut (faultLocs s1 (c.key s) true ++ faultLocs s1 (c.key s) false) r.2 t)
    w.type < 18 → AtomPlan c s s1 p → c.mustWait s = false →
    let N := 2 ^ (8 * n)
    let f := fmtOf w.type
    (Ready 0xA8 w s c → done (exec (.atom w) s) (fun i x =>
      let y := b i % N
      some (match w.xb % 16 with
        | 0 => y
        | 1 => (x + y) % N
        | 2 => (((x : Int) - y) % N).toNat
        | 3 => Nat.land x y
        | 4 => Nat.lor x y
        | 5 => Nat.xor x y
        | 6 => if readIn c.ty x ≤ readIn c.ty y then x else y
        | 7 => if readIn c.ty x ≤ readIn c.ty y then y else x
        | 8 => if y ≤ x then 0 else x + 1
        | _ => if x = 0 ∨ y < x then y else x - 1))) ∧
    (Ready 0xA9 w s c → done (exec (.cas w) s) (fun i x =>
      if x = (g.vGet i w.dst.toNat).toNat % 2 ^ (8 * n) then some (b i % 2 ^ (8 * n)) else none)) ∧
    (Ready 0xAA w s c → done (exec (.atomf w) s) (fun i x =>
      let y := b i % 2 ^ ewidth w.type
      some (match w.xb % 16 with
        | 0 => (f.add 1 false x y).bits
        | 1 => (f.pick false false x y).bits
        | _ => (f.pick true false x y).bits))))

/-- ATOM and CAS on the MX types (R180): a lane's atomic step takes its element with the scale of its block, which lies above it.
The accesses perform as the word issues (see Ready). -/
def Obligations.ScaledAtomics : Prop :=
  ∀ (w : FullWord) (s s1 s2 : State) (c : Issue) (p q : Plan) (sd : BitVec 256),
    let g := c.g s
    let d := g.dGet (w.sc.toNat % 16)
    let ls := recLanes c.act (c.srcA g)
    let ss := (ls.filter (fun l => !RecLane.out d 1 l)).map (fun l => { l with el := l.el / 32 })
    let scale := fun i => match q.go.find? (fun l => l.lane == i) with
      | some l => s2.latestLane l
      | none => 0
    let done := fun (o : Host.Outcome State Fault Refusal) (f : Nat → Nat → Option Nat) =>
      let r := c.atomics p (fun i x => f i (x + 256 * scale i)) s2
      ∃ t, o = .next t ∧
        Results c (fun i => some (match r.1.find? (fun e => e.1 == i) with
          | some e => word (e.2 % 256 + 256 * scale i)
          | none => 0)) g (c.g t) ∧
        SameControls g (c.g t) ∧ NextWord c g (c.g t) ∧ t.ms.mem = r.2.ms.mem ∧ SameGangs c.wg c.gang s2 t ∧ SameUnits s2 t
    18 ≤ w.type → recEfmt d = 0x12 ∨ recEfmt d = 0x13 → s.recTrap c.wg d .atomic 1 c.act ls = none → g.scaleRec d = some sd →
    s.recTrap c.wg sd .load 1 c.act ss = none → c.mustWait s = false →
    c.planRecord d .atomic 1 ls (c.release (c.warn (c.f.warns c.op w) s)) = (p, s1) → c.planRecord sd .load 1 ss s1 = (q, s2) →
    p.todo = 0#32 → p.stop = none → q.todo = 0#32 → q.stop = none → (p.poison s2.ms).1 = 0#32 → (q.poison s2.ms).1 = 0#32 →
    (Ready 0xA8 w s c → done (exec (.atom w) s) (fun i _ => some ((c.srcB g 64 i).toNat % 256))) ∧
    (Ready 0xA9 w s c → done (exec (.cas w) s) (fun i x =>
      if x = (g.vGet i w.dst.toNat).toNat % 2 ^ 16 then some ((c.srcB g 64 i).toNat % 256) else none))

/-- DLD loads a record of 32 bytes through a record, and DMOD replaces one field of a record (R170, R171): the record written
passes the checks of R64, its reserved BEHAV bits read 0 (R6, R63), warns.UNIF is set when the active lanes' operands differ and
warns.FIELD when DMOD's value has bits beyond its field (R133), and nothing else changes. -/
def Obligations.Records : Prop :=
  (∀ (w : FullWord) (s s1 : State) (c : Issue) (q : LanePlan),
    let g := c.g s
    let d := g.dGet (w.sc.toNat % 16)
    let e := esize (recEfmt d)
    let i := c.low
    let l : RecLane := { lane := i, idx := (c.srcA g i).toNat, row := idxRow (c.srcA g i).toNat, el := idxEl (c.srcA g i).toNat }
    let s0 := c.warn (c.f.warns c.op w) s
    let x := BitVec.ofNat 256 (s1.loadLane c.wg c.gang q)
    Ready 0xA0 w s c → recPerm d .load = none → l.row < recRows d → l.el * e + 32 ≤ recExtent d * e →
    s.recTrap c.wg (recPut d 3 3 1 0) .load 32 (laneBit i) [l] = none →
    c.planRecord d .load 32 [l] (c.uniform (fun j => [c.srcA g j]) s0) = ({ go := [q] }, s1) →
    q.poison s1.ms = none → recCheck x = none →
      ∃ t, exec (.dld w) s = .next t ∧ (c.g t).d = Tab.set g.d (w.dst.toNat % 16) (recPut x 3 7 9 0) ∧ SameValues g (c.g t) ∧
        SameSystem g (c.g t) ∧ (c.g t).p = g.p ∧ (c.g t).k = g.k ∧ (c.g t).fpctl = g.fpctl ∧
        Warned c (c.f.warns c.op w) (if (lanesOf c.act).any (fun j => c.srcA g j != c.srcA g i) then 64 else 0) g (c.g t) ∧
        NextWord c g (c.g t) ∧ t.ms.mem = s1.ms.mem ∧ SameGangs c.wg c.gang s1 t ∧ SameDevice s1 t) ∧
  (∀ (w : FullWord) (s : State) (c : Issue),
    let g := c.g s
    let (wd, lo, n) := dmodField (w.xb % 16)
    let old := g.dGet (w.sb.toNat % 16)
    let a := (c.srcA g c.low)
    let base := (recBase old : Int) + a.toInt
    let x := recPut old wd lo n (if w.xb % 16 = 2 then base.toNat else a.toNat)
    Ready 0xA1 w s c → (w.xb % 16 = 2 → 0 ≤ base ∧ base < 2 ^ 56) → recCheck x = none →
      ∃ t, exec (.dmod w) s = .next t ∧ (c.g t).d = Tab.set g.d (w.dst.toNat % 16) (recPut x 3 7 9 0) ∧ SameValues g (c.g t) ∧
        SameSystem g (c.g t) ∧ (c.g t).p = g.p ∧ (c.g t).k = g.k ∧ (c.g t).fpctl = g.fpctl ∧
        Warned c (c.f.warns c.op w) ((if (lanesOf c.act).any (fun j => c.srcA g j != c.srcA g c.low) then 64 else 0) +
          if w.xb % 16 ≠ 2 ∧ 2 ^ n ≤ a.toNat then 4 else 0) g (c.g t) ∧
        NextWord c g (c.g t) ∧ OnlyGang c.wg c.gang s t)

/-! ## Fences, barriers, waits -/

/-- FENCE at a scope: what each active lane has seen or written is seen at the scope's instance, and what that instance has seen,
the lane sees (R86, R182). FENCEX: every named class at the instance sees what every other has (R89). No byte of memory changes.
Releases, acquires and FENCEX move no view of any instance and class back (R84). PERSIST with every durable store accepted or
refused: each active lane gets its count of refused stores, which restarts (R183). That FENCEX never waits is the model's reading
(assumption 70). -/
def Obligations.FencesAndPersists : Prop :=
  (∀ (w : FullWord) (s : State) (c : Issue),
    let g := c.g s
    let inst := fun i => s.instAt c.wg c.gang i c.scope
    let lane := fun i => Inst.lane c.wg c.gang i
    let named := fun (a : PathClass) => match a with
      | .thread => w.xb / 128 % 2 = 1
      | .copy => w.xb / 64 % 2 = 1
      | .matrix => w.xb / 32 % 2 = 1
      | .reflect => w.xb / 16 % 2 = 1
      | .host => w.xb / 8 % 2 = 1
    (Ready 0xC0 w s c → (c.scope = 6 → s.owes s.fab.nextId (s.mine c.wg c.gang 1) = false) →
      ∃ t, exec (.fence w) s = .next t ∧
        (∀ i x, c.on i → s.ms.view (lane i) .thread x ≤ t.ms.view (inst i) .thread x ∧
          s.ms.view (inst i) .thread x ≤ t.ms.view (lane i) .thread x) ∧
        t.ms.mem = s.ms.mem ∧ t.ms.hist = s.ms.hist ∧ SameValues g (c.g t) ∧ SameControls g (c.g t) ∧ NextWord c g (c.g t) ∧
        SameGangs c.wg c.gang s t ∧ SameDevice s t) ∧
    (Ready 0xC1 w s c → ∃ t, exec (.fencex w) s = .next t ∧
      (∀ i x a b, c.on i → named a → named b →
        s.ms.view (inst i) a x ≤ t.ms.view (inst i) b x) ∧
      t.ms.mem = s.ms.mem ∧ t.ms.hist = s.ms.hist ∧ SameValues g (c.g t) ∧ SameControls g (c.g t) ∧ NextWord c g (c.g t) ∧
      SameGangs c.wg c.gang s t ∧ SameDevice s t)) ∧
  (∀ (s : State) (w g : Nat) (m : Mask) (scope cls : Nat) (i : Inst) (c : PathClass) (x : Nat),
    s.ms.view i c x ≤ (s.releaseAll w g m scope).ms.view i c x ∧
    s.ms.view i c x ≤ (s.acquireAll w g m scope).ms.view i c x ∧
    s.ms.view i c x ≤ (s.fencexAll w g m cls scope).ms.view i c x) ∧
  (∀ (w : FullWord) (s : State) (c : Issue),
    let g := c.g s
    Ready 0xC2 w s c → (∀ p ∈ s.prim.posted, p.pers = true → p.wg = c.wg → p.gang = c.gang → c.act.getLsbD p.lane = false) →
      ∃ t, exec (.persist w) s = .next t ∧ OnlyGang c.wg c.gang s t ∧ SameControls g (c.g t) ∧
        Results c (fun i => some ((g.thread i).refused.setWidth 64)) g (c.g t) ∧
        ∀ i, i < 32 → (c.g t).thread i =
          if c.act.getLsbD i then { g.thread i with pc := c.pc + 8, refused := 0#16 }
          else if c.lanes.getLsbD i then { g.thread i with pc := c.pc + 8 } else g.thread i)

/-- BINIT, BARV and BEXP act on the latest bytes of their object; a phase whose arrivals and bytes are complete ends, and a new
one begins (R29, R30, R185). Every other byte is as before, and other gangs keep their registers and threads. BTRY and BWAIT on an
object (R185): pD tells whether the phase differs from b; a BWAIT whose phase does not differ waits, unless its timeout is 0. That
the object's latest bytes count is the model's reading (assumption 51). -/
def Obligations.BarrierObjects : Prop :=
  (∀ (w : FullWord) (s : State) (c : Issue) (x : Nat), ObjectAt c s x →
    let g := c.g s
    let b := (c.srcB g 64 c.low).toNat
    let done := fun (o : Host.Outcome State Fault Refusal) (f : Nat → Nat) =>
      let y := f (s.objRead x)
      let full := decide (y / 2 ^ 48 % 2 ^ 16 ≤ y / 2 ^ 32 % 2 ^ 16 ∧ y % 2 ^ 32 = 0)
      ∃ t, o = .next t ∧
        t.objRead x / 2 ^ 64 % 2 ^ 32 = (y / 2 ^ 64 + if full then 1 else 0) % 2 ^ 32 ∧
        t.objRead x / 2 ^ 32 % 2 ^ 16 = (if full then 0 else y / 2 ^ 32 % 2 ^ 16) ∧
        t.objRead x / 2 ^ 48 % 2 ^ 16 = y / 2 ^ 48 % 2 ^ 16 ∧ t.objRead x % 2 ^ 32 = y % 2 ^ 32 ∧
        SameMemoryBut (locs x 16) s t ∧ SameDevice s t ∧ OthersKeep c.wg c.gang s t ∧ SameRegisters g (c.g t) ∧ NextWord c g (c.g t)
    (Ready 0xC4 w s c → 1 ≤ b → b ≤ 65535 → done (exec (.binit w) s) (objInit b ((c.rdC g c.low).toNat % 2 ^ 32))) ∧
    (Ready 0xC5 w s c → done (exec (.barv w) s) objArrive) ∧
    (Ready 0xC6 w s c → done (exec (.bexp w) s) (objExpectBytes b))) ∧
  (∀ (w : FullWord) (s : State) (c : Issue) (x : Nat), ObjectAt c s x →
    let g := c.g s
    let n := w.dst.toNat % 8
    let hit := decide (s.objRead x / 2 ^ 64 % 2 ^ 32 ≠ (c.srcB g 64 c.low).toNat % 2 ^ 32)
    let done := fun (o : Host.Outcome State Fault Refusal) => ∃ t, o = .next t ∧
      (∀ i j, i < 32 → j < 8 → (c.g t).pGet i j = if c.act.getLsbD i ∧ j = n ∧ n ≠ 0 then hit else g.pGet i j) ∧
      t.ms.mem = s.ms.mem ∧ SameValues g (c.g t) ∧ SameSystem g (c.g t) ∧ NextWord c g (c.g t) ∧ SameGangs c.wg c.gang s t ∧
      SameDevice s t
    (Ready 0xC8 w s c → done (exec (.btry w) s)) ∧
    (Ready 0xC7 w s c → (hit = true ∨ c.rdC g c.low = 0) → done (exec (.bwait w) s)) ∧
    (Ready 0xC7 w s c → hit = false → c.rdC g c.low ≠ 0 →
      (∃ i, i < 32 ∧ c.lanes.getLsbD i = false ∧ (g.thread i).st = .exec) →
      ∃ t, exec (.bwait w) s = .next t ∧ t.ms.mem = s.ms.mem ∧ SameGangs c.wg c.gang s t ∧ SameDevice s t ∧
        (∀ i, i < 32 → c.lanes.getLsbD i = true → ((c.g t).thread i).st = .parked ∧ ((c.g t).thread i).pc = c.pc) ∧
        ∃ p, (c.g t).parks = g.parks ++ [p] ∧ p.lanes = c.lanes ∧ p.act = c.act ∧ p.pc = c.pc))

/-- BARW parks the active lanes at its word; the others go on (R184); at a scope that no wired barrier has it traps with
ILLEGAL_SCOPE, and at a barrier outside the launch's mask with ILLEGAL_INSN, tinfo 6 (R28, R132). When every thread of the gang
then waits at the same barrier and scope, the gang has arrived there, or traps with BARRIER_BROKEN at a broken instance. A
complete phase of a wired barrier releases every gang that has arrived, and the next phase opens with the gangs resident then; a
kill of a participant's workgroup breaks the instance, and the waiting gangs of a broken one trap (R28). -/
def Obligations.WiredBarriers : Prop :=
  (∀ (w : FullWord) (s : State) (c : Issue),
    let g := c.g s
    Ready 0xC3 w s c → 2 ≤ w.scope → w.scope ≤ 4 → hdrWbmask (s.hdr c.wg) / 2 ^ (w.xb % 8) % 2 = 1 →
    (∃ i, i < 32 ∧ ¬c.on i ∧ (g.thread i).st = .exec) →
      ∃ t, exec (.barw w) s = .next t ∧ t.ms.mem = s.ms.mem ∧ SameDevice s t ∧ SameRegisters g (c.g t) ∧
        (∀ i, i < 32 → (c.g t).thread i =
          if c.act.getLsbD i then { g.thread i with st := .parked, pc := c.pc }
          else if c.lanes.getLsbD i then { g.thread i with pc := c.pc + 8 } else g.thread i) ∧
        ∃ p, (c.g t).parks = g.parks ++ [p] ∧ p.lanes = c.act ∧
          p.why = .barw (BitVec.ofNat 3 (w.xb % 8)) (BitVec.ofNat 3 w.scope)) ∧
  (∀ (w : FullWord) (s : State) (c : Issue), Ready 0xC3 w s c → CanTrap c s →
    let traps := fun (cause tinfo : Nat) => ∃ t, exec (.barw w) s = .next t ∧ OnlyGang c.wg c.gang s t ∧
      Trapped c cause c.act (word tinfo) c.pc (c.g s) (c.g t)
    (w.scope < 2 ∨ 4 < w.scope → traps 0x0F w.scope) ∧
    (2 ≤ w.scope → w.scope ≤ 4 → hdrWbmask (s.hdr c.wg) / 2 ^ (w.xb % 8) % 2 = 0 → traps 0x01 6)) ∧
  (∀ (w : FullWord) (s : State) (c : Issue),
    let g := c.g s
    let i := BitVec.ofNat 3 (w.xb % 8)
    let sc := BitVec.ofNat 3 w.scope
    Ready 0xC3 w s c → 2 ≤ w.scope → w.scope ≤ 4 → hdrWbmask (s.hdr c.wg) / 2 ^ (w.xb % 8) % 2 = 1 →
    (∀ q ∈ g.parks, q.lanes &&& c.lanes = 0#32) → (∀ l, l < 32 → g.live.getLsbD l = true → c.on l ∨ g.barOf l = some (i, sc)) →
    ((∀ b ∈ s.sched.barriers, s.isBar c.wg i sc b = true → b.broken = false) →
      ∃ t, exec (.barw w) s = .next t ∧ t.ms.mem = s.ms.mem ∧ SameRegisters g (c.g t) ∧
        (∀ l, l < 32 → (c.g t).thread l =
          if c.act.getLsbD l then { g.thread l with st := .parked, pc := c.pc }
          else if c.lanes.getLsbD l then { g.thread l with pc := c.pc + 8 } else g.thread l) ∧
        t.sched.barriers = s.sched.barriers.map (fun b => if s.isBar c.wg i sc b = true ∧ (c.wg, c.gang) ∉ b.arrived
          then { b with arrived := b.arrived ++ [(c.wg, c.gang)] } else b)) ∧
    (∀ b l, b ∈ s.sched.barriers → s.isBar c.wg i sc b = true → b.broken = true → CanTrap c s → g.live.getLsbD l = true →
      (∀ k, k < l → g.live.getLsbD k = false) →
      ∃ t, exec (.barw w) s = .next t ∧
        Trapped c 0x10 g.live (word (w.xb % 8)) (if c.act.getLsbD l then c.pc else (g.thread l).pc) g (c.g t))) ∧
  (∀ (s : State) (w reason cause : Nat) (nested : Bool) (wid pc : Word) (mask : Mask) (tinfo : Word), (s.wg w).status = .running →
    ∀ b ∈ (s.kill w reason cause nested wid pc mask tinfo).sched.barriers, (∃ p ∈ b.parts, p.1 = w) → b.broken = true) ∧
  (∀ (s : State) (n : Nat) (b : Barrier),
    let out := b.arrived.filter (fun p => (s.wg p.1).status == .running && (s.gang p.1 p.2).barAll == some (b.i, b.scope))
    s.sched.barriers[n]? = some b → b.broken = true → b.arrived.Nodup →
    (∀ e ∈ out, (s.gang e.1 e.2).inTrap = false ∧ (s.gang e.1 e.2).inUi = false ∧ codeAddr (s.gang e.1 e.2).tvec ≠ 0#64) →
      ∃ t, exec (.wiredBarrierComplete n) s = .next t ∧ ∀ e ∈ out, (t.gang e.1 e.2).inTrap = true ∧
        (t.gang e.1 e.2).tcause = 0x10#64 ∧ (t.gang e.1 e.2).tmask = word (s.gang e.1 e.2).live.toNat ∧
        (t.gang e.1 e.2).tinfo = word b.i.toNat) ∧
  (∀ (s : State) (n : Nat) (b : Barrier),
    let out := b.arrived.filter b.parts.contains
    s.sched.barriers[n]? = some b → s.barComplete b = true →
    (∀ e ∈ out, (s.wg e.1).status = .running ∧ ∃ q ∈ (s.gang e.1 e.2).parks, q.why = .barw b.i b.scope ∧ q.lanes ≠ 0#32) →
      ∃ t, exec (.wiredBarrierComplete n) s = .next t ∧
        t.sched.barriers = s.sched.barriers.set n
          { b with parts := s.gangsIn b.launch b.scope b.inst, arrived := b.arrived.filter (fun p => !b.parts.contains p) } ∧
        t.ms.mem = s.ms.mem ∧
        ∀ e ∈ out, ∀ q ∈ (s.gang e.1 e.2).parks, q.why = .barw b.i b.scope → ∀ i, i < 32 → q.lanes.getLsbD i = true →
          ((t.gang e.1 e.2).thread i).st = .exec)

/-- WSEQ (R186) and WMEM (R187): pD = 1 when the cell has reached b, or when every active lane's condition holds; a timeout of 0
ends the word at once. The waits of a running gang that end (R185 to R189): an object whose phase has changed or that was freed, a
cell that has reached its value, a timeout; the threads go on at the next word with pD as the wait gives it. -/
def Obligations.Waits : Prop :=
  (∀ (w : FullWord) (s : State) (c : Issue),
    let g := c.g s
    let n := w.dst.toNat % 8
    let kept := fun (t : State) => t.ms.mem = s.ms.mem ∧ SameValues g (c.g t) ∧ SameSystem g (c.g t) ∧ NextWord c g (c.g t) ∧
      SameGangs c.wg c.gang s t ∧ SameDevice s t
    let hit := decide ((c.srcB g 64 c.low).toNat ≤ (Tab.get (s.wg c.wg).q (w.sa.toNat % 32)).toNat)
    let sz := esize w.type
    let at' := fun i => s.scratchAt c.wg (w.xb % 4) ((c.srcA g i).toNat, true) sz
    let value := fun i => match at' i with
      | .loc x => leNat ((locs x sz).map (s.ms.readByte (.lane c.wg c.gang i) .thread))
      | .void | .bad => 0
    let x := fun i => readIn c.ty (value i)
    let y := fun i => readIn c.ty (c.srcB g 64 i).toNat
    let holds := fun i => match w.xb / 4 % 4 with
      | 0 => decide (x i = y i)
      | 1 => decide (x i ≠ y i)
      | 2 => decide (y i ≤ x i)
      | _ => decide (x i < y i)
    let all := (lanesOf c.act).all holds
    (Ready 0xC9 w s c → (hit = true ∨ c.rdC g c.low = 0) → ∃ t, exec (.wseq w) s = .next t ∧ kept t ∧
      ∀ i j, i < 32 → j < 8 → (c.g t).pGet i j = if c.act.getLsbD i ∧ j = n ∧ n ≠ 0 then hit else g.pGet i j) ∧
    (Ready 0xCA w s c → (∀ i, c.on i → ∃ x, at' i = .loc x ∧ ∀ y ∈ locs x sz, s.ms.poisoned y = false) →
      (all = true ∨ c.rdC g c.low = 0) → ∃ t, exec (.wmem w) s = .next t ∧ kept t ∧
      ∀ i j, i < 32 → j < 8 → (c.g t).pGet i j = if c.act.getLsbD i ∧ j = n ∧ n ≠ 0 then (all || holds i) else g.pGet i j)) ∧
  (∀ (s : State) (w g : Nat) (p : Park),
    let x := s.gang w g
    let ends := fun (o : Host.Outcome State Fault Refusal) (pd : BitVec 3) (hit : Bool) => ∃ t, o = .next t ∧ GoesOn p x (t.gang w g) ∧
      (∀ i j, i < 32 → j < 8 → (t.gang w g).pGet i j = if p.act.getLsbD i ∧ j = pd.toNat ∧ j ≠ 0 then hit else x.pGet i j) ∧
      t.ms.mem = s.ms.mem ∧ SameValues x (t.gang w g) ∧ SameGangs w g s t ∧ SameDevice s t
    (s.wg w).status = .running → x.parkOf p.id = some p → p.lanes ≠ 0#32 →
    (∀ loc v pd hit, p.why = .bwait loc v pd → p.ready = some hit → ends (exec (.bwaitWake w g p.id) s) pd hit) ∧
    (∀ cell v cls sc pd, p.why = .wseq cell v cls sc pd → v.toNat ≤ (Tab.get (s.wg w).q cell.toNat).toNat →
      ends (exec (.wseqWake w g p.id) s) pd true) ∧
    (∀ n loc v pd, p.why = .bwait loc v pd → p.ready ≠ some true → p.left = some n → p.since + n ≤ s.cycle →
      ends (exec (.waitTimeout w g p.id) s) pd false) ∧
    (∀ n cell v cls sc pd, p.why = .wseq cell v cls sc pd → ¬v.toNat ≤ (Tab.get (s.wg w).q cell.toNat).toNat → p.left = some n →
      p.since + n ≤ s.cycle → ends (exec (.waitTimeout w g p.id) s) pd false) ∧
    (∀ word' addr b, p.why = .wmem word' addr b →
      (let f := (form 0xCA word').getD default
       let r := s.wmemRead w g word' (f.typeEff word') p.act (Tab.get addr) (Tab.get b)
       (r.1.poison s.ms).1 = 0#32 → p.act ≠ 0#32 → r.2.map Prod.fst = lanesOf p.act → (∀ e ∈ r.2, e.2 = true) →
       ends (exec (.wmemRecheck w g p.id) s) (BitVec.ofNat 3 (word'.dst.toNat % 8)) true)))

/-- TMOV queues the move its descriptor names and goes on (R175, R176): the rows' bytes are read in units and written in units,
every byte in one unit, and those of one 64-byte unit of the destination in one (R92). The reads and the writes of a move
interleave in any order in which a unit is written after the bytes it takes have been read (R90): a unit is read on the copy path
within the turns that the move has had, and written there. TMOV_COMPLETE, once every unit is written, raises the move's cell by 1
modulo 2^64 and ends the move. That a turn is counted in the bytes read is the model's reading (assumption 83). -/
def Obligations.TileMoves : Prop :=
  (∀ (w : FullWord) (s : State) (c : Issue),
    let g := c.g s
    let desc := (List.range 4).map (fun j => g.vGet c.low (w.sa.toNat + j))
    let x := tileOf desc
    let ds := s.tileEnd c.wg x.dlvl x.bytes x.rows x.dstRow
    let ss := s.tileEnd c.wg x.slvl x.bytes x.rows x.srcRow
    Ready 0xA7 w s c → x.shapeBad = false → endBad ds = none → endBad ss = none → overlapAt x.bytes ds ss = none →
      ∃ t, exec (.tmov w) s = .next t ∧
        (t.wg c.wg).moves = (s.wg c.wg).moves ++
          [{ id := (s.wg c.wg).nextId, desc := desc, cell := BitVec.ofNat 5 (w.dst.toNat % 32),
             mv := s.tileXfer c.wg x }] ∧
        t.ms = s.ms ∧ SameDevice s t ∧ SameRegisters g (c.g t) ∧ SameSystem g (c.g t) ∧ NextWord c g (c.g t)) ∧
  (∀ (s : State) (w : Nat) (x : Tile),
    let v := s.tileXfer w x
    let l := s.tileBytes w x
    v.reads.flatten.Perm (List.range l.length) ∧ v.writes.flatten.Perm (List.range l.length) ∧
    ∀ u ∈ v.writes, ∀ a b y z, a ∈ u → (l[a]?).bind Prod.snd = some y → (l[b]?).bind Prod.snd = some z → y / 8 / 64 = z / 8 / 64 →
      y % 8 = z % 8 → b ∈ u) ∧
  (∀ (s : State) (w i k : Nat) (m : TileMove) (u : List Nat), (s.wg w).tileOn i = some m →
    let l := s.tileBytes w (tileOf m.desc)
    let got := Tab.get m.mv.got
    let read := fun (e : Option Nat) => match e with
      | some y => (s.ms.readByte (.clus (clusterOf (s.wg w).core)) .copy y, s.ms.poisoned y)
      | none => (0#8, false)
    (m.mv.reads[k]? = some u → m.mv.got.length < m.mv.quota → let t := s.tileRead w i k
      t.ms = s.ms ∧ SameDevice s t ∧ (∀ v h, t.gang v h = s.gang v h) ∧ ∃ n, (t.wg w).tileOn i = some n ∧
        n.mv.reads = m.mv.reads.eraseIdx k ∧ n.mv.writes = m.mv.writes ∧
        (∀ p ∈ u, Tab.get n.mv.got p = some (read ((l[p]?).bind Prod.fst))) ∧ ∀ p, p ∉ u → Tab.get n.mv.got p = got p) ∧
    (m.mv.quota ≤ m.mv.got.length → ∃ n, ((s.tileRead w i k).wg w).tileOn i = some n ∧ n.mv = m.mv) ∧
    (m.mv.writes[k]? = some u → (∃ p ∈ u, got p = none) → s.tileWrite w i k = s) ∧
    (m.mv.writes[k]? = some u → (∀ p ∈ u, got p ≠ none) → let t := s.tileWrite w i k
      (∀ y, Memory.read t.ms.mem y = Memory.read ((u.filterMap (fun p => match (l[p]?).bind Prod.snd, got p with
          | some y, some v => some (y, v.1)
          | _, _ => none)).foldl (fun m e => Memory.write m e.1 e.2) s.ms.mem) y) ∧
        ∃ n, (t.wg w).tileOn i = some n ∧ n.mv.writes = m.mv.writes.eraseIdx k ∧ n.mv.got = m.mv.got) ∧
    (m.mv.writes ≠ [] → exec (.tmovComplete w i) s = .next s) ∧
    (m.mv.writes = [] → ∃ t, exec (.tmovComplete w i) s = .next t ∧ t.ms = s.ms ∧
      Tab.get (t.wg w).q m.cell.toNat = Tab.get (s.wg w).q m.cell.toNat + 1 ∧
      (t.wg w).moves = (s.wg w).moves.filter (fun x => x.id != i) ∧ (∀ v h, t.gang v h = s.gang v h)))

/-! ## Engines -/

/-- MENQ appends its record to the workgroup's chain, and MTAIL the records it reads, when the chain has room; without room the
split waits with the records it has read (R226). DAHLIA_RESET kills every resident workgroup of the cluster that has tasks, and
the engine is idle (R247). How a word that waits for room goes on is the model's reading (assumption 52). -/
def Obligations.TaskQueues : Prop :=
  (∀ (w : FullWord) (s : State) (c : Issue),
    let g := c.g s
    let fresh := fun (t : BitVec 512) => ({ record := t, begun := false, kstep := 0, done := false } : Task)
    let queued := fun (o : Host.Outcome State Fault Refusal) (l : List (BitVec 512)) => ∃ t, o = .next t ∧
      (t.wg c.wg).chain = (s.wg c.wg).chain ++ l.map fresh ∧ t.ms = s.ms ∧ SameDevice s t ∧ SameRegisters g (c.g t) ∧
      SameSystem g (c.g t) ∧ NextWord c g (c.g t)
    let waits := fun (o : Host.Outcome State Fault Refusal) (l : List (BitVec 512)) => ∃ t p, o = .next t ∧
      (t.wg c.wg).chain = (s.wg c.wg).chain ∧ (c.g t).parks = g.parks ++ [p] ∧ p.why = .chainFull l ∧ p.lanes = c.lanes ∧
      p.act = c.act ∧ p.pc = c.pc ∧ t.ms = s.ms ∧ SameDevice s t ∧ SameRegisters g (c.g t)
    let other := ∃ i, i < 32 ∧ c.lanes.getLsbD i = false ∧ (g.thread i).st = .exec
    (∀ t, t = taskOf ((List.range 8).map (fun j => (g.vGet c.low (w.sa.toNat + j)).toNat)) → Ready 0xD0 w s c →
      s.taskCheck c.wg t = none → ((s.wg c.wg).chain.length < 64 → queued (exec (.menq w) s) [t]) ∧
        (64 ≤ (s.wg c.wg).chain.length → other → waits (exec (.menq w) s) [t])) ∧
    (∀ l gone, Ready 0xD1 w s c → 1 ≤ (c.srcB g 64 c.low).toNat → (c.srcB g 64 c.low).toNat ≤ 64 →
      s.readTail c.wg c.gang c.low (c.srcB g 64 c.low).toNat (w.xb % 4) ((c.srcA g c.low).toNat, true) [] false = (.ok l, gone) →
      ((s.wg c.wg).chain.length + l.length ≤ 64 → queued (exec (.mtail w) s) l) ∧
        (64 < (s.wg c.wg).chain.length + l.length → other → waits (exec (.mtail w) s) l))) ∧
  (∀ (s : State) (clus : Nat), ∃ t, exec (.dahliaReset clus) s = .next t ∧ (t.engine clus).busy = none ∧
    ∀ w, ((s.wg w).status = .running ∨ (s.wg w).status = .saving) → clusterOf (s.wg w).core = clus → (s.wg w).chain ≠ [] →
      (t.wg w).holds = false ∧ (t.wg w).chain = [] ∧ (t.wg w).gangs = [])

/-- A cluster's engine serves the head of a workgroup's chain: it starts a ready chain's head when idle (R245); MZERO, MLOAD and
MDRAIN act on the task's rows and columns (R223); MWAIT only ends (R224); a finished task leaves the chain and raises its cell
(R225). One K-step of MMA (R50, R222) first writes the multicast copies of the bytes it has fetched. On signed 8-bit elements each
accumulator word of the task's rows and columns rises by the exact sum of the products of the K-step modulo 2^32. On floating
elements each promotion group of the K-step is promoted in ascending order: its group value (R51, R53), of truncated products
where the elements are BF16 (R52), times the scales of its row and column (R220), is added to the word and rounded to nearest. The
other words keep their values. -/
def Obligations.MatrixTasks : Prop :=
  (∀ (s : State) (clus w : Nat) (x : Task) (rest : List Task),
    let t := x.record
    let busy := (s.engine clus).busy = some w
    let head := (s.wg w).chain = x :: rest
    let serves := fun (n : Nat) => busy ∧ head ∧ tOpc t = n ∧ x.begun = true ∧ x.done = false
    let ended := fun (u : State) => (u.wg w).chain = { x with done := true } :: rest
    let key := fun m n => (tAccrow t + m) * 128 + n
    let clean := ∀ m n, m < tM t → n < tN t → ∀ y, some y ∈ s.dataLocs w t (m, n) → s.ms.poisoned y = false
    ((s.engine clus).busy = none → s.nextChain clus = some w → head → ∃ u, exec (.taskStart clus) s = .next u ∧
      (u.engine clus).busy = some w ∧ (u.wg w).chain = { x with begun := true } :: rest ∧ u.ms.mem = s.ms.mem ∧
      (∀ v h, u.gang v h = s.gang v h)) ∧
    (serves 1 → ∃ u, exec (.mzero clus) s = .next u ∧ ended u ∧ u.ms = s.ms ∧ SameDevice s u ∧
      (∀ m n, m < tM t → n < tN t → Tab.get (u.wg w).acc (key m n) = 0#32) ∧
      (∀ k, (∀ m n, m < tM t → n < tN t → k ≠ key m n) → Tab.get (u.wg w).acc k = Tab.get (s.wg w).acc k)) ∧
    (serves 2 → clean → ∃ u, exec (.mload clus) s = .next u ∧ ended u ∧ u.ms = s.ms ∧ SameDevice s u ∧
      (∀ m n, m < tM t → n < tN t → Tab.get (u.wg w).acc (key m n) =
        loadAcc (tDtype t) (leNat ((s.dataLocs w t (m, n)).map (fun y => match y with
          | some y => s.ms.readByte (s.clusInst w) .matrix y
          | none => 0#8)))) ∧
      (∀ k, (∀ m n, m < tM t → n < tN t → k ≠ key m n) → Tab.get (u.wg w).acc k = Tab.get (s.wg w).acc k)) ∧
    (serves 3 → ∃ u, exec (.mdrain clus) s = .next u ∧ ended u ∧ SameUnits s u ∧ (u.wg w).acc = (s.wg w).acc ∧
      ∀ y, Memory.read u.ms.mem y = Memory.read ((taskElems t).foldl (fun m e =>
        ((s.dataLocs w t e).zip (leBytes (tDsize t) (drainAcc (tDtype t) (tDsat t) (Tab.get (s.wg w).acc (accKey t e))))).foldl
          (fun m p => match p.1 with
            | some z => Memory.write m z p.2
            | none => m) m) s.ms.mem) y) ∧
    (serves 4 → ∃ u, exec (.mwait clus) s = .next u ∧ ended u ∧ u.ms = s.ms ∧ SameDevice s u) ∧
    (busy → head → x.done = true → ∃ u, exec (.taskComplete clus) s = .next u ∧ (u.wg w).chain = rest ∧
      (u.engine clus).busy = none ∧ u.ms = s.ms ∧
      (∀ q, Tab.get (u.wg w).q q = Tab.get (s.wg w).q q + if tSig t ∧ q = tScell t then word (tSinc t) else 0))) ∧
  (∀ (s : State) (clus w : Nat) (x : Task) (rest : List Task),
    let t := x.record
    let lo := x.kstep * 384
    let hi := Nat.min (lo + 384) (tRowBytes t)
    let a := s.fetchRows w (tAlvl t) (tAaddr t) (tM t) (tEs t) lo hi
    let b := s.fetchRows w (tBlvl t) (tBaddr t) (tN t) (tEs t) lo hi
    let key := fun m n => (tAccrow t + m) * 128 + n
    let gl := tGroup t
    let k0 := lo / tEs t / gl
    let copied := (s.multicast w (tAmask t) (tAmoff t) (tAlvl t) (tAaddr t) (tM t) lo hi).multicast w (tBmask t) (tBmoff t)
      (tBlvl t) (tBaddr t) (tN t) lo hi
    (s.engine clus).busy = some w → (s.wg w).chain = x :: rest → tOpc t = 0 → x.begun = true → x.done = false →
    x.kstep < tSteps t → a.2 = false → b.2 = false →
    (∀ y ∈ scaleBytes t k0 (Nat.min (tGroups t) ((lo / tEs t + 384 / tEs t) / gl)), s.ms.poisoned (locScl w y) = false) →
      ∃ u, exec (.mma clus) s = .next u ∧
        (u.wg w).chain = { x with kstep := x.kstep + 1, done := decide (tSteps t ≤ x.kstep + 1) } :: rest ∧ u.ms = copied.ms ∧
        SameUnits s u ∧
        (tAtype t = 4 → ∀ m n, m < tM t → n < tN t → Tab.get (u.wg w).acc (key m n) = Tab.get (s.wg w).acc (key m n) +
          BitVec.ofInt 32 (((a.1.getD m []).zip (b.1.getD n [])).map (fun p => sextN 8 p.1 * sextN 8 p.2)).sum) ∧
        (tAtype t ≠ 4 → ∀ m n, m < tM t → n < tN t → Tab.get (u.wg w).acc (key m n) = BitVec.ofNat 32
          ((List.range (((hi - lo) / tEs t + gl - 1) / gl)).foldl (fun c j =>
            let ps := (((a.1.getD m []).drop (j * gl)).take gl).zip (((b.1.getD n []).drop (j * gl)).take gl)
            let ps := ps.map (fun p => elProd ((fmtOf (opType (tAtype t))).decode p.1) ((fmtOf (opType (tBtype t))).decode p.2))
            let sc := copied.scales w t (k0 + j) m n
            promote c (elProd (elProd (groupSum (if tAtype t = 2 then truncate ps else ps)) sc.1) sc.2))
            (Tab.get (s.wg w).acc (key m n)).toNat)) ∧
        (∀ k, (∀ m n, m < tM t → n < tN t → k ≠ key m n) → Tab.get (u.wg w).acc k = Tab.get (s.wg w).acc k)) ∧
  (∀ (s : State) (w mask off lvl a rows lo hi y : Nat),
    let rel := canonBytes rows lo hi
    let bs := (s.opLocs w lvl a rel).map (fun z => match z with
      | some z => s.ms.readByte (s.clusInst w) .matrix z
      | none => 0#8)
    Memory.read (s.multicast w mask off lvl a rows lo hi).ms.mem y =
      Memory.read (((List.range 8).filter (fun j => mask.testBit j)).foldl (fun m j => match s.memberOf w j with
        | none => m
        | some v => (rel.zip bs).foldl (fun m p => Memory.write m (locCst v (off + p.1)) p.2) m) s.ms.mem) y) ∧
  (∀ (x y : FV), ((x.isNan = true ∨ y.isNan = true ∨ (x.isZero = true ∧ ∃ b, y = .inf b) ∨ (y.isZero = true ∧ ∃ b, x = .inf b)) →
      (elProd x y).isNan = true) ∧
    (∀ b, x = .inf b → y.isNan = false → y.isZero = false → elProd x y = .inf (b != y.sign) ∧ elProd y x = .inf (b != y.sign)) ∧
    (FvFin x → FvFin y → FvFin (elProd x y) ∧ fvNum (elProd x y) = fvNum x * fvNum y)) ∧
  (∀ (ps : List FV),
    (((∃ p ∈ ps, p.isNan = true) ∨ (.inf false ∈ ps ∧ .inf true ∈ ps)) → (groupSum ps).isNan = true) ∧
    (∀ b, (∀ p ∈ ps, p.isNan = false) → .inf b ∈ ps → .inf (!b) ∉ ps → groupSum ps = .inf b) ∧
    ((∀ p ∈ ps, FvFin p) → FvFin (groupSum ps) ∧ fvNum (groupSum ps) = (ps.map fvNum).sum)) ∧
  (∀ (xs : List (Nat × Nat)) (top : Int),
    let val := fun (p : Nat × Nat) => elProd ((fmtOf 13).decode p.1) ((fmtOf 13).decode p.2)
    let ex := fun (x : Nat) => ((max (x / 2 ^ 7 % 2 ^ 8) 1 : Nat) : Int) - 127
    let counts := fun (p : Nat × Nat) => FvFin (val p) ∧ fvNum (val p) ≠ 0
    (∃ p ∈ xs, counts p ∧ ex p.1 + ex p.2 = top) → (∀ p ∈ xs, counts p → ex p.1 + ex p.2 ≤ top) →
      (truncate (xs.map val)).length = xs.length ∧
      ∀ (k : Nat) (p : Nat × Nat) (r : FV), xs[k]? = some p → (truncate (xs.map val))[k]? = some r →
        (¬FvFin (val p) → r = val p) ∧
        (FvFin (val p) → FvFin r ∧ fvNum r = (if fvNum (val p) < 0 then -1 else 1) *
          (⌊|fvNum (val p)| / (2 : ℚ) ^ (top - 48)⌋ : ℚ) * (2 : ℚ) ^ (top - 48))) ∧
  (∀ (c : Nat) (v : FV),
    let x := (fmtOf 14).decode c
    ((x.isNan = true ∨ v.isNan = true ∨ ∃ b, x = .inf b ∧ v = .inf (!b)) → promote c v = 0x7FC00000) ∧
    (∀ b, (x = .inf b ∧ (FvFin v ∨ v = .inf b)) ∨ (FvFin x ∧ v = .inf b) →
      promote c v = if b then 0xFF800000 else 0x7F800000) ∧
    (FvFin x → FvFin v → fvNum x + fvNum v = 0 → promote c v = 0) ∧
    (FvFin x → FvFin v → fvNum x + fvNum v ≠ 0 → ∃ (m : Nat) (e : Int), (m : ℚ) * (2 : ℚ) ^ e = |fvNum x + fvNum v| ∧
      promote c v = ((fmtOf 14).round 1 false (decide (fvNum x + fvNum v < 0)) m e).bits)) ∧
  (∀ (s : State) (w : Nat) (t : BitVec 512) (g m n : Nat),
    let num := fun (k b : Nat) => leNat (s.ms.read (s.clusInst w) .matrix (locs (locScl w b) k))
    let pow := fun (x : Nat) => if x = 255 then FV.nan false true 0 else .fin false 1 ((x : Int) - 127)
    (tSmode t = 0 → s.scales w t g m n = (.fin false 1 0, .fin false 1 0)) ∧
    (tSmode t = 1 → s.scales w t g m n =
      ((fmtOf 14).decode (num 4 (tSaoff t + 512 * g + 4 * m)), (fmtOf 14).decode (num 4 (tSboff t + 4 * g)))) ∧
    (tSmode t = 2 → s.scales w t g m n = (pow (num 1 (tSaoff t + 128 * g + m)), pow (num 1 (tSboff t + 128 * g + n)))))

/-- CLAIM puts its slot into WALKING with the copies it takes and parks (R231); FLOW queues a flow on a LIVE slot with pD = 1, and
gives pD = 0 otherwise (R232); CLREL releases (R234); CLQRY reads the slot's state word (R235). Their traps: an N beyond CLAIMS,
the operand, barrier-link and slot-state checks of CLAIM in their order, the record kinds and permissions (R231), the bounds of
FLOW (R232) and CLREL of a walking slot (R234); a FLOW of a full chain waits. A walk whose checks, pages and pins go through makes
its slot LIVE and lets the CLAIM's split go on (R236, R237); one that meets a bad address or a missing permission traps and leaves
the slot FREE; the first side that is bad is named, source before destination. -/
def Obligations.Claims : Prop :=
  (∀ (w : FullWord) (s : State) (c : Issue),
    let g := c.g s
    let r := s.wg c.wg
    let n := w.dst.toNat % 64
    let m := w.sa.toNat % 64
    let slot := fun (u : State) k => Tab.get (u.wg c.wg).slots k
    let x := (c.newSlot g).1
    let y := slot s m
    let o := (c.srcB g 64 c.low).toNat
    let l := (g.src c.low w.sc).toNat
    (Ready 0xD2 w s c → n < hdrClaims (s.hdr c.wg) → s.claimBad c.wg x = false → s.linkBad c.wg x = none →
      x.kindTrap (c.newSlot g).2.1 (c.newSlot g).2.2 = none → (slot s n).st ≠ .walking → (slot s n).st ≠ .live →
      (r.flowsOf n).isEmpty = true → (∃ i, i < 32 ∧ c.lanes.getLsbD i = false ∧ (g.thread i).st = .exec) →
      ∃ t, exec (.claim w) s = .next t ∧ slot t n = x ∧ x.st = .walking ∧ x.why = 0#5 ∧ t.ms = s.ms ∧
        SameRegisters g (c.g t) ∧
        (∀ i, i < 32 → c.lanes.getLsbD i = true → ((c.g t).thread i).st = .parked ∧ ((c.g t).thread i).pc = c.pc)) ∧
    (Ready 0xD3 w s c → m < hdrClaims (s.hdr c.wg) → y.st = .live → 1 ≤ l → l ≤ 0x100000 → o + l ≤ y.len → o % y.align = 0 →
      l % y.align = 0 → r.flows.length < 64 →
      ∃ t f, exec (.flow w) s = .next t ∧ (t.wg c.wg).flows = r.flows ++ [f] ∧ f.slot = m ∧ f.off = o ∧ f.len = l ∧
        f.started = false ∧ f.cell = (if w.xb / 32 % 2 = 1 then none else some (BitVec.ofNat 5 (w.xb % 32))) ∧
        (∀ i j, i < 32 → j < 8 → (c.g t).pGet i j = if c.act.getLsbD i ∧ j = w.dst.toNat % 8 then true else g.pGet i j) ∧
        t.ms = s.ms ∧ SameValues g (c.g t) ∧ SameSystem g (c.g t) ∧ NextWord c g (c.g t)) ∧
    (Ready 0xD3 w s c → m < hdrClaims (s.hdr c.wg) → y.st ≠ .live →
      ∃ t, exec (.flow w) s = .next t ∧ (t.wg c.wg).flows = r.flows ∧
        (∀ i j, i < 32 → j < 8 → (c.g t).pGet i j =
          if c.act.getLsbD i ∧ j = w.dst.toNat % 8 ∧ j ≠ 0 then false else g.pGet i j) ∧
        t.ms = s.ms ∧ SameValues g (c.g t) ∧ NextWord c g (c.g t)) ∧
    (Ready 0xD4 w s c → n < hdrClaims (s.hdr c.wg) → (slot s n).st ≠ .walking →
      ∃ t, exec (.clrel w) s = .next t ∧ (slot t n).st = (match (slot s n).st with
        | .live | .lapsed => if (r.flowsOf n).isEmpty then .free else .released
        | st => st) ∧ t.ms = s.ms ∧ SameRegisters g (c.g t) ∧ NextWord c g (c.g t)) ∧
    (Ready 0xD5 w s c → m < hdrClaims (s.hdr c.wg) →
      ∃ t q, exec (.clqry w) s = .next t ∧ OnlyGang c.wg c.gang s t ∧ Results c (fun _ => some q) g (c.g t) ∧
        q.toNat / 2 ^ 61 = y.st.code ∧ q.toNat / 2 ^ 56 % 2 ^ 5 = y.why.toNat ∧ q.toNat / 2 ^ 53 % 2 ^ 3 = y.kind.toNat ∧
        q.toNat / 2 ^ 52 % 2 = (if y.bl then 1 else 0) ∧ q.toNat / 2 ^ 45 % 2 ^ 7 = (r.flowsOf m).length % 2 ^ 7 ∧
        q.toNat / 2 ^ 25 % 2 ^ 20 = 0 ∧ q.toNat % 2 ^ 25 = y.len % 2 ^ 25 ∧ SameControls g (c.g t) ∧ NextWord c g (c.g t)) ∧
    (Ready 0xD3 w s c → m < hdrClaims (s.hdr c.wg) → y.st = .live → 1 ≤ l → l ≤ 0x100000 → o + l ≤ y.len → o % y.align = 0 →
      l % y.align = 0 → 64 ≤ r.flows.length → (∃ i, i < 32 ∧ c.lanes.getLsbD i = false ∧ (g.thread i).st = .exec) →
      ∃ t p, exec (.flow w) s = .next t ∧ (t.wg c.wg).flows = r.flows ∧ (c.g t).parks = g.parks ++ [p] ∧ p.why = .flowFull ∧
        p.lanes = c.lanes ∧ p.pc = c.pc ∧ SameRegisters g (c.g t)) ∧
    (let traps := fun (o : Host.Outcome State Fault Refusal) (cause tinfo : Nat) => ∃ t, o = .next t ∧
       OnlyGang c.wg c.gang s t ∧ Trapped c cause c.act (word tinfo) c.pc g (c.g t)
     let kind := w.xb % 8
     let opt := w.xb / 8 % 4
     let len := (g.src c.low w.sc).toNat
     let size := len % 2 ^ 25
     let off := len / 2 ^ 32 % 2 ^ 24
     let lim := (if len / 2 ^ 62 % 2 = 1 then hdrKstk (s.hdr c.wg) else hdrCstk (s.hdr c.wg)) * 1024
     let dS := g.dGet (w.sa.toNat % 16)
     let dD := g.dGet (w.sb.toNat % 16)
     let vo := (g.src c.low w.sb).toNat
     let bad := 6 ≤ kind ∨ ((kind = 2 ∨ kind = 5) ∧ opt = 3) ∨ size = 0 ∨ 0x1000000 < size ∨
       (kind = 1 ∧ (expandSteps dD * 49152 < size ∨ size % 49152 ≠ 0)) ∨ (kind ≠ 1 ∧ flowBytes dS < size) ∨
       (kind ∈ [0, 3, 4, 5] ∧ flowBytes dD < size) ∨ (kind = 3 ∧ 0x1000000 < flowBytes dS) ∨
       (kind = 2 ∧ (vo % 64 ≠ 0 ∨ hdrScalek (s.hdr c.wg) * 1024 < vo + size)) ∨
       formatsOk x.kind.toNat x.opt.toNat x.ds x.dd = false
     let link := len / 2 ^ 63 = 1
     CanTrap c s →
     (Ready 0xD2 w s c →
       (hdrClaims (s.hdr c.wg) ≤ n → traps (exec (.claim w) s) 0x03 n) ∧
       (n < hdrClaims (s.hdr c.wg) →
         (bad → traps (exec (.claim w) s) 0x01 6) ∧
         (¬bad → link → off % 16 ≠ 0 → traps (exec (.claim w) s) 0x01 6) ∧
         (¬bad → link → off % 16 = 0 → lim < off + 16 → traps (exec (.claim w) s) 0x03 off) ∧
         (¬bad → ¬(link ∧ (off % 16 ≠ 0 ∨ lim < off + 16)) →
           (recKind dS = 0x10 → traps (exec (.claim w) s) 0x0D (recBase dS)) ∧
           (recKind dS ≠ 0x10 → recKind dS ∉ [0x01, 0x02, 0x03, 0x11, 0x20, 0x21, 0x22] → traps (exec (.claim w) s) 0x05 0) ∧
           (recKind dS ∈ [0x01, 0x02, 0x03, 0x11, 0x20, 0x21, 0x22] →
             (kind ≠ 2 → recKind dD = 0x11 → traps (exec (.claim w) s) 0x0D (recBase dD)) ∧
             (kind = 0 ∨ kind = 3 → recKind dD ∉ [0x01, 0x02, 0x03, 0x11, 0x20, 0x21, 0x22] →
               traps (exec (.claim w) s) 0x05 0) ∧
             (kind = 1 → recKind dD ∉ [0x11, 0x20, 0x21] → traps (exec (.claim w) s) 0x05 0) ∧
             (kind = 4 ∨ kind = 5 → recKind dD ∉ [0x10, 0x11] → traps (exec (.claim w) s) 0x05 0) ∧
             (kind = 4 ∨ kind = 5 → recKind dD = 0x10 → recR dS = false → traps (exec (.claim w) s) 0x0D (recBase dS)) ∧
             (kind = 4 ∨ kind = 5 → recKind dD = 0x10 → recR dS = true → recW dD = false →
               traps (exec (.claim w) s) 0x0D (recBase dD)))) ∧
         (∀ cause tinfo, ¬bad → ¬(link ∧ (off % 16 ≠ 0 ∨ lim < off + 16)) →
           x.kindTrap (c.newSlot g).2.1 (c.newSlot g).2.2 = some (cause, tinfo) → traps (exec (.claim w) s) cause tinfo) ∧
         (¬bad → ¬(link ∧ (off % 16 ≠ 0 ∨ lim < off + 16)) → x.kindTrap (c.newSlot g).2.1 (c.newSlot g).2.2 = none →
           (slot s n).st = .walking ∨ (slot s n).st = .live → traps (exec (.claim w) s) 0x01 6))) ∧
     (Ready 0xD3 w s c → (hdrClaims (s.hdr c.wg) ≤ m → traps (exec (.flow w) s) 0x03 m) ∧
       (m < hdrClaims (s.hdr c.wg) → y.st = .live →
         l = 0 ∨ 0x100000 < l ∨ y.len < o + l ∨ o % y.align ≠ 0 ∨ l % y.align ≠ 0 → traps (exec (.flow w) s) 0x01 6)) ∧
     (Ready 0xD4 w s c → (hdrClaims (s.hdr c.wg) ≤ n → traps (exec (.clrel w) s) 0x03 n) ∧
       (n < hdrClaims (s.hdr c.wg) → (slot s n).st = .walking → traps (exec (.clrel w) s) 0x01 6)) ∧
     (Ready 0xD5 w s c → hdrClaims (s.hdr c.wg) ≤ m → traps (exec (.clqry w) s) 0x03 m))) ∧
  (∀ (s s1 : State) (w n g : Nat) (p : Park),
    let x := Tab.get (s.wg w).slots n
    let s0 := s.modGang w g (fun y => { y with parks := y.parks.map (fun z => if z.id = p.id then { z with ready := none } else z) })
    s.claimant w n = some (g, p) → p.why = .walk n none → (s.gang w g).parkOf p.id = some p → p.lanes ≠ 0#32 →
    (s0.walkPages w n = (.go, s1) → x.kind.toNat < 4 → s1.gang w g = s0.gang w g →
      ∃ t, exec (.claimWalk w n) s = .next t ∧ (Tab.get (t.wg w).slots n).st = .live ∧ GoesOn p (s.gang w g) (t.gang w g) ∧
        t.ms = s1.ms ∧ SameRegisters (s.gang w g) (t.gang w g)) ∧
    (∀ cause a, s0.walkPages w n = (.bad cause a, s1) → s1.gang w g = s0.gang w g → (s.gang w g).inTrap = false →
      (s.gang w g).inUi = false → codeAddr (s.gang w g).tvec ≠ 0#64 →
      ∃ t, exec (.claimWalk w n) s = .next t ∧ (Tab.get (t.wg w).slots n).st = .free ∧ (t.gang w g).inTrap = true ∧
        (t.gang w g).tcause = word cause ∧ (t.gang w g).tinfo = word a ∧ (t.gang w g).tmask = word p.act.toNat) ∧
    (∀ e rest cause a, x.sides = e :: rest → s0.sideBad w e = some (cause, a) → (s0.walkPages w n).1 = .bad cause a))

/-- The reassembly handshake (R238, R239): a HAND for a window that admits it takes a credit while the unit has one, waits when it
has none, and is refused otherwise; a release gives a credit back. An answer is kept in its member's hand: when every member of a
walk that has gone through has granted, its slot is LIVE and the CLAIM's split goes on; a refusal traps with CLAIM_PERM. A walk
whose members have not answered in time parks with ROUTE, reported to the guest's fault queue. A flow starts when its chain comes
to it, with all its units to move (R230, R240), every byte in one unit, those of one 64-byte unit of the destination in one, and
those of an MX block with its scale (R92, R93). Its units are read within its turns and written in any order, each when its bytes
have been read (R90); a unit of a copy flow writes what has been read at its source; a packet of a reflect or reduce flow enters
the queue of every member of the window, in ascending order of address (R94, R258, R259). With every unit written and nothing of
it on its way a flow completes: it leaves its chain and raises its cell by 1 (R233). A flow whose destination is lost leaves its
chain with its packets, and its claim is LAPSED with SEVERED (R243, R244). That ROUTE is reported there, that a release is
answered, and that a turn is counted in the bytes read are the model's readings (assumptions 62, 75 and 83). -/
def Obligations.HandshakesAndFlows : Prop :=
  ((∀ (s : State) (h : Handshake),
    let free := decide ((s.fab.credits.filter (fun c => c.die == s.servingDie h.rwin.toNat)).length < 4096)
    let o := exec (.claimHandshake h) s
    (h.release = false → s.handCode h = 0 → free = true →
      ∃ t, o = .next t ∧ t.fab.credits = s.fab.credits ++ [{ die := s.servingDie h.rwin.toNat, hand := h }] ∧
        t.fab.ctl.length = s.fab.ctl.length + 1 ∧ (∀ q ∈ t.fab.hands, q ≠ h) ∧ t.ms = s.ms ∧ t.wgs = s.wgs) ∧
    (h.release = false → s.handCode h = 0 → free = false →
      ∃ t, o = .next t ∧ t.fab.credits = s.fab.credits ∧ t.fab.ctl = s.fab.ctl ∧ h ∈ t.fab.hands ∧ t.ms = s.ms) ∧
    (h.release = false → s.handCode h ≠ 0 →
      ∃ t, o = .next t ∧ t.fab.credits = s.fab.credits ∧ t.fab.ctl.length = s.fab.ctl.length + 1 ∧ (∀ q ∈ t.fab.hands, q ≠ h) ∧
        t.ms = s.ms ∧ t.wgs = s.wgs) ∧
    (h.release = true →
      ∃ t, o = .next t ∧ (∀ c, c ∈ t.fab.credits ↔ c ∈ s.fab.credits ∧
          ¬(c.hand.pkg = h.pkg ∧ c.hand.sctx = h.sctx ∧ c.hand.ask = h.ask)) ∧
        t.fab.ctl.length = s.fab.ctl.length + 1 ∧ t.ms = s.ms ∧ t.wgs = s.wgs)) ∧
  (∀ (s : State) (w n pkg g : Nat) (p : Park) (code : BitVec 8),
    let x := Tab.get (s.wg w).slots n
    let hands := x.hands.map (fun h => if h.pkg.toNat = pkg ∧ h.waits then
      (if code = 0 then { h with granted := true } else { h with refused := code }) else h)
    let y := (s.freeWalk w n).gang w g
    let o := exec (.handshakeResponse w n pkg code) s
    x.st = .walking → x.hands.any (fun h => h.pkg.toNat == pkg && h.waits) = true → s.claimant w n = some (g, p) →
    p.why = .walk n none → p.lanes ≠ 0#32 →
    (x.staged = false → ∃ t, o = .next t ∧ (Tab.get (t.wg w).slots n).hands = hands ∧ (Tab.get (t.wg w).slots n).st = .walking ∧
      t.ms = s.ms ∧ SameDevice s t) ∧
    (x.staged = true → hands.all (fun h => h.refused == 0) = true →
      (txMembers x.win).all (fun k => hands.any (fun h => h.pkg.toNat == k && h.granted)) = true →
      ∃ t, o = .next t ∧ (Tab.get (t.wg w).slots n).st = .live ∧ GoesOn p y (t.gang w g) ∧ SameRegisters y (t.gang w g) ∧
        t.ms = s.ms ∧ SameDevice s t) ∧
    (x.staged = true → code ≠ 0 → y.inTrap = false → y.inUi = false → codeAddr y.tvec ≠ 0#64 →
      ∃ t, o = .next t ∧ (Tab.get (t.wg w).slots n).st = .free ∧ (t.gang w g).inTrap = true ∧ (t.gang w g).tcause = 0x0D#64 ∧
        (t.gang w g).tinfo = word (recBase x.dd) ∧ (t.gang w g).tmask = word p.act.toNat ∧ t.ms = s.ms)) ∧
  (∀ (s : State) (w n g : Nat) (p : Park),
    let x := Tab.get (s.wg w).slots n
    let key := s.ctxKey w
    x.staged = true → x.hands.any (fun h => h.waits && !s.fab.hands.any (fun q => q.ask.toNat == h.ask && q.sctx == s.ctxid key)) = true →
    s.claimant w n = some (g, p) → p.why = .walk n none →
    ∃ t num, exec (.handshakeTimeout w n) s = .next t ∧
      (Tab.get (t.wg w).slots n).hands = x.hands.filter (fun h => !h.waits) ∧
      { p with why := .walk n (some (3#8, word (recBase x.dd), num)), since := s.cycle } ∈ (t.gang w g).parks ∧
      ∃ r ∈ t.sched.reports, r.num = num ∧ r.queue = .guest key ∧ r.wg = w ∧ r.gang = g ∧ r.park = p.id ∧
        r.bytes = reportBytes 3 false true key r.token (word (recBase x.dd)) (s.wid w g ((lowest p.act).getD 0))
          (s.launch (s.wg w).launch).id p.act)) ∧
  (∀ (s : State) (w : Nat) (f : Flow),
    let r := s.wg w
    let x := Tab.get r.slots f.slot
    (r.nextFlow = some f → r.hasRegion = true → ∃ t, exec (.flowStart w f.id) s = .next t ∧
      (t.wg w).flows = r.flows.map (fun y => if y.id = f.id then { y with started := true, mv := s.flowXfer w x f } else y) ∧
      t.ms = s.ms ∧ SameDevice s t ∧ (∀ v h, t.gang v h = s.gang v h)) ∧
    (let v := s.flowXfer w x f
     (x.kind.toNat < 4 → v.writes.flatten.Perm (f.targets x) ∧
       (∀ u ∈ v.writes, ∀ a b y z, a ∈ u → b ∈ f.targets x → s.flowDst w x f a = .loc y → s.flowDst w x f b = .loc z →
         y / 8 / 64 = z / 8 / 64 → y % 8 = z % 8 → b ∈ u) ∧
       (∀ u ∈ v.writes, ∀ j k e, x.kind = 0 → isMx (recEfmt x.dd) = true → 2 * j ∈ u → 2 * k + 1 ∈ f.targets x →
         (f.scales x)[k]? = some e → e.2 = scaleOf x.dd x.ld j → 2 * k + 1 ∈ u)) ∧
     (4 ≤ x.kind.toNat → v.writes.flatten = (byAddress x.dd f.off f.len).map (2 * ·))) ∧
    (r.flowOn f.id = some f →
      (f.mv.writes ≠ [] ∨ s.flowOut w f.id = true → exec (.flowComplete w f.id) s = .next s) ∧
      (f.mv.writes = [] → s.flowOut w f.id = false → r.hasRegion = true → x.bl = false → x.st = .live →
        ∃ t, exec (.flowComplete w f.id) s = .next t ∧ (t.wg w).flows = r.flows.filter (fun y => y.id != f.id) ∧
          t.ms = s.ms ∧ SameDevice s t ∧
          ∀ q, Tab.get (t.wg w).q q = Tab.get r.q q + if f.cell = some (BitVec.ofNat 5 q) ∧ q < 32 then 1 else 0) ∧
      (∀ k u, f.mv.reads[k]? = some u → f.mv.got.length < f.mv.quota → let t := s.flowRead w f.id k
        t.ms = s.ms ∧ SameDevice s t ∧ (∀ v h, t.gang v h = s.gang v h) ∧ ∃ z, (t.wg w).flowOn f.id = some z ∧ z.mv.writes = f.mv.writes ∧
          (∀ b ∈ u, Tab.get z.mv.got b = some (s.readFlow w (s.flowSrc w x f b))) ∧
          ∀ b, b ∉ u → Tab.get z.mv.got b = Tab.get f.mv.got b) ∧
      (∀ k, f.mv.quota ≤ f.mv.got.length → ∃ z, ((s.flowRead w f.id k).wg w).flowOn f.id = some z ∧ z.mv.got = f.mv.got ∧
        z.mv.writes = f.mv.writes) ∧
      (∀ k u, x.kind = 0 → f.mv.writes[k]? = some u → (∃ b ∈ u, Tab.get f.mv.got b = none) → s.flowWrite w f.id k = s) ∧
      (∀ k u, x.kind = 0 → f.mv.writes[k]? = some u → (∀ b ∈ u, b % 2 = 0 ∧ Tab.get f.mv.got b ≠ none) → let t := s.flowWrite w f.id k
        (∀ y, Memory.read t.ms.mem y = Memory.read ((u.filterMap (fun b => match s.flowByte w x x.dd true (b / 2), Tab.get f.mv.got b with
            | .loc y, some v => some (y, v.1)
            | _, _ => none)).foldl (fun m e => Memory.write m e.1 e.2) s.ms.mem) y) ∧
          ∃ z, (t.wg w).flowOn f.id = some z ∧ z.mv.writes = f.mv.writes.eraseIdx k) ∧
      (∀ k e off b u rest, x.kind = 4#3 ∨ x.kind = 5#3 → f.mv.writes = (b :: u) :: rest → s.flowByte w x x.dd true (b / 2) = .win e off →
        (∀ y ∈ b :: u, Tab.get f.mv.got y ≠ none) → let t := s.flowWrite w f.id k
        t.ms = s.ms ∧ t.fab.rq.length = s.fab.rq.length + txCount e ∧
          t.fab.rq.take s.fab.rq.length = s.fab.rq ∧
          (∃ z, (t.wg w).flowOn f.id = some z ∧ z.mv.writes = rest) ∧
          ∀ k, k < txCount e → ∃ z, t.fab.rq[s.fab.rq.length + k]? = some z ∧ z.key = s.queueOf (s.ctxKey w) e (recPath x.dd) k ∧ z.member = k ∧
            z.kind = (if x.kind = 5#3 then 3#6 else 2#6) ∧ z.woff = off ∧ z.ord = false ∧ z.flow = some (w, f.id) ∧
            z.rop = (if x.kind = 5#3 then BitVec.ofNat 4 (ropOf x.opt.toNat (recEfmt x.dd)) else 0#4) ∧
            z.bytes.map some = (b :: u).map (fun y => (Tab.get f.mv.got y).map Prod.fst)) ∧
      (x.kind = 4#3 → s.destLost x = true → ∃ t, exec (.flowSevered w f.id) s = .next t ∧ (∀ y ∈ (t.wg w).flows, y.id ≠ f.id) ∧
        (∀ e ∈ t.fab.rq, e.flow ≠ some (w, f.id)) ∧
        (x.st = .live → x.when ≠ s.cycle ∨ x.why = 0 → (Tab.get (t.wg w).slots f.slot).st = .lapsed ∧
          (Tab.get (t.wg w).slots f.slot).why = 5))) ∧
    (byAddress x.dd f.off f.len).Perm ((List.range f.len).map (f.off + ·)) ∧
    (byAddress x.dd f.off f.len).Pairwise (fun a b => (flowAddr x.dd a).1 ≤ (flowAddr x.dd b).1))

/-! ## Windows, user interrupts, launches, system registers -/

/-- RFENCE with every counted store acknowledged returns the failure accumulator and restarts it; its query form returns the four
counts of the gang, each saturating at 0xFFFF (R97, R277). PULL stores eight registers through its window (R276). -/
def Obligations.WindowFences : Prop :=
  ∀ (w : FullWord) (s : State) (c : Issue),
    let g := c.g s
    let count := fun p => (s.fab.outst.filter (fun o => o.wg == c.wg && o.gang == c.gang && o.path.toNat == p)).length
    (Ready 0xE0 w s c → (s.fab.outst.any (fun o => decide (o.id < s.fab.nextId) && s.mine c.wg c.gang c.scope o)) = false →
      ∃ t, exec (.rfence w) s = .next t ∧ OnlyGang c.wg c.gang s t ∧
        Results c (fun _ => some (word (g.fCode.toNat * 2 ^ 16 + g.fMask.toNat))) g (c.g t) ∧ (c.g t).fCode = 0 ∧
        (c.g t).fMask = 0 ∧ (c.g t).p = g.p ∧ (c.g t).k = g.k ∧ (c.g t).d = g.d ∧ NextWord c g (c.g t)) ∧
    (Ready 0xE0 w s c → ∃ t, exec (.rfenceQ w) s = .next t ∧ OnlyGang c.wg c.gang s t ∧ SameControls g (c.g t) ∧
      NextWord c g (c.g t) ∧ ∃ x, Results c (fun _ => some x) g (c.g t) ∧
        ∀ p, p < 4 → x.toNat / 2 ^ (16 * p) % 2 ^ 16 = min (count p) 0xFFFF) ∧
    (∀ (s1 : State) (p : Plan) (q : LanePlan),
      let d := g.dGet (w.sc.toNat % 16)
      let i := c.low
      let regs := fun (i : Nat) => (List.range 8).map (fun j => g.vGet i (w.sb.toNat + j))
      let l : RecLane := { lane := i, idx := (c.srcA g i).toNat, row := idxRow (c.srcA g i).toNat, el := idxEl (c.srcA g i).toNat }
      let s0 := c.uniform (fun i => c.srcA g i :: regs i) (c.warn (c.f.warns c.op w) s)
      let a := c.origin s1
      Ready 0xE1 w s c → recPerm d .store = none → RecLane.out d 64 l = false → recKind d = 0x10 → recVirtual d l % 64 = 0 →
      c.mustWait s = false → (c.release s0).planVirtual (c.key s) 0x10 .store [(i, recVirtual d l)] 64 = (p, s1) → p.go = [q] →
      ∃ t, exec (.pull w) s = .next t ∧ t.ms = s1.ms ∧ SameRegisters g (c.g t) ∧ NextWord c g (c.g t) ∧
        t.fab = (a.2.windowLane c.wg c.gang q (c.path d) ((regs i).flatMap (fun x => leBytes 8 x.toNat)) (w.xb / 128 % 2 == 1) a.1).fab)

/-- An interrupt that its target's sender table permits is applied: its vector pends, its count rises or starts at 1, and its
payload is kept (R278, R304, R305); UICLR clears the vectors of its mask (R281). Delivery (R279, R305, R306): a UIWAIT of the
handler gang takes the lowest deliverable vector and its payload at once, or parks and takes them when they are delivered to the
waiting gang, which goes on; a handler gang that runs is diverted to the vector's handler, its threads in one split there, with
v120 to v127 and p4 to p7 exchanged with the bank, and its splits, parks, threads and latches saved; UIRET restores them and
exchanges back (R280), so that from what a diversion left, UIRET leaves every register, predicate, latch, park and thread as the
diversion found it. That a vector with handler address 0 blocks the higher ones is the model's reading (assumption 54). -/
def Obligations.UserInterrupts : Prop :=
  ((∀ (w : FullWord) (s : State) (c : Issue),
    let g := c.g s
    let a := c.srcA g c.low
    let b := (c.srcB g 64 c.low).toNat
    let tgt : BitVec 32 := a.setWidth 32
    let key := idKey tgt
    let x := s.ctx key
    Ready 0xE2 w s c → b < 64 → a.toNat < 2 ^ 32 → idHost tgt = false → s.idSelf tgt = true → x.present = true → x.ending = none →
    (∀ u : State, u.ctxs = s.ctxs → u.vifs = s.vifs → u.ms.mem = s.ms.mem → u.uiPermits key (s.ctxid (c.key s)) b = true) →
      ∃ t, exec (.uint w) s = .next t ∧ Word.bit (t.ctx key).uipend b = true ∧ Tab.get (t.ctx key).payload b = c.rdC g c.low ∧
        Tab.get (t.ctx key).count b = (if Word.bit x.uipend b then (if Tab.get x.count b = 0xFFFF#16 then 0xFFFF#16
          else Tab.get x.count b + 1) else 1) ∧
        (∀ v, v < 64 → v ≠ b → Word.bit (t.ctx key).uipend v = Word.bit x.uipend v) ∧ t.ms.mem = s.ms.mem ∧
        SameRegisters g (c.g t) ∧ NextWord c g (c.g t)) ∧
  (∀ (s : State) (sender tgt : BitVec 32) (vec : BitVec 6) (pay : Word) (host : Bool), idHost tgt = false → s.idSelf tgt = true →
    (s.ctx (idKey tgt)).present = true →
      ((s.ctx (idKey tgt)).ending = none → s.uiPermits (idKey tgt) sender vec.toNat = true →
        ∃ t, exec (.uintArrive sender tgt vec pay host) s = .next t ∧ Word.bit (t.ctx (idKey tgt)).uipend vec.toNat = true ∧
          Tab.get (t.ctx (idKey tgt)).payload vec.toNat = pay ∧ t.ms = s.ms ∧ t.wgs = s.wgs) ∧
      ((s.ctx (idKey tgt)).ending.isSome = true → ∃ t, exec (.uintArrive sender tgt vec pay host) s = .next t ∧
        (t.ctx (idKey tgt)).uipend = (s.ctx (idKey tgt)).uipend ∧ t.wgs = s.wgs)) ∧
  (∀ (w : FullWord) (s : State) (c : Issue), Ready 0xE5 w s c →
    ∃ t, exec (.uiclr w) s = .next t ∧ (t.ctx (c.key s)).uipend = (s.ctx (c.key s)).uipend &&& ~~~c.srcA (c.g s) c.low ∧
      (∀ v, v < 64 → (c.srcA (c.g s) c.low).getLsbD v = true → Tab.get (t.ctx (c.key s)).count v = 0) ∧ t.ms = s.ms ∧
      SameRegisters (c.g s) (c.g t) ∧ NextWord c (c.g s) (c.g t))) ∧
  ((∀ (w : FullWord) (s : State) (c : Issue) (vec : Nat),
    let x := s.ctx (c.key s)
    Ready 0xE3 w s c → s.isHandler (c.key s) c.wg c.gang = true → x.deliverable = some vec →
    ∃ t, exec (.uiwait w) s = .next t ∧ Word.bit (t.ctx (c.key s)).uipend vec = false ∧
      (c.g t).uivec = word ((Tab.get x.count vec).toNat * 2 ^ 16 + vec) ∧ (c.g t).uipay = Tab.get x.payload vec ∧
      (∀ i, c.on i → w.dst.toNat ≠ w.sa.toNat % 128 → (c.g t).vGet i w.dst.toNat = word vec) ∧
      (∀ i, c.on i → (c.g t).vGet i (w.sa.toNat % 128) = Tab.get x.payload vec) ∧ t.ms.mem = s.ms.mem ∧ NextWord c (c.g s) (c.g t)) ∧
  (∀ (w : FullWord) (s : State) (c : Issue), Ready 0xE3 w s c → s.isHandler (c.key s) c.wg c.gang = true →
    (s.ctx (c.key s)).deliverable = none → (∀ q ∈ (c.g s).parks, q.lanes &&& c.lanes = 0#32) →
    ∃ t p, exec (.uiwait w) s = .next t ∧ SameRegisters (c.g s) (c.g t) ∧ t.ctxs = s.ctxs ∧ t.ms = s.ms ∧ p ∈ (c.g t).parks ∧
      p.lanes = c.lanes ∧ p.act = c.act ∧ p.pc = c.pc ∧ p.why = .uiwait w.dst (w.sa.setWidth 7) ∧
      (∀ i, i < 32 → c.lanes.getLsbD i = true → ((c.g t).thread i).st = .parked ∧ ((c.g t).thread i).pc = c.pc)) ∧
  (∀ (s : State) (key w g vec : Nat) (p : Park) (vv vp : BitVec 7),
    let x := s.ctx key
    let y := s.gang w g
    x.deliverable = some vec → s.handlerGang key = some (w, g) → y.live ≠ 0#32 → y.uiPark = some (p, vv, vp) → p.lanes ≠ 0#32 →
    ∃ t, exec (.uiDeliver key) s = .next t ∧ Word.bit (t.ctx key).uipend vec = false ∧
      (t.gang w g).uivec = word ((Tab.get x.count vec).toNat * 2 ^ 16 + vec) ∧ (t.gang w g).uipay = Tab.get x.payload vec ∧
      (∀ i, i < 32 → p.act.getLsbD i = true → vv ≠ vp → (t.gang w g).vGet i vv.toNat = word vec) ∧
      (∀ i, i < 32 → p.act.getLsbD i = true → (t.gang w g).vGet i vp.toNat = Tab.get x.payload vec) ∧
      GoesOn p y (t.gang w g) ∧ t.ms.mem = s.ms.mem) ∧
  (∀ (s : State) (key w g vec : Nat),
    let x := s.ctx key
    let y := s.gang w g
    x.deliverable = some vec → s.handlerGang key = some (w, g) → y.live ≠ 0#32 → y.uiPark = none → y.inTrap = false →
    y.inUi = false → y.run = none → s.uiHandler key vec ≠ 0#64 →
    ∃ t sv, exec (.uiDeliver key) s = .next t ∧ (t.gang w g).inUi = true ∧ Word.bit (t.ctx key).uipend vec = false ∧
      (t.gang w g).uivec = word ((Tab.get x.count vec).toNat * 2 ^ 16 + vec) ∧ (t.gang w g).uipay = Tab.get x.payload vec ∧
      (∀ i, i < 32 → (y.thread i).st ≠ .exited → ((t.gang w g).thread i).st = .exec ∧
        ((t.gang w g).thread i).pc = s.uiHandler key vec) ∧
      (t.gang w g).splits = [{ id := y.nextId, lanes := y.live, replay := none }] ∧ (t.gang w g).parks = [] ∧
      (t.gang w g).saved = some sv ∧ sv.splits = y.splits ∧ sv.parks = y.parks ∧ sv.lat = y.b ∧
      (∀ i, i < 32 → Tab.get sv.st i = ((y.thread i).st, (y.thread i).pc)) ∧
      (∀ i r, i < 32 → r < 120 → (t.gang w g).vGet i r = y.vGet i r) ∧
      (∀ i j, i < 32 → j < 8 → (t.gang w g).vGet i (120 + j) = Tab.get y.bankV (i * 8 + j) ∧
        Tab.get (t.gang w g).bankV (i * 8 + j) = y.vGet i (120 + j)) ∧
      (∀ i n, i < 32 → n < 4 → (t.gang w g).pGet i n = y.pGet i n) ∧
      (∀ i n, i < 32 → 4 ≤ n → n < 8 → (t.gang w g).pGet i n = (Tab.get y.bankP i).getLsbD n ∧
        (Tab.get (t.gang w g).bankP i).getLsbD n = y.pGet i n) ∧ t.ms.mem = s.ms.mem) ∧
  (∀ (w : FullWord) (s : State) (c : Issue) (sv : Saved),
    let g := c.g s
    Ready 0xE4 w s c → g.inUi = true → g.saved = some sv →
    (∃ i, i < 32 ∧ (g.thread i).st ≠ .exited ∧ (Tab.get sv.st i).1 = .exec) →
    ∃ t, exec (.uiret w) s = .next t ∧ (c.g t).inUi = false ∧ (c.g t).saved = none ∧ (c.g t).b = sv.lat ∧ (c.g t).run = sv.run ∧
      (c.g t).parks = sv.parks.filterMap (fun p => p.only (c.g t).live) ∧ (c.g t).k = g.k ∧ (c.g t).d = g.d ∧
      (c.g t).fpctl = g.fpctl ∧
      (∀ i, i < 32 → ((∃ x ∈ (c.g t).splits, x.lanes.getLsbD i = true) ↔
        ∃ x ∈ sv.splits, x.lanes.getLsbD i = true ∧ (c.g t).live.getLsbD i = true)) ∧
      (∀ i r, i < 32 → r < 120 → (c.g t).vGet i r = g.vGet i r) ∧
      (∀ i j, i < 32 → j < 8 → (c.g t).vGet i (120 + j) = Tab.get g.bankV (i * 8 + j) ∧
        Tab.get (c.g t).bankV (i * 8 + j) = g.vGet i (120 + j)) ∧
      (∀ i n, i < 32 → n < 4 → (c.g t).pGet i n = g.pGet i n) ∧
      (∀ i n, i < 32 → 4 ≤ n → n < 8 → (c.g t).pGet i n = (Tab.get g.bankP i).getLsbD n ∧
        (Tab.get (c.g t).bankP i).getLsbD n = g.pGet i n) ∧
      (∀ i, i < 32 → (g.thread i).st ≠ .exited → ((c.g t).thread i).st = (Tab.get sv.st i).1 ∧
        ((c.g t).thread i).pc = (Tab.get sv.st i).2)) ∧
  (∀ (w : FullWord) (s : State) (c : Issue) (x : Gang) (a u1 u2 : Word) (cyc : Nat) (r : Option Run),
    Ready 0xE4 w s c → c.g s = { x.divert a cyc with run := r, uivec := u1, uipay := u2 } → x.saved = none → x.inUi = false →
    (∃ i, i < 32 ∧ (x.thread i).st = .exec) →
    ∃ t, exec (.uiret w) s = .next t ∧ (c.g t).inUi = false ∧ (c.g t).saved = none ∧ (c.g t).run = none ∧ (c.g t).b = x.b ∧
      (c.g t).k = x.k ∧ (c.g t).d = x.d ∧ (c.g t).fpctl = x.fpctl ∧ (c.g t).parks = x.parks.filterMap (fun p => p.only x.live) ∧
      (∀ i r, i < 32 → r < 128 → (c.g t).vGet i r = x.vGet i r) ∧ (∀ i n, i < 32 → n < 8 → (c.g t).pGet i n = x.pGet i n) ∧
      (∀ i j, i < 32 → j < 8 → Tab.get (c.g t).bankV (i * 8 + j) = Tab.get x.bankV (i * 8 + j)) ∧
      (∀ i, i < 32 → (c.g t).thread i = (x.releaseJoins cyc).thread i)) ∧
  (∀ (w : FullWord) (s : State) (c : Issue), Ready 0xE4 w s c → CanTrap c s →
    ∃ t, exec (.uiret w) s = .next t ∧ OnlyGang c.wg c.gang s t ∧ Trapped c 0x19 c.act 0 c.pc (c.g s) (c.g t)))

/-- LAUNCH reads its header and argument block and queues the launch, whose identifier the lanes get; a header that fails R13
gives its refusal code instead (R13, R284, R290). The identifier is a free value (assumption 25). -/
def Obligations.Launches : Prop :=
  ∀ (w : FullWord) (s s1 s2 : State) (c : Issue) (p p2 : Plan) (q : LanePlan) (y : Nat),
    let g := c.g s
    let a := (c.srcA g c.low).toNat
    let b := (c.srcB g 64 c.low).toNat
    let u := c.uniform (fun i => [c.srcA g i, c.srcB g 64 i]) (c.warn (c.f.warns c.op w) s)
    let s0 := (if 16 ≤ b then c.warn wFIELD u else u).releaseAll c.wg c.gang c.act 5
    let h := BitVec.ofNat 512 (s1.loadLane c.wg c.gang q)
    let vif := vifOf (c.key s)
    let n := s2.sched.nextLaunch
    Ready 0xF3 w s c → a % 64 = 0 → s0.planVirtual (c.key s) 1 .load [(c.low, a)] 64 = (p, s1) → p.go = [q] →
    (p.poison s1.ms).1 = 0#32 →
    (hdrCheck h ≠ 0 → ∃ t, exec (.launch w) s = .next t ∧ OnlyGang c.wg c.gang s1 t ∧
      Results c (fun _ => some (word (hdrCheck h))) g (c.g t) ∧ NextWord c g (c.g t)) ∧
    (hdrCheck h = 0 →
      ((hdrArglen h = 0 ∧ s2 = s1 ∧ y = 0) ∨
        ∃ q2, hdrArglen h ≠ 0 ∧ s1.planVirtual (c.key s) 1 .load [(c.low, hdrArgs h)] (hdrArglen h) = (p2, s2) ∧ p2.go = [q2] ∧
          (p2.poison s2.ms).1 = 0#32 ∧ y = s2.loadLane c.wg c.gang q2) →
      (Tab.get (s2.vif vif).queues (b % 16)).length < 64 →
      ∃ t, exec (.launch w) s = .next t ∧ (t.launch n).hdr = h ∧ (t.launch n).ctx = c.key s ∧ (t.launch n).prio = b % 16 ∧
        (t.launch n).args = leBytes (hdrArglen h) y ∧ (t.launch n).img = s2.ms.imem ∧ t.sched.nextLaunch = n + 1 ∧
        Tab.get (t.vif vif).queues (b % 16) = Tab.get (s2.vif vif).queues (b % 16) ++ [n] ∧
        Results c (fun _ => some (word ((t.launch n).id.toNat * 2 ^ 32))) g (c.g t) ∧ NextWord c g (c.g t) ∧ t.ms = s2.ms)

/-- SYSRD and SYSWR check the context's level and trap with PRIV below it (R285 to R287); SYSWR writes lane by lane. A register
without an action of its own, of a context or of its interface (R317), keeps its RW bits; a write of zpcfg waits for the port's
next preamble, and one that would make a fifth port STATIC is ignored (R250, R272); dltail takes 32 bits (R76); a base register
takes effect when its structure translates (R318); ctxpriv ignores 3 (R285). TLBI at its level drops every cached translation of
its extent (R288): the claims that pin a covered page lapse (R236, R242), a split parked with DISCARD_WRITE there replays when the
page is no longer discarded and stays parked when it is (R74), and the word goes on, or waits while a flow of a lapsed claim is in
progress. What zpcfg reads, the extent of `.page` and that gsroot with V = 0 has no structure to translate are the model's
readings (assumptions 53, 56 and 86). -/
def Obligations.SystemWords : Prop :=
  (∀ (w : FullWord) (s : State) (c : Issue),
    let g := c.g s
    let idx := w.modN % 2 ^ 12
    let key := c.key s
    let priv := (s.ctx key).priv.toNat
    (Ready 0xF4 w s c → sregLevel idx ≤ priv → ∃ t, exec (.sysrd w) s = .next t ∧ OnlyGang c.wg c.gang s t ∧
      Results c (fun _ => some (s.sregRead key (s.wg c.wg).core idx)) g (c.g t) ∧ SameControls g (c.g t) ∧ NextWord c g (c.g t)) ∧
    (Ready 0xF4 w s c → CanTrap c s → priv < sregLevel idx → ∃ t, exec (.sysrd w) s = .next t ∧ OnlyGang c.wg c.gang s t ∧
      Trapped c 0x18 c.act (word idx) c.pc g (c.g t)) ∧
    (Ready 0xF5 w s c → CanTrap c s → priv < sregWriteLevel idx → ∃ t, exec (.syswr w) s = .next t ∧ OnlyGang c.wg c.gang s t ∧
      Trapped c 0x18 c.act (word idx) c.pc g (c.g t)) ∧
    (Ready 0xF5 w s c → CanTrap c s → sregWriteLevel idx ≤ priv → sregRO idx = true → ∃ t, exec (.syswr w) s = .next t ∧
      OnlyGang c.wg c.gang s t ∧ Trapped c 0x01 c.act 6 c.pc g (c.g t)) ∧
    (Ready 0xF5 w s c → sregWriteLevel idx ≤ priv → sregRO idx = false →
      let vif := vifOf key
      let port := idx - 0x100
      let cur := fun (q : Nat) => (s.port q).pend.getD (s.port q).cfg
      let a := fun i => c.srcA g i
      let ls := lanesOf c.act
      let done := fun (q : State → Prop) => ∃ t, exec (.syswr w) s = .next t ∧ SameRegisters g (c.g t) ∧ NextWord c g (c.g t) ∧ q t
      (idx ∈ [0x307, 0x30B, 0x30F] → done (fun t => t.creg key idx = ls.foldl (fun x i => sregNew idx x (a i)) (s.creg key idx))) ∧
      (idx ∈ [0x200, 0x201, 0x202, 0x205, 0x207, 0x209, 0x20B] → done (fun t => t.vreg vif idx =
        ls.foldl (fun x i => sregNew idx x (a i)) (s.vreg vif idx))) ∧
      (idx = 0x204 → done (fun t => t.vreg vif idx = ls.foldl (fun _ i => word ((a i).toNat % 2 ^ 32)) (s.vreg vif idx))) ∧
      (0x100 ≤ idx → idx < 0x110 → (∀ i, c.on i → cfgStatic (a i) = false) → done (fun t => (t.port port).cfg = (s.port port).cfg ∧
        (t.port port).pend = some (ls.foldl (fun x i => sregNew 0x100 x (a i)) (cur port)) ∧
        ∀ q, q ≠ port → t.port q = s.port q)) ∧
      (0x100 ≤ idx → idx < 0x110 → (∀ i, c.on i → cfgStatic (a i) = true) →
        4 ≤ ((List.range 16).filter (fun q => q != port && cfgStatic (cur q))).length → done (fun t => ∀ q, t.port q = s.port q)) ∧
      (idx = 0x310 → done (fun t => (t.ctx key).priv =
        ls.foldl (fun x i => if (a i).toNat % 4 = 3 then x else (a i).setWidth 2) (s.ctx key).priv)) ∧
      (∀ i, idx ∈ [0x300, 0x305, 0x309, 0x30C, 0x30D, 0x30E] → ls = [i] →
        let new := sregNew idx (s.creg key idx) (a i)
        let base := Nat.land new.toNat (sregMask idx / 2 * 2)
        let size := if idx = 0x300 ∧ Word.bit new 0 = false then 0 else s.structSize key idx
        let pages := (List.range ((base + size + 4095) / 4096 - base / 4096)).map (base / 4096 + ·)
        ∃ u, OnlyGang c.wg c.gang s u ∧ ∀ frames s1, u.hostPages vif pages = (.ok frames, s1) → done (fun t => t.creg key idx = new)))) ∧
  (∀ (w : FullWord) (s : State) (c : Issue),
    let g := c.g s
    let a := (c.srcA g c.low).toNat
    let b := (c.srcB g 64 c.low).toNat
    let x := tlbExt w.xb (c.key s) a b (c.rdC g c.low).toNat
    let level := if w.xb % 2 = 1 ∨ w.xb / 16 % 2 = 1 then 2 else 1
    let beyond := w.xb / 2 % 4 = 1 ∧ b ≠ 0 ∧ 2 ^ 57 < a + b
    let why := if w.xb / 8 % 2 = 1 then 2 else 1
    let hit := fun (v n : Nat) => (Tab.get (s.wg v).slots n).pins.any (x.covers (s.ctxKey v))
    let apart := fun (v h : Nat) (m : Mask) (id : Option Nat) => ∀ q ∈ (s.gang v h).parks, some q.id ≠ id → q.lanes &&& m = 0#32
    let lapsed := fun (t : State) => t.ms.tlb = s.ms.tlb.filter (fun r => !x.drops r) ∧
      ∀ v n, let y := Tab.get (s.wg v).slots n
        let z := Tab.get (t.wg v).slots n
        (hit v n = false → z.st = y.st ∧ z.why = y.why) ∧
        (hit v n = true → y.st = .live → y.when ≠ s.cycle ∨ y.why = 0 → z.st = .lapsed ∧ z.why.toNat = why)
    (Ready 0xF6 w s c → level ≤ (s.ctx (c.key s)).priv.toNat → ¬beyond → apart c.wg c.gang c.lanes none →
      ((s.lapsePages x why).1 = [] → ∃ t, exec (.tlbi w) s = .next t ∧ lapsed t ∧
        (c.g t).v = g.v ∧ (c.g t).p = g.p ∧ (c.g t).k = g.k ∧ (c.g t).d = g.d ∧
        (∀ i, i < 32 → c.lanes.getLsbD i = true → (c.g t).thread i = { g.thread i with pc := c.pc + 8 }) ∧
        ((∀ r ∈ s.sched.reports, r.written = true) → t.ms.mem = s.ms.mem) ∧
        (∀ v h p host wr num ad gl, (s.wg v).status = .running → (s.gang v h).parkOf p.id = some p →
          p.why = .fault 2 host wr ad num → p.lanes ≠ 0#32 → apart v h p.lanes (some p.id) →
          (v = c.wg ∧ h = c.gang → p.lanes &&& c.lanes = 0#32) → x.host = false → x.ctx = s.ctxKey v →
          s.guestWalk (s.ctxKey v) ad.toNat = .ok gl → x.meets (ad.toNat / 4096) (sizeBits gl.size) = true →
          (s.stillDiscarded (s.ctxKey v) ad.toNat = false → (∀ r ∈ t.sched.reports, r.num ≠ num) ∧
            ∀ i, i < 32 → p.lanes.getLsbD i = true → ((t.gang v h).thread i).st = .exec ∧ ((t.gang v h).thread i).pc = p.pc) ∧
          (s.stillDiscarded (s.ctxKey v) ad.toNat = true → p ∈ (t.gang v h).parks ∧
            ∀ i, i < 32 → p.lanes.getLsbD i = true → (t.gang v h).thread i = (s.gang v h).thread i))) ∧
      ((s.lapsePages x why).1 ≠ [] → ∃ t p, exec (.tlbi w) s = .next t ∧ lapsed t ∧ SameRegisters g (c.g t) ∧ t.ms.mem = s.ms.mem ∧
        p ∈ (c.g t).parks ∧ p.lanes = c.lanes ∧ p.pc = c.pc ∧ p.why = .tlbi x (s.lapsePages x why).1)) ∧
    (Ready 0xF6 w s c → CanTrap c s → level ≤ (s.ctx (c.key s)).priv.toNat → beyond → ∃ t, exec (.tlbi w) s = .next t ∧
      OnlyGang c.wg c.gang s t ∧ Trapped c 0x01 c.act 6 c.pc g (c.g t)) ∧
    (Ready 0xF6 w s c → CanTrap c s → (s.ctx (c.key s)).priv.toNat < level → ∃ t, exec (.tlbi w) s = .next t ∧
      OnlyGang c.wg c.gang s t ∧ Trapped c 0x18 c.act 0 c.pc g (c.g t)))

/-! ## Reports, parks, storage -/

/-- An answer to a fault report (R73, R320): a token that names no report of its queue changes nothing; RETRY replays the parked
split's unfinished lanes, and ABORT traps them with PAGEFAULT at the faulting address; the report is answered. A park whose
condition has cleared (R17): a word that waited for acknowledgements, or for a place among the flows, replays (R86, R232); MENQ
and MTAIL append the task records that they have read and go on when the chain has places for them (R226); LAUNCH queues the
header and the constant copy that it has read and goes on with the launch's identifier (R12, R284); FENCE, RFENCE and PERSIST end
and go on at the next word (R86, R97, R183). A write to dltail sets its 32 bits, and lets the splits that wait for room in that
dirty ring replay, one after the other: the first of them in park order replays when no other is in its turn (R76). A record goes
to its context's ring at base + (head mod N) × size and moves head, or is dropped with OVF when the ring is full or not enabled
(R319). An origin entry names what the instruction was, and is overwritten in ring order (R270); an error record names the entry's
WID and PC while its stamp still matches, and an event record goes to a context with a transmit window and to the host (R271).
Tokens are free values, and how a word that waits for room goes on is the model's reading (assumptions 25 and 52). -/
def Obligations.ReportsAndParks : Prop :=
  (∀ (s : State) (q : FaultQueue) (token : BitVec 32),
    let named := s.sched.reports.find? (fun r => r.written && r.token == token && r.queue == q)
    (named = none → exec (.faultAnswerRetry q token) s = .next s ∧ exec (.faultAnswerAbort q token) s = .next s) ∧
    (∀ r p reason host wr addr n, s.prim.locked = false → named = some r → r.isExit = false → (s.wg r.wg).status = .running →
      (s.gang r.wg r.gang).parkOf r.park = some p → p.why = .fault reason host wr addr n → p.lanes ≠ 0#32 →
      (∃ t, exec (.faultAnswerRetry q token) s = .next t ∧ Replays p (s.gang r.wg r.gang) (t.gang r.wg r.gang) ∧
        ∀ y ∈ t.sched.reports, y.num ≠ r.num) ∧
      ((s.gang r.wg r.gang).inTrap = false → (s.gang r.wg r.gang).inUi = false → codeAddr (s.gang r.wg r.gang).tvec ≠ 0#64 →
        ∃ t, exec (.faultAnswerAbort q token) s = .next t ∧
          Trapped default 0x0A p.todo addr p.pc (s.gang r.wg r.gang) (t.gang r.wg r.gang) ∧ ∀ y ∈ t.sched.reports, y.num ≠ r.num))) ∧
  (∀ (s : State) (w g : Nat) (p : Park),
    let x := s.gang w g
    let mine := fun (scope bound : Nat) => s.fab.outst.any (fun o => decide (o.id < bound) && s.mine w g scope o)
    let o := exec (.parkClear w g p.id) s
    let replays := ∃ t, o = .next t ∧ Replays p x (t.gang w g) ∧ t.ms = s.ms ∧ SameGangs w g s t ∧ SameDevice s t
    (s.wg w).status = .running → x.parkOf p.id = some p → p.lanes ≠ 0#32 →
    (∀ b, p.why = .acks b → mine 1 b = false → replays) ∧
    (∀ l, p.why = .chainFull l → (s.wg w).chain.length + l.length ≤ 64 → ∃ t, o = .next t ∧ GoesOn p x (t.gang w g) ∧
      (t.wg w).chain.length = (s.wg w).chain.length + l.length ∧ (t.wg w).chain.take (s.wg w).chain.length = (s.wg w).chain ∧
      (∀ k, k < l.length → ((t.wg w).chain[(s.wg w).chain.length + k]?).map Task.record = l[k]?) ∧
      SameRegisters x (t.gang w g) ∧ t.ms = s.ms ∧ SameDevice s t) ∧
    (p.why = .flowFull → (s.wg w).flows.length < 64 → replays) ∧
    (∀ q h args cell dst nw, p.why = .queueFull q h args cell dst nw → vifOf (s.ctxKey w) = q / 16 →
      (Tab.get (s.vif (q / 16)).queues (q % 16)).length < 64 →
      (let n := s.sched.nextLaunch
       ∃ t, o = .next t ∧ GoesOn p x (t.gang w g) ∧ (t.launch n).hdr = h ∧ (t.launch n).ctx = s.ctxKey w ∧
        (t.launch n).prio = q % 16 ∧ (t.launch n).args = args ∧ (t.launch n).issuer = cell.map (fun e => (w, e)) ∧
        Tab.get (t.vif (q / 16)).queues (q % 16) = Tab.get (s.vif (q / 16)).queues (q % 16) ++ [n] ∧ t.ms = s.ms ∧
        (∀ i, i < 32 → p.act.getLsbD i = true → nw = false →
          (t.gang w g).vGet i dst.toNat = word ((t.launch n).id.toNat * 2 ^ 32)))) ∧
    (∀ sc b, p.why = .fence sc b → mine 1 b = false → ∃ t, o = .next t ∧ GoesOn p x (t.gang w g) ∧
      SameRegisters x (t.gang w g) ∧ t.ms.mem = s.ms.mem) ∧
    (∀ sc b dst nw, p.why = .rfence sc b dst nw → mine sc.toNat b = false → ∃ t, o = .next t ∧ GoesOn p x (t.gang w g) ∧
      (t.gang w g).fCode = 0 ∧ (t.gang w g).fMask = 0 ∧ t.ms.mem = s.ms.mem ∧
      (∀ i, i < 32 → p.act.getLsbD i = true → nw = false →
        (t.gang w g).vGet i dst.toNat = word (x.fCode.toNat * 2 ^ 16 + x.fMask.toNat))) ∧
    (∀ dst nw, p.why = .persist dst nw →
      (∀ y ∈ s.prim.posted, y.pers = true → y.wg = w → y.gang = g → p.act.getLsbD y.lane = false) → ∃ t, o = .next t ∧
      (∀ i, i < 32 → p.lanes.getLsbD i = true → ((t.gang w g).thread i).st = .exec ∧ ((t.gang w g).thread i).pc = p.pc + 8) ∧
      (∀ i, i < 32 → p.act.getLsbD i = true → nw = false → (t.gang w g).vGet i dst.toNat = (x.thread i).refused.setWidth 64) ∧
      t.ms = s.ms)) ∧
  (∀ (s : State) (vif : Nat) (v : Word),
    let new := word (v.toNat % 2 ^ 32)
    s.prim.locked = false → ∃ t, exec (.dltailWrite vif v) s = .next t ∧ t.vreg vif 0x204 = new ∧ t.ms = s.ms ∧ t.fab = s.fab ∧ t.prim = s.prim ∧
      ∀ w g, (t.gang w g).thr = (s.gang w g).thr ∧ (t.gang w g).splits = (s.gang w g).splits ∧
        (t.gang w g).parks = (if new = s.vreg vif 0x204 then (s.gang w g).parks else (s.gang w g).parks.map (fun p =>
          if s.waitsDirty vif w p then { p with ready := some true } else p))) ∧
  (∀ (s : State) (w g a : Nat) (p : Park), (s.wg w).status = .running → (s.gang w g).parkOf p.id = some p → p.lanes ≠ 0#32 →
    p.why = .dirtyFull a →
    (p.ready.isSome = true → s.dirtyFirst w g p = true → ∃ t, exec (.parkClear w g p.id) s = .next t ∧
      Replays p (s.gang w g) (t.gang w g) ∧ t.ms = s.ms ∧ SameGangs w g s t ∧ SameDevice s t) ∧
    (p.ready.isNone = true ∨ s.dirtyFirst w g p = false → exec (.parkClear w g p.id) s = .next s)) ∧
  (∀ (s : State) (key : Nat) (r : Ring) (x : Nat), r = fqRing ∨ r = evRing → (s.ctx key).present = true →
    let t := s.ctxRecord key r x
    (RingTakes s key r 1 → leNat (t.ms.latest (ringLocs s key r 0)) = x % 2 ^ 256 ∧ SameMemoryBut (ringLocs s key r 0) s t ∧
      t.creg key (r.base + 1) = word (((s.creg key (r.base + 1)).toNat + 1) % 2 ^ 32) ∧
      ∀ i, i ≠ r.base + 1 → t.creg key i = s.creg key i) ∧
    (¬RingTakes s key r 1 → t.ms = s.ms ∧ t.creg key r.base = s.creg key r.base ||| 2#64 ∧
      ∀ i, i ≠ r.base → t.creg key i = s.creg key i)) ∧
  (∀ (s : State) (w g lane : Nat) (pc : Word),
    let r := s.origin w g lane pc
    let core := (s.wg w).core
    let n := Tab.get s.sched.originNext core
    r.1 = { core := core, idx := n % 256, stamp := BitVec.ofNat 24 n, launch := (s.launch (s.wg w).launch).id, pc := pc, wid := s.wid w g lane } ∧
    Tab.get r.2.sched.origins (core * 256 + n % 256) = r.1 ∧ Tab.get r.2.sched.originNext core = n + 1 ∧
    ∀ k, k ≠ core * 256 + n % 256 → Tab.get r.2.sched.origins k = Tab.get s.sched.origins k) ∧
  (∀ (s : State) (key code pkind peer rwin woff : Nat) (o : Origin), code < 256 → pkind < 64 → peer < 512 → rwin < 4096 →
    let e := Tab.get s.sched.origins (o.core * 256 + o.idx)
    let lost := e.stamp ≠ o.stamp
    let x := code * 2 ^ 56 + pkind * 2 ^ 50 + peer * 2 ^ 41 + (if lost then 2 ^ 40 else 0) + o.launch.toNat +
      (if lost then 0 else e.wid.toNat) * 2 ^ 64 + (if lost then 0 else (codeAddr e.pc).toNat) * 2 ^ 128 +
      (rwin * 2 ^ 52 + woff % 2 ^ 32) * 2 ^ 192
    s.errorRecord key code pkind peer o rwin woff =
      (let t := s.ctxRecord key evRing x
       if code = 3 ∨ code = 5 then t.toHost (.record (BitVec.ofNat 256 x)) else t)) ∧
  (∀ (s : State) (key code peer port md : Nat) (old new : BitVec 16), code < 256 → peer < 512 → port < 16 → md < 16 →
    (Tab.keys s.ctxs).Nodup → (∀ k ∈ Tab.keys s.ctxs, (s.hasTxWindow k = true ↔ k = key)) → key ∈ Tab.keys s.ctxs →
    let x := code * 2 ^ 56 + peer * 2 ^ 41 + port * 2 ^ 36 + md * 2 ^ 32 + s.cycle % 2 ^ 64 * 2 ^ 64 +
      (old.toNat * 2 ^ 16 + new.toNat) * 2 ^ 128
    s.eventRecord code peer port md old new = (s.ctxRecord key evRing x).toHost (.record (BitVec.ofNat 256 x)))

/-- Errors in storage (R77, R78): a corrected error only counts; an uncorrectable one in a region ends its workgroup and zeroes
the region, in a die-store word or an HBM line it marks the word or line and leaves the bytes. Posted stores (R80, R100, R101,
R326): a store performs when no earlier one of its thread is left, a flow's write at any time; a refused one is dropped, and a
thread's store of kind 0x03 counted for PERSIST; a global persistent flush leaves none. The keys of the lifetime counters are the
model's (assumption 30). -/
def Obligations.StorageAndPostedStores : Prop :=
  (∀ (s : State),
    (∀ k, ∃ t, exec (.eccCorrected k) s = .next t ∧ t.ms = s.ms ∧ t.wgs = s.wgs ∧
      Tab.get t.prim.life.count (storeNum k) = if Tab.get s.prim.life.count (storeNum k) = 0xFFFFFFFF#32 then 0xFFFFFFFF#32
        else Tab.get s.prim.life.count (storeNum k) + 1) ∧
    (∀ k w, (s.wg w).status = .running ∨ (s.wg w).status = .saving → ∃ t, exec (.eccUncorrectable (.region k w)) s = .next t ∧
      (t.wg w).gangs = [] ∧ (t.wg w).holds = false ∧ (∀ x, inRegionOf w x = true → Memory.read t.ms.mem x = 0#8)) ∧
    (∀ die off, ∃ t, exec (.eccUncorrectable (.dieWord die off)) s = .next t ∧ t.ms.mem = s.ms.mem ∧ t.wgs = s.wgs ∧
      (∀ j, j < 8 → t.ms.poisoned (locDst die (off / 8 * 8 + j)) = true) ∧
      (∀ x, x % 8 ≠ 1 → x / 64 * 64 + x % 8 ≠ locDst die (off / 8 * 8) → t.ms.poisoned x = s.ms.poisoned x)) ∧
    (∀ k, ∃ t, exec (.eccUncorrectable (.unheld k)) s = .next t ∧ t.ms = s.ms ∧ t.wgs = s.wgs) ∧
    (∀ line, ∃ t, exec (.hbmPoison line) s = .next t ∧ t.ms.mem = s.ms.mem ∧ t.wgs = s.wgs ∧
      (∀ j, j < 64 → t.ms.poisoned (locHbm (line * 64 + j)) = true) ∧
      (∀ x, x % 8 = 0 → x / 512 ≠ line → t.ms.poisoned x = s.ms.poisoned x))) ∧
  (∀ (s : State),
    (∀ i p, s.prim.posted.find? (fun p => p.id == i) = some p →
      (∀ q ∈ s.prim.posted.takeWhile (fun q => q.id != i),
        ¬(q.flow = none ∧ p.flow = none ∧ q.wg = p.wg ∧ q.gang = p.gang ∧ q.lane = p.lane)) →
      ∃ t, exec (.storeDurable i) s = .next t ∧ t.prim.posted = s.prim.posted.filter (fun q => q.id != i) ∧ t.wgs = s.wgs ∧
        (∀ j, j < p.bytes.length → Memory.read t.ms.mem (locHost (p.addr + j)) = p.bytes.getD j 0) ∧
        SameMemoryBut (locs (locHost p.addr) p.bytes.length) s t) ∧
    (∀ i p, s.prim.posted.find? (fun p => p.id == i) = some p → (s.wg p.wg).hasRegion = true →
      ∃ t, exec (.postedStoreRefused i) s = .next t ∧ t.prim.posted = s.prim.posted.filter (fun q => q.id != i) ∧
        ((t.gang p.wg p.gang).thread p.lane).refused = (if p.pers = true ∧ p.flow = none ∧
          ((s.gang p.wg p.gang).thread p.lane).refused ≠ 0xFFFF#16
          then ((s.gang p.wg p.gang).thread p.lane).refused + 1 else ((s.gang p.wg p.gang).thread p.lane).refused) ∧
        ∀ j, Memory.read t.ms.mem (locHost j) = Memory.read s.ms.mem (locHost j)) ∧
    (∃ t, exec .globalPersistentFlush s = .next t ∧ t.prim.posted = [] ∧ t.wgs = s.wgs ∧
      SameMemoryBut (s.prim.posted.flatMap (fun p => locs (locHost p.addr) p.bytes.length)) s t))

/-! ## Placement and pre-emption -/

/-- Dispatch (R290 to R293) of a launch without cluster groups: the next workgroup starts on the first core tried that admits it,
or joins a pending queue; a queue's head starts when a core of its cluster admits it; the newest entry of the deeper queue moves
to the shallower neighbour when it is deeper by more than its threshold; a bind record keeps the bits it defines. Where the round
robins begin and what is counted as depth is the model's (assumptions 8 and 58). -/
def Obligations.Placements : Prop :=
  ∀ (s : State),
    (∀ l, s.nextHead = some l → s.backFirst (s.launch l).prio = false → hdrCb (s.launch l).hdr = false →
      (∀ core, (s.tries l).find? (fun c => s.admits c (s.launch l).hdr) = some core →
        ∃ t, exec .workgroupPlace s = .next t ∧ Begun s t s.nextWg l (s.launch l).next core ∧
          (t.launch l).next = (s.launch l).next + 1 ∧ t.nextWg = s.nextWg + 1 ∧ t.ms.mem = s.ms.mem) ∧
      ((s.tries l).find? (fun c => s.admits c (s.launch l).hdr) = none → s.boundClusters l ≠ [] →
        ∃ t k, exec .workgroupPlace s = .next t ∧ k ∈ s.boundClusters l ∧ (t.launch l).next = (s.launch l).next + 1 ∧
          t.wgs = s.wgs ∧ t.ms = s.ms ∧
          (∀ j ∈ s.boundClusters l, (Tab.get s.sched.pending k).length ≤ (Tab.get s.sched.pending j).length) ∧
          ∃ p ∈ Tab.get t.sched.pending k, p.launch = l ∧ p.ords = [(s.launch l).next] ∧ p.prio = (s.launch l).prio)) ∧
    (∀ clus p rest o core, Tab.get s.sched.pending clus = p :: rest → s.backFirst p.prio = false → p.ords = [o] →
      hdrCb (s.launch p.launch).hdr = false →
      ((s.tries p.launch).filter (fun c => clusterOf c == clus)).find? (fun c => s.admits c (s.launch p.launch).hdr) = some core →
      ∃ t, exec (.pendingAdmit clus) s = .next t ∧ Begun s t s.nextWg p.launch o core ∧ Tab.get t.sched.pending clus = rest ∧
        t.ms.mem = s.ms.mem) ∧
    (∀ clus deep shallow p,
      let qd := Tab.get s.sched.pending deep
      let qs := Tab.get s.sched.pending shallow
      let next := clus / 12 * 12 + (clus % 12 + 1) % 12
      ((deep = clus ∧ shallow = next ∧ depth qs < depth qd) ∨ (deep = next ∧ shallow = clus ∧ depth qs ≤ depth qd)) →
      newest qd = some p → p.lbthr ≠ 0 → depth qs + p.lbthr < depth qd → shallow ∈ s.boundClusters p.launch →
      ∃ t, exec (.loadBalanceExchange clus) s = .next t ∧ Tab.get t.sched.pending deep = qd.filter (fun q => q.seq != p.seq) ∧
        (∃ q ∈ Tab.get t.sched.pending shallow, q.launch = p.launch ∧ q.ords = p.ords ∧ q.prio = p.prio) ∧
        (Tab.get t.sched.pending shallow).length = qs.length + 1 ∧ t.ms = s.ms ∧ t.wgs = s.wgs) ∧
    (∀ i r, i < 256 → s.prim.locked = false → ∃ t, exec (.bindRecordWrite i r) s = .next t ∧ (∀ j, j < 128 → (Tab.get t.sched.binds i).getLsbD j =
        (r.getLsbD j && decide (37 ≤ j ∧ j < 64 ∨ 104 ≤ j))) ∧
      (∀ j, j ≠ i → Tab.get t.sched.binds j = Tab.get s.sched.binds j) ∧ t.ms = s.ms ∧ t.wgs = s.wgs)

/-- A workgroup whose threads have exited and whose engines' work is done retires: its regions read 0 and its launch counts it
(R31). A killed workgroup of an idempotent launch starts afresh on a core that admits it (R32). -/
def Obligations.WorkgroupsEnd : Prop :=
  ∀ (s : State) (w : Nat),
    ((s.wg w).isDone = true → ∃ t, exec (.workgroupRetire w) s = .next t ∧ (t.wg w).status = .gone ∧ (t.wg w).gangs = [] ∧
      (∀ x, inRegionOf w x = true → Memory.read t.ms.mem x = 0#8) ∧
      (t.launch (s.wg w).launch).ended = (s.launch (s.wg w).launch).ended + 1) ∧
    (∀ core, (s.wg w).status = .relaunch → hdrCb (s.hdr w) = false →
      (s.tries (s.wg w).launch).find? (fun c => s.admits c (s.hdr w)) = some core →
      ∃ t, exec (.workgroupRelaunch w) s = .next t ∧ Begun s t w (s.wg w).launch (s.wg w).ord core ∧ t.ms.mem = s.ms.mem)

/-- Pre-emption (R300 to R302): a request begins to vacate workgroups of the context; the save keeps registers and threads and
holds no core; a saved workgroup goes on with them on a core that admits it. A context is created with its registers at 0 and
uihnd all ones (R285, R318); its teardown, once none of its gangs is in a run, ends its workgroups and launches, takes the
launches out of every queue, and drops its translations, receive windows and service claims (R309). The bytes of the save area are
free values, and the regions' bytes are what a resumed workgroup first finds (assumptions 26 and 73). -/
def Obligations.PreemptionsAndContexts : Prop :=
  (∀ (s : State),
    (∀ key cores, s.prim.locked = false → ∃ t, exec (.preemptRequest key cores) s = .next t ∧ t.ms = s.ms ∧
      (∀ w ∈ s.vacated key cores, (t.wg w).status = .saving) ∧ (∀ w, w ∉ s.vacated key cores → t.wg w = s.wg w) ∧
      (∀ w g, t.gang w g = s.gang w g)) ∧
    (∀ w, (s.wg w).status = .saving → (s.wg w).gangs.all (fun e => e.2.run.isNone) = true → (s.lapseAll w).saveReady w = true →
      (s.lapseAll w).saveFits w = true →
      ∃ t, exec (.preemptSave w) s = .next t ∧ (t.wg w).status = .saved ∧
        (∀ g, SameRegisters (s.gang w g) (t.gang w g) ∧ (t.gang w g).thr = (s.gang w g).thr) ∧
        (∀ n, let x := Tab.get (s.wg w).slots n
          x.st = .live → (Tab.get (t.wg w).slots n).st = .lapsed ∧
            (x.when ≠ s.cycle ∨ x.why = 0 → (Tab.get (t.wg w).slots n).why = 3))) ∧
    (∀ w core,
      let h := s.hdr w
      let l := (s.wg w).launch
      let a := s.tries l
      let b := if hdrWbmask h ≠ 0 then a.filter (fun c => dieOf c == dieOf (s.wg w).core) else a
      let cores := if s.wgs.any (fun e => e.2.launch == l && e.2.barClus)
        then b.filter (fun c => clusterOf c == clusterOf (s.wg w).core) else b
      (s.wg w).status = .saved → hdrCb h = false → cores.find? (fun c => s.admits c h) = some core →
      (∀ g, (s.gang w g).parks = []) →
      ∃ t, exec (.workgroupResume w) s = .next t ∧ (t.wg w).status = .running ∧ (t.wg w).core = core ∧
        (∀ g, SameRegisters (s.gang w g) (t.gang w g) ∧ (t.gang w g).thr = (s.gang w g).thr) ∧ t.ms.mem = s.ms.mem)) ∧
  (∀ (s : State),
    (∀ vif ctx, s.prim.locked = false → vif < 64 → ctx < 1023 → (s.ctx (vif * 1024 + ctx)).present = false →
      ∃ t, exec (.contextCreate vif ctx) s = .next t ∧ (t.ctx (vif * 1024 + ctx)).present = true ∧
        (t.ctx (vif * 1024 + ctx)).priv = 0 ∧ (t.ctx (vif * 1024 + ctx)).uihnd = 0xFFFFFFFFFFFFFFFF#64 ∧
        (∀ i, t.creg (vif * 1024 + ctx) i = 0) ∧ (∀ k, k ≠ vif * 1024 + ctx → t.ctx k = s.ctx k) ∧ t.ms = s.ms ∧ t.wgs = s.wgs) ∧
    (∀ key reason, (s.ctx key).present = true → s.ctxRuns key = false →
      ∃ t, exec (.contextTeardown key reason) s = .next t ∧ (t.ctx key).present = false ∧
      (∀ w, (s.wg w).pending = true → s.ctxKey w = key → (t.wg w).gangs = [] ∧ (t.wg w).status = .gone) ∧
      (∀ l ∈ Tab.keys s.sched.launches, (s.launch l).ctx = key → (t.launch l).isOver = true ∧ (t.launch l).failed = true ∧
        (∀ p, l ∉ Tab.get (t.vif (vifOf key)).queues p) ∧ ∀ k, ∀ p ∈ Tab.get t.sched.pending k, p.launch ≠ l) ∧
      (∀ r ∈ t.ms.tlb, r.ctx ≠ key) ∧ (∀ e ∈ t.fab.rxw, rxOwner e.2 ≠ (s.ctxid key).toNat) ∧
      (∀ x ∈ t.fab.services, x.key ≠ key)) ∧
    (∀ key reason, (s.ctx key).present = true → (s.ctx key).ending = none → s.ctxRuns key = true →
      ∃ t, exec (.contextTeardown key reason) s = .next t ∧ (t.ctx key).present = true ∧ (t.ctx key).ending.isSome = true ∧
        t.wgs = s.wgs ∧ t.sched = s.sched ∧ t.ms = s.ms))

/-! ## The fabric -/

/-- A slot begins with the pending zpcfg in effect (R250), replays what is not acknowledged and then sends (R252, R257). A flit in
its turn is accepted, one with a bad CRC or the first out of turn brings a NAK when the port can put it on its fibres, and a NAK
replays what it does not cover (R257); a static port sends without slots (R272). On the fibres a flit is striped over the lowest
lit wavelengths of the width, bit j on wavelength j mod n (R249). The order of the CRC's bits, the flits without a sequence, and
when a NAK is repeated are the model's readings (assumptions 40, 41 and 105). -/
def Obligations.LinkFlits : Prop :=
  (∀ (lit : Nat) (f : BitVec 768),
    let ws := (List.range 16).filter (fun i => lit.testBit i)
    let n := (stripe lit f).length
    n ≤ ws.length ∧ n ∈ [0, 1, 2, 3, 4, 6, 8, 12, 16] ∧ (∀ m ∈ [1, 2, 3, 4, 6, 8, 12, 16], m ≤ ws.length → m ≤ n) ∧
    (∀ i, i < n → ∃ k x, (stripe lit f)[i]? = some (k, x) ∧ ws[i]? = some k ∧
      ∀ b, b < 768 / n → x.testBit b = f.getLsbD (b * n + i))) ∧
  ∀ (s : State) (port : Nat),
    let sent := fun (s : State) (fs : List (BitVec 768)) =>
      fs.map (fun f => ({ port := port, flit := f, waves := stripe (s.port port).waves.toNat f } : Striped))
    (∀ rx, port < 16 → ∃ t, exec (.slotPreamble port rx) s = .next t ∧ (t.port port).slot = ((s.port port).slot + 1) % 32 ∧
      (t.port port).cfg = (s.port port).pend.getD (s.port port).cfg ∧ (t.port port).pend = none ∧
      (∀ key, (s.openSlot port).facing port = some key →
        let k := match rx.filter (fun p => crc16 (preambleBytes p) == p.crc.toNat) with
          | some p => (s.link key).kept.filter (fun f => !covered p.ack.toNat (flitLseq f))
          | none => (s.link key).kept
        let room := ((s.openSlot port).port port).room
        key < 512 → ∃ l, t.fab.out = s.fab.out ++ sent (s.openSlot port) ((k.map (s.link key).stamp).take room) ++ l)) ∧
    (∀ key flit,
      let r := exec (.flitReceive port flit) s
      let link := s.link key
      s.facing port = some key →
      (flitOk flit = true → flitType flit < 2 → flitLseq flit = link.expect → ∃ t, r = .next t ∧
        (t.link key).expect = (link.expect + 1) % 4096 ∧ (t.link key).got = true ∧ (t.link key).nak = false ∧
        (t.link key).kept = (if flitAv flit then link.kept.filter (fun f => !covered (flitLack flit) (flitLseq f)) else link.kept) ∧
        t.ms = s.ms ∧ t.wgs = s.wgs) ∧
      (flitOk flit = false ∨ (flitType flit < 2 ∧ flitLseq flit ≠ link.expect ∧ covered link.lack (flitLseq flit) = false) →
        let asks := flitOk flit = false ∨ link.nak = false ∨ 512 ≤ key
        ∃ t, r = .next t ∧ (t.link key).expect = link.expect ∧ t.ms = s.ms ∧ t.wgs = s.wgs ∧
          (asks → 0 < (s.port port).takes 1 → (t.link key).nak = true ∧ ∃ f, t.fab.out = s.fab.out ++ sent s [f] ∧ flitType f = 3 ∧
            flitLack f = link.lack) ∧
          (¬asks ∨ (s.port port).takes 1 = 0 → (t.link key).nak = link.nak ∧ t.fab.out = s.fab.out))) ∧
    (∀ n, (s.port port).takes n = if cfgStatic (s.port port).cfg then (if cfgEn (s.port port).cfg ∧ (s.port port).dark = false then n else 0)
      else min n (s.port port).room) ∧
    (∀ peer (lack : BitVec 12), ∃ t, exec (.nakReplay peer lack) s = .next t ∧
      (t.link peer).kept = (s.link peer).kept.filter (fun f => !covered lack.toNat (flitLseq f)) ∧ t.ms = s.ms ∧ t.wgs = s.wgs ∧
      ((List.range 16).find? (fun p => s.facing p == some peer) = some port → t.fab.out = s.fab.out ++
        sent s (((t.link peer).kept.map (s.link peer).stamp).take ((s.port port).takes (t.link peer).kept.length))))

/-- Packets (R260, R261): a packet in reassembly that opens under its pair key with a fresh counter is taken in order, one that
does not, or whose counter is not fresh, is discarded with an alarm; an acknowledgement takes its packets off the sender and their
members off the outstanding stores; a packet not acknowledged in time is sent again. That a pair without a key has the key 0 is
the model's choice (assumption 24). -/
def Obligations.Packets : Prop :=
  ∀ (s : State),
    (∀ i p, s.fab.held[i]? = some p →
      let h := p.hdr
      let src := pkSpod h * 512 + pkSpkg h
      ∃ t, exec (.packetVerify i) s = .next t ∧ t.fab.held = s.fab.held.eraseIdx i ∧
        match gcmOpen (s.hdrKeyOf h) (packetIv h) (hdrAuth h) p.data p.tag with
        | some data =>
            (counterBad (Tab.get s.fab.seen src) (pkNctr h) = false → 1 ≤ pkKind h → pkKind h ≤ 3 → pkRop h < 5 →
              t.fab.inbound = s.fab.inbound ++ [{ hdr := h, data := data, since := s.cycle }] ∧ pkNctr h ∈ Tab.get t.fab.seen src ∧
              t.ms = s.ms ∧ t.wgs = s.wgs) ∧
            (counterBad (Tab.get s.fab.seen src) (pkNctr h) = true → t.fab.inbound = s.fab.inbound ∧
              Tab.get t.prim.alarms 5 = Tab.get s.prim.alarms 5 + 1 ∧ t.ms = s.ms ∧ t.wgs = s.wgs)
        | none => t.fab.inbound = s.fab.inbound ∧ Tab.get t.prim.alarms 5 = Tab.get s.prim.alarms 5 + 1 ∧ t.ms = s.ms ∧
            t.wgs = s.wgs) ∧
    (∀ peer q (first last : BitVec 16),
      let hit := fun (p : Packet) => decide (1 ≤ pkKind p.hdr ∧ pkKind p.hdr ≤ 3) && pkDpkg p.hdr == peer && hdrKey p.hdr == q &&
        inSeq first.toNat last.toNat (pkPseq p.hdr)
      ∃ t, exec (.ackReceive peer q first last 0) s = .next t ∧ t.fab.sent = s.fab.sent.filter (fun p => !hit p) ∧
        (∀ p ∈ s.fab.sent, hit p = true → ∀ e ∈ p.ents, ∀ o ∈ t.fab.outst, o.id = e.id → e.member ∉ o.left) ∧ t.ms = s.ms ∧
        t.wgs = s.wgs) ∧
    (∀ i p, s.fab.sent[i]? = some p → p.sent = true → p.since + 18720 ≤ s.cycle → s.reachable (pkDpod p.hdr) (pkDpkg p.hdr) = true →
      ∃ t, exec (.resendTimeout i) s = .next t ∧ t.fab.sent = s.fab.sent.set i { p with sent := false } ∧ t.ms = s.ms ∧ t.wgs = s.wgs)

/-- Light (R249, R262, R263): lit wavelengths that lose light are lost and leave TXLIT, and a cleared one is lit again as the park
state leaves it; parking and waking set STATE and TXLIT; a package takes its place and its calendars when it joins a pod (R251).
When a port parks or wakes is its mover's word (assumption 43). -/
def Obligations.Light : Prop :=
  ∀ (s : State) (port : Nat),
    let x := s.port port
    let st := statState x.stat
    let lit := BitVec.ofNat 16 (statTxlit x.stat)
    let lost := BitVec.ofNat 16 (statLost x.stat)
    let holds := fun (o : Host.Outcome State Fault Refusal) (lost' lit' : BitVec 16) (st' : Nat) => ∃ t, o = .next t ∧
      statLost (t.port port).stat = lost'.toNat ∧ statTxlit (t.port port).stat = lit'.toNat ∧
      statState (t.port port).stat = st' ∧ statRxlit (t.port port).stat = statRxlit x.stat ∧ (t.port port).cfg = x.cfg
    port < 16 →
    (∀ waves, waves &&& lit ≠ 0 → holds (exec (.lossOfLight port waves) s) (lost ||| (waves &&& lit)) (lit &&& ~~~waves) st) ∧
    (∀ waves, s.prim.locked = false → waves &&& lost ≠ 0 → holds (exec (.lostClear port waves) s) (lost &&& ~~~waves)
      (if st = 3 then lit else lit ||| (waves &&& lost &&& BitVec.ofNat 16 (parkLit st))) st) ∧
    (s.prim.locked = false → st = 0 → cfgPark x.cfg ≠ 0 → cfgIdle x.cfg ≠ 0 → s.queuedBytes port = 0 →
      holds (exec (.portPark port) s) lost (BitVec.ofNat 16 (parkLit (cfgPark x.cfg)) &&& ~~~lost) (cfgPark x.cfg)) ∧
    (s.prim.locked = false → st = 1 ∨ st = 2 → cfgWakeq x.cfg ≠ 0 → cfgWakeq x.cfg * 1024 ≤ s.queuedBytes port →
      holds (exec (.portWake port) s) lost lit 3) ∧
    (s.prim.locked = false → st = 3 → holds (exec (.wakeComplete port) s) lost (0xFFFF#16 &&& ~~~lost) 0) ∧
    (∀ failed, s.prim.locked = false → st = 3 → failed &&& ~~~lit &&& ~~~lost ≠ 0 →
      holds (exec (.wakeTimeout port failed) s) (lost ||| (failed &&& ~~~lit)) (~~~(lost ||| (failed &&& ~~~lit))) 0) ∧
    (∀ pod pkg entries, s.prim.locked = false → ∃ t, exec (.calendarLoad pod pkg entries) s = .next t ∧ t.prim.pod = pod ∧ t.prim.pkg = pkg ∧
      (∀ k, k < 32 → Tab.get (t.port port).calendar k = entries.getD (32 * port + k) 0 &&& 0x81FF#16) ∧ t.ms = s.ms ∧ t.wgs = s.wgs)

/-- A delivery (R95, R96, R266): the head of a queue, whose window admits it, is taken with the entries packed with it, and the
bytes of its window are fixed; each single-copy unit of an entry is written there by itself (R92), a reduction's element combined
with what stands there (R268); with its last unit an entry is pushed to the device and its sender's outstanding count falls, and
an ordered one joins reflect into thread there; nothing is packed past it. The head of a queue that the window refuses fails its
senders' accumulators (R277). A packet of another package is delivered in its turn, and answered (R261). A valid receive window
entry of a present owner takes effect with its pages pinned, and one whose pages fault does not (R265); a window is cleared when
the deliveries under way into it are over, and takes no new one meanwhile. A pull record that its window's grant admits takes a
service claim, one of at most 8 of its die, and asks the members of its answer window; its flow is sent a packet at a time, each
when its bytes have been read, and the last store it sends is its completion, ordered (R269). Where the accesses of another
package's store lie, that nothing is packed past an ordered entry, whom a withdrawn window leaves and how a service claim walks
are the model's readings (assumptions 60, 61, 88 and 106). -/
def Obligations.WindowDeliveries : Prop :=
  (∀ (s : State) (q : QueueKey) (ord : Bool),
    let i := if ord then Instr.orderedFlagDeliver q else Instr.reflectDeliver q
    let run := s.loopHead q
    let b := runParcel run
    let at' := fun (p : Parcel) => (List.range p.data.length).map (fun j => s.windowLoc p.rwin (p.woff + j))
    (s.landingOf q = none → s.fab.clearing.contains q.rwin.toNat = true → exec i s = .next s) ∧
    (s.landingOf q = none → s.fab.clearing.contains q.rwin.toNat = false →
      (∀ e ∈ run, s.parcelCode b = 0 → let t := s.beginLanding q
        exec i s = exec i t ∧ t.ms = s.ms ∧ t.wgs = s.wgs ∧ t.fab.rq = dropRun run s.fab.rq ∧
        t.landingOf q = some { key := q, parcel := b, locs := at' b, ents := run, hdr := none, left := b.units (at' b), done := [] }) ∧
      (∀ e w g, e ∈ run → s.parcelCode b ≠ 0 → e.gang = some (w, g) → (s.wg w).hasRegion = true → e.member < 16 →
        ∃ t, exec i s = .next t ∧ (t.gang w g).fMask.getLsbD e.member = true ∧
          (∀ k, (s.gang w g).fMask.getLsbD k = true → (t.gang w g).fMask.getLsbD k = true) ∧
          (t.gang w g).fCode = (if (s.gang w g).fCode = 0 then BitVec.ofNat 8 (s.parcelCode b) else (s.gang w g).fCode) ∧
          SameRegisters (s.gang w g) (t.gang w g) ∧ t.fab.rq = dropRun run s.fab.rq) ∧
      (∀ p, run = [] → s.inboundHead q = some p → let x := s.inParcel p
        (s.parcelCode x = 0 → let t := s.beginLanding q
          exec i s = exec i t ∧ t.ms = s.ms ∧ t.wgs = s.wgs ∧ t.fab.inbound.length + 1 = s.fab.inbound.length ∧
          t.landingOf q = some { key := q, parcel := x, locs := at' x, ents := [], hdr := some p.hdr, left := x.units (at' x), done := [] }) ∧
        (s.parcelCode x ≠ 0 → ∃ t, exec i s = .next t ∧ t.ms = s.ms ∧ t.wgs = s.wgs ∧ t.fab.inbound.length + 1 = s.fab.inbound.length ∧
          t.fab.ctl.length = s.fab.ctl.length + 1 ∧ assocGet t.fab.inPseq (hdrKey p.hdr) 0 = (pkPseq p.hdr + 1) % 65536))) ∧
    (∀ l u more rest, s.landingOf q = some l → l.left = (u :: more) :: rest → l.atFlag = ord → s.flagReady l = true →
      s.fab.clearing = [] → l.locs.length = l.parcel.data.length → u.1 + u.2 ≤ l.parcel.data.length →
      let xs := (l.locs.drop u.1).take u.2
      let (die, dev) := s.landAt l.parcel
      xs.Nodup → ∃ t, exec i s = .next t ∧ SameMemoryBut xs s t ∧ t.wgs = s.wgs ∧ t.fab.rq = s.fab.rq ∧
        (l.parcel.kind ≠ 3 → ∀ j, j < u.2 → Memory.read t.ms.mem (xs.getD j 0) = (l.parcel.data.drop u.1).getD j 0) ∧
        (l.parcel.kind = 3 → leNat (t.ms.latest xs) =
          reduceVal l.parcel.rop (leNat (s.ms.latest xs)) (leNat ((l.parcel.data.drop u.1).take u.2)) % 2 ^ (8 * u.2)) ∧
        (more ≠ [] → ∃ n, t.landingOf q = some n ∧ n.left = more :: rest ∧ n.ents = l.ents ∧ t.fab.outst = s.fab.outst) ∧
        (more = [] → (∀ x ∈ xs, t.ms.view die .reflect x ≤ t.ms.view dev .reflect x) ∧
          (ord = true → ∀ x, t.ms.view dev .reflect x ≤ t.ms.view dev .thread x) ∧
          (∀ e es, l.ents = e :: es → ∀ o ∈ t.fab.outst, o.id = e.id → e.member ∉ o.left) ∧
          (rest ≠ [] → ∃ n, t.landingOf q = some n ∧ n.left = rest ∧ n.ents = l.ents.tail) ∧
          (rest = [] → t.landingOf q = none ∧ ∀ h, l.hdr = some h → t.fab.ctl.length = s.fab.ctl.length + 1 ∧
            assocGet t.fab.inPseq (hdrKey h) 0 = (pkPseq h + 1) % 65536)))) ∧
  (∀ (q : QueueKey) (n k : Nat) (past : Bool) (l : List Entry), let r := takeRun q n k past l
    ∀ i x, r[i]? = some x → x.key = q ∧ x.kind = 1 ∧ (x.ord = true → i + 1 = r.length)) ∧
  (∀ (s s1 : State),
    (∀ rwin e r,
      let first := rxBase e / 4096
      let pages := (List.range ((rxBase e + rxSize e) / 4096 - first + 1)).map (first + ·)
      rwin < 4096 → s.prim.locked = false → rxValid e = true → s.idSelf (BitVec.ofNat 32 (rxOwner e)) = true → (s.ctx (rxKey e)).present = true →
      s.pinWindow (rxKey e) pages = (r, s1) →
      ∃ t, exec (.rxWindowValidate rwin e) s = .next t ∧ (∀ pins, r = .ok pins → t.ms = s1.ms ∧
          Tab.get t.fab.rxw rwin = e ∧ Tab.get t.fab.rxPins rwin = pins ∧ (rxValid (Tab.get s.fab.rxw rwin) = false → t.wgs = s1.wgs)) ∧
        (∀ b, r = .error b → rxValid (Tab.get t.fab.rxw rwin) = false ∧ Tab.get t.fab.rxPins rwin = []) ∧
        (r = .error false → t.ms = s1.ms ∧ (rxValid (Tab.get s.fab.rxw rwin) = false → t.wgs = s1.wgs))) ∧
    (∀ rwin, ∃ t, exec (.rxWindowClear rwin) s = .next t ∧ t.ms = s.ms ∧
      (s.fab.landing.any (fun l => l.parcel.rwin == rwin) = false → rxValid (Tab.get t.fab.rxw rwin) = false ∧ rwin ∉ t.fab.clearing) ∧
      (s.fab.landing.any (fun l => l.parcel.rwin == rwin) = true → Tab.get t.fab.rxw rwin = Tab.get s.fab.rxw rwin ∧ rwin ∈ t.fab.clearing)) ∧
    (∀ die p, s.fab.pulls.find? (fun p => s.servingDie p.rwin.toNat == die) = some p →
      let n := (s.fab.services.filter (fun x => x.die == die)).length
      let s0 := s.modFab (fun f => { f with pulls := dropFirst (· == p) f.pulls })
      (8 ≤ n → exec (.pullServe die) s = .next s) ∧
      (n < 8 → s.serviceOf die p = none → ∃ t, exec (.pullServe die) s = .next t ∧ t.fab.pulls.length + 1 = s.fab.pulls.length ∧
        t.fab.services = s.fab.services ∧ t.fab.rq = s.fab.rq ∧ t.wgs = s.wgs ∧
        (s.idSelf p.sctx = false → t.fab.ctl.length = s.fab.ctl.length + 1 ∧ t.ms = s.ms)) ∧
      (∀ x, n < 8 → s.serviceOf die p = some x → (∀ y ∈ s.fab.services, y.id ≠ s.fab.nextId) →
        (s0.modFab (fun f => { f with services := f.services ++ [x], nextId := f.nextId + 1 })).walkSource x = (.ok (), s1) →
        s1.windowLost x.tx = false →
        ∃ t y, exec (.pullServe die) s = .next t ∧ t.fab.pulls.length + 1 = s.fab.pulls.length ∧ t.ms = s1.ms ∧ t.wgs = s1.wgs ∧
          t.fab.ctl.length = s.fab.ctl.length + (txMembers x.tx).length ∧ y ∈ t.fab.services ∧ y.id = s.fab.nextId ∧ y.die = die ∧
          y.live = false ∧ y.hands.map (fun h => h.pkg) = (txMembers x.tx).map (BitVec.ofNat 9))) ∧
    (∀ x, s.fab.services.find? (fun y => y.id == x.id) = some x → x.live = true →
      let sent := fun (t : State) (e : Entry → Prop) => t.ms = s.ms ∧ t.wgs = s.wgs ∧ t.fab.rq.length = s.fab.rq.length + txCount x.tx ∧
        t.fab.rq.take s.fab.rq.length = s.fab.rq ∧
        ∀ k, k < txCount x.tx → ∃ z, t.fab.rq[s.fab.rq.length + k]? = some z ∧ z.svc = some x.id ∧ z.member = k ∧ e z
      let at' := fun j => match s.serviceByte x (pullSoff x.pull.record + j) with
        | .loc y => (s.ms.readByte (.clus (x.die * 12)) .copy y, s.ms.poisoned y)
        | .zero | .host _ | .win .. => (0#8, false)
      (∀ k u, x.mv.reads[k]? = some u → x.mv.got.length < x.mv.quota → ∃ z, z ∈ (s.serviceRead x.id k).fab.services ∧ z.id = x.id ∧
        (∀ j ∈ u, Tab.get z.mv.got j = some (at' j)) ∧ (s.serviceRead x.id k).ms = s.ms ∧ (s.serviceRead x.id k).fab.rq = s.fab.rq) ∧
      (∀ j u rest, x.mv.writes = (j :: u) :: rest → (∃ y ∈ j :: u, Tab.get x.mv.got y = none) → s.serviceWrite x.id = s) ∧
      (∀ j u rest, x.mv.writes = (j :: u) :: rest → (∀ y ∈ j :: u, Tab.get x.mv.got y ≠ none) →
        sent (s.serviceWrite x.id) (fun e => e.kind = 2 ∧ e.woff = pullDoff x.pull.record + j ∧ e.ord = false ∧
          e.bytes.map some = (j :: u).map (fun y => (Tab.get x.mv.got y).map Prod.fst))) ∧
      (x.mv.writes ≠ [] → s.serve x.id = s) ∧
      (x.mv.writes = [] → x.last = false → sent (s.serve x.id) (fun e => e.kind = 1 ∧ e.woff = pullCoff x.pull.record ∧
        e.bytes = leBytes 8 (pullField x.pull.record 3 0 64) ∧ e.ord = true)) ∧
      (x.mv.writes = [] → x.last = true → s.serviceDone x.id = true →
        (s.serve x.id).fab.services = s.fab.services.filter (fun y => y.id != x.id))))

/-! ## The host side and Primrose -/

/-- At an enabled interface (R313) a spawn record without an argument block, whose header passes R13, is queued with its four
initial values (R322); one that names no context answers SPAWN code 2; the trigger of a service pair gives its buffer to the same
port (R324). An interface that is not enabled takes no record. A launch that is over raises its join counter once (R323). The host
reads and writes HBM of its interface's partition in the ranges declared for it, and nothing else (R321); an interrupt record
pends at a context that permits it (R333); Primrose and software write a context's grants, bases and level (R285, R318): a base
takes effect with its pages pinned when all of them translate. The order of a spawn record's checks, that a base whose enable bit
is 0 takes its pages too, and that gsroot with V = 0 has no structure to translate are the model's readings (assumptions 57, 59
and 86). -/
def Obligations.HostSide : Prop :=
  (∀ (s s1 : State) (vif : Nat) (r : BitVec 512),
    let key := vif * 1024 + spawnField r 1 32 10
    let stat := spawnField r 2 3 54 * 8
    let on := s.prim.locked = false ∧ vif < 64 ∧ Word.bit (s.vreg vif 0x200) 0 = true
    (Word.bit (s.vreg vif 0x200) 0 = false → exec (.spawnRecord vif r) s = .next s) ∧
    (∀ x,
      let h := BitVec.ofNat 512 x
      let n := s1.sched.nextLaunch
      let prio := spawnField r 0 57 4
      on → (s.ctx key).present = true → s.spawnRead key (spawnField r 0 0 57) 64 = (.ok x, s1) → hdrCheck h = 0 →
      hdrArglen h = 0 → s1.queueLen vif prio < 64 →
      ∃ t, exec (.spawnRecord vif r) s = .next t ∧ (t.launch n).hdr = h ∧ (t.launch n).ctx = key ∧ (t.launch n).prio = prio ∧
        (t.launch n).initV = (List.range 4).map (fun k => word (spawnField r (4 + k) 0 64)) ∧ t.sched.nextLaunch = n + 1 ∧
        Tab.get (t.vif (vifOf key)).queues prio = Tab.get (s1.vif (vifOf key)).queues prio ++ [n] ∧
        (stat ≠ 0 → leNat (t.ms.latest (locs (locHost stat) 8)) = (t.launch n).id.toNat * 2 ^ 32 + spawnField r 1 0 16 * 2 ^ 16)) ∧
    (on → (s.ctx key).present = false → ∃ t, exec (.spawnRecord vif r) s = .next t ∧ t.sched = s.sched ∧
      (stat ≠ 0 → leNat (t.ms.latest (locs (locHost stat) 8)) = spawnField r 1 0 16 * 2 ^ 16 + 2 * 2 ^ 8)) ∧
    (∀ die, (s.pair die).leader = true → (s.pair die).healthy = true →
      ∃ t, exec (.spawnTrigger die vif) s = .next t ∧ (on → exec (.spawnRecord vif (s.pair die).buffer) s = .next t)) ∧
    (∀ l a, (s.launch l).join = some a → (s.launch l).isOver = true → ∃ t, exec (.joinCounterIncrement l) s = .next t ∧
      leNat (t.ms.latest (locs (locHost a.toNat) 8)) = (leNat (s.ms.latest (locs (locHost a.toNat) 8)) + 1) % 2 ^ 64 ∧
      (t.launch l).join = none ∧ SameMemoryBut (locs (locHost a.toNat) 8) s t)) ∧
  (∀ (s : State),
    (∀ vif addr bytes, s.prim.locked = false → Word.bit (s.vreg vif 0x200) 0 = true →
      (∃ r ∈ s.prim.cxl, r.1 ≤ addr ∧ addr + bytes.length ≤ r.1 + r.2) →
      (∀ j, j < bytes.length → s.inPartition vif (addr + j) = true) → ∃ t, exec (.hostMemAccess vif addr (.write bytes)) s = .next t ∧
        (∀ j, j < bytes.length → Memory.read t.ms.mem (locHbm (addr + j)) = bytes.getD j 0) ∧
        SameMemoryBut (locs (locHbm addr) bytes.length) s t ∧ t.wgs = s.wgs) ∧
    (∀ vif addr n a, s.exposed vif addr n = false → (a = .read n ∨ ∃ bytes, bytes.length = n ∧ a = .write bytes) →
      exec (.hostMemAccess vif addr a) s = .next s) ∧
    (∀ vif addr n, s.prim.locked = false → Word.bit (s.vreg vif 0x200) 0 = true →
      (∃ r ∈ s.prim.cxl, r.1 ≤ addr ∧ addr + n ≤ r.1 + r.2) → (∀ j, j < n → s.inPartition vif (addr + j) = true) → ∃ t, exec (.hostMemAccess vif addr (.read n)) s = .next t ∧ t.ms = s.ms ∧ t.wgs = s.wgs ∧
        t.prim.out = s.prim.out ++ [.data ((List.range n).map (fun j => s.ms.readByte (.dev vif) .thread (locHbm (addr + j))))]) ∧
    (∀ vif r,
      let vec := fld r.toNat 32 6
      let tgt := BitVec.ofNat 32 (fld r.toNat 0 32)
      s.prim.locked = false → vif < 64 → Word.bit (s.vreg vif 0x200) 0 = true → idHost tgt = false → s.idSelf tgt = true →
      (s.ctx (idKey tgt)).present = true → (s.ctx (idKey tgt)).ending = none →
      s.uiPermits (idKey tgt) (s.ctxid (vif * 1024 + 0x3FF)) vec = true →
      ∃ t, exec (.interruptRecord vif r) s = .next t ∧ Word.bit (t.ctx (idKey tgt)).uipend vec = true ∧
        Tab.get (t.ctx (idKey tgt)).payload vec = word (fld r.toNat 64 64) ∧ t.ms = s.ms ∧ t.wgs = s.wgs) ∧
    (∀ key v, s.prim.locked = false → (s.ctx key).present = true → v.toNat % 4 ≠ 3 → ∃ t, exec (.ctxprivWrite key v) s = .next t ∧
      (t.ctx key).priv = v.setWidth 2 ∧ t.ms = s.ms ∧ t.wgs = s.wgs) ∧
    (∀ key idx v s1,
      let new := sregNew idx (s.creg key idx) v
      let base := Nat.land new.toNat (sregMask idx / 2 * 2)
      let size := if idx = 0x300 ∧ Word.bit new 0 = false then 0 else s.structSize key idx
      let pages := (List.range ((base + size + 4095) / 4096 - base / 4096)).map (base / 4096 + ·)
      s.prim.locked = false → (s.ctx key).present = true → idx ∈ [0x300, 0x305, 0x309, 0x30C, 0x30D, 0x30E] →
      (∀ frames, s.hostPages (vifOf key) pages = (.ok frames, s1) → ∃ t, exec (.ctxBaseWrite key idx v) s = .next t ∧
        t.creg key idx = new ∧ t.wgs = s.wgs ∧
        ∀ page ∈ pages, ∃ f, (page, f) ∈ frames ∧ Tab.get (t.ctx key).pins (pinKey idx page) = f + 1) ∧
      (s.hostPages (vifOf key) pages = (.error false, s1) → exec (.ctxBaseWrite key idx v) s = .next s1 ∧
        s1.creg key idx = s.creg key idx ∧ s1.wgs = s.wgs)) ∧
    (∀ key die v,
      let new := sregNew (0x301 + die) (s.creg key (0x301 + die)) v
      let lo := Word.bits new 0 7
      let n := Word.bits new 8 7
      s.prim.locked = false → die < 4 → (s.ctx key).present = true → lo + n ≤ 96 → die ∈ s.vifDies (vifOf key) →
      (∀ k ∈ Tab.keys s.ctxs, k ≠ key → (s.ctx k).present = true → n = 0 ∨ Word.bits (s.creg k (0x301 + die)) 8 7 = 0 ∨
        Word.bits (s.creg k (0x301 + die)) 0 7 + Word.bits (s.creg k (0x301 + die)) 8 7 ≤ lo ∨
        lo + n ≤ Word.bits (s.creg k (0x301 + die)) 0 7) →
      ∃ t, exec (.dsregWrite key die v) s = .next t ∧ t.creg key (0x301 + die) = new ∧ t.wgs = s.wgs ∧
        (∀ x, x % 8 ≠ 4 → Memory.read t.ms.mem x = Memory.read s.ms.mem x)))

/-- A change of layout (R315): staged, discarded, refused or begun with the workgroups on its dies vacated, and in effect with a
new version when those dies are empty; it is given up after 10 ms. Service pairs (R324, R325): a leader's beat is noted; without
one for 10 ms, or at a mismatch, it is held and the next healthy pair of the partition takes over, which the host learns. A
standby's mismatch halts it alone. That time has passed is the mover's word (assumption 72). -/
def Obligations.LayoutsAndPairs : Prop :=
  (∀ (s : State),
    (∀ code map, s.prim.commit = .steady → s.prim.locked = false → ∃ t, exec (.layoutStage code map) s = .next t ∧
      t.prim.commit = .staged ∧ t.prim.shadow = code ∧ t.prim.shadowMap = map ∧ t.prim.layout = s.prim.layout ∧ t.ms = s.ms ∧
      t.wgs = s.wgs ∧ ∀ a b, a < 4 → b < 4 → Tab.get t.prim.shadowFw (a * 4 + b) =
        decide (a ≠ b ∧ partOf code.toNat a = partOf code.toNat b)) ∧
    (s.prim.commit = .staged → s.prim.locked = false → ∃ t, exec .layoutAbort s = .next t ∧ t.prim.commit = .steady ∧ t.prim.shadowMap = [] ∧
      t.prim.layout = s.prim.layout ∧ t.ms = s.ms ∧ t.wgs = s.wgs) ∧
    (s.prim.commit = .staged → s.prim.locked = false → s.badLayout = true → ∃ t, exec .layoutCommit s = .next t ∧ t.prim.commit = .steady ∧
      t.prim.layout = s.prim.layout ∧ t.prim.out = s.prim.out ++ [.layout 1] ∧ t.ms = s.ms ∧ t.wgs = s.wgs) ∧
    (s.prim.commit = .staged → s.prim.locked = false → s.badLayout = false →
      let dies := affected s.prim.layout.toNat s.prim.shadow.toNat
      ∃ t, exec .layoutCommit s = .next t ∧ t.prim.commit = .quiesce ∧ t.prim.shadowDies = dies ∧ t.prim.layout = s.prim.layout ∧
        t.ms = s.ms ∧ (∀ w key, (s.wg w).status = .running → s.ctxKey w = key → key ∈ Tab.keys s.ctxs → (s.wg w).core < 384 →
          dieOf (s.wg w).core ∈ dies → (t.wg w).status = .saving)) ∧
    (s.prim.commit = .quiesce → s.diesEmpty = true → ∃ t, exec .layoutSwap s = .next t ∧ t.prim.commit = .steady ∧
      t.prim.layout = s.prim.shadow ∧ t.prim.layoutVer = s.prim.layoutVer + 1 ∧ t.prim.fw = s.prim.shadowFw ∧ t.ms = s.ms ∧
      t.wgs = s.wgs) ∧
    (s.prim.commit = .quiesce → s.prim.since + 13000000 ≤ s.cycle → ∃ t, exec .quiesceTimeout s = .next t ∧ t.prim.commit = .steady ∧
      t.prim.layout = s.prim.layout ∧ t.prim.out = s.prim.out ++ [.layout 2] ∧ t.ms = s.ms ∧ t.wgs = s.wgs)) ∧
  (∀ (s : State) (die : Nat),
    let p := s.pair die
    let code := s.prim.layout.toNat
    let taken := fun (o : Host.Outcome State Fault Refusal) => ∃ t, o = .next t ∧ (t.pair die).held = true ∧
      (t.pair die).leader = false ∧ t.prim.out = s.prim.out ++ [.takeover die] ∧ t.ms = s.ms ∧ t.wgs = s.wgs ∧
      ∀ d, (diesOf code (partOf code die)).find? (fun e => e != die && (s.pair e).healthy) = some d →
        (t.pair d).leader = true ∧ (t.pair d).takeover = true
    (p.leader = true → p.healthy = true → ∃ t, exec (.heartbeat die) s = .next t ∧ (t.pair die).beat = s.cycle ∧
      (∀ d, d ≠ die → t.pair d = s.pair d) ∧ t.ms = s.ms ∧ t.wgs = s.wgs) ∧
    (p.leader = true → p.healthy = true → p.beat + 13000000 ≤ s.cycle → taken (exec (.heartbeatLapse die) s)) ∧
    (die < 4 → p.leader = true → p.healthy = true → taken (exec (.lockstepMismatch die) s)) ∧
    (die < 4 → p.leader = false → p.healthy = true → ∃ t, exec (.lockstepMismatch die) s = .next t ∧ (t.pair die).halted = true ∧
      (∀ d, d ≠ die → t.pair d = s.pair d) ∧ t.prim.out = s.prim.out ∧ t.ms = s.ms ∧ t.wgs = s.wgs))

/-- Boot (R327) starts the firmware of an image that verifies, and opens the recovery mailbox otherwise; a recovery image that
verifies starts; provisioning lifts the lock (R329); an attestation goes to the host, signed, for a context of level 2 (R328).
Alarms, lifetime records and power (R329 to R331): a lower alarm is counted and reported, and the tamper mesh and key misuse have
none; a higher one locks the device, zeroises its keys, ends every workgroup and launch and darkens the ports; a locked device
starts no image, and a package reset leaves it locked, with its lifetime records as last written. PLIM is set within its range and
stays where it was otherwise, and the governor throttles one measure more or less; on a supply droop no gang of the die issues.
The primitives are free functions, and the extension of a measurement, the widths of a report, a PLIM out of range and a hold of
64 cycles, where the rule says up to 64, are the model's (assumptions 24, 44, 45 and 46), and so is what else a reset keeps
(assumption 103). -/
def Obligations.BootsAndAlarms : Prop :=
  (∀ (s : State) (i : Image),
    (s.prim.started = false → s.prim.locked = false → ∃ t, exec (.boot i) s = .next t ∧ t.ms = s.ms ∧ t.wgs = s.wgs ∧
      if s.verifies i then t.prim.started = true ∧ t.prim.recovery = false ∧ t.prim.version = i.version
      else t.prim.started = false ∧ t.prim.recovery = true) ∧
    (s.prim.started = false → s.prim.locked = true → ∃ t, exec (.boot i) s = .next t ∧ t.prim.recovery = true ∧
      t.prim.started = false ∧ t.ms = s.ms ∧ t.wgs = s.wgs) ∧
    (s.prim.recovery = true → s.prim.locked = false → ∃ t, exec (.recoveryImage i) s = .next t ∧ t.ms = s.ms ∧ t.wgs = s.wgs ∧
      if s.verifies i then t.prim.started = true ∧ t.prim.recovery = false else t.prim = s.prim) ∧
    (s.prim.locked = true → ∃ t, exec (.recoveryImage i) s = .next t ∧ t.prim.started = s.prim.started ∧ t.prim.locked = true ∧
      t.ms = s.ms ∧ t.wgs = s.wgs) ∧
    (∃ t, exec (.provisioning i) s = .next t ∧ t.ms = s.ms ∧ t.wgs = s.wgs ∧
      if s.verifies i then t.prim.hasKey = true ∧ t.prim.locked = false else t.prim = s.prim) ∧
    (∀ ctx nonce, (s.ctx ctx).priv = 2 → (s.ctx ctx).present = true → s.prim.hasKey = true → s.prim.locked = false →
      ∃ t l, exec (.attestationRequest ctx nonce) s = .next t ∧ t.prim.out = s.prim.out ++ [.attest (l ++ Config.slhSign l)] ∧
        l.take 32 = leBytes 32 nonce.toNat ∧ t.ms = s.ms ∧ t.wgs = s.wgs)) ∧
  (∀ (s : State),
    (∀ a n, (a, n) ∈ [(Alarm.voltage, 0), (.clock, 1), (.temperature, 2), (.fabricTag, 5)] →
      ∃ t, exec (.securityAlarmLower a) s = .next t ∧ t.prim.out = s.prim.out ++ [.alarm a false] ∧
      Tab.get t.prim.alarms n = Tab.get s.prim.alarms n + 1 ∧ (∀ k, k ≠ n → Tab.get t.prim.alarms k = Tab.get s.prim.alarms k) ∧
      t.prim.locked = s.prim.locked ∧ t.ms = s.ms ∧ t.wgs = s.wgs) ∧
    (∀ a, a = .tamper ∨ a = .keyMisuse → exec (.securityAlarmLower a) s = .next s) ∧
    (∀ a, ∃ t, exec (.securityAlarmHigher a) s = .next t ∧ t.prim.locked = true ∧ t.prim.zeroised = true ∧ t.prim.hasKey = false ∧
      (∀ w, (s.wg w).pending = true → (t.wg w).gangs = [] ∧ ∀ x, inRegionOf w x = true → Memory.read t.ms.mem x = 0#8) ∧
      (∀ l ∈ Tab.keys s.sched.launches, (t.launch l).isOver = true) ∧ t.fab.keys = [] ∧
      (∀ p, p < 16 → statTxlit (t.port p).stat = 0)) ∧
    (∀ rest, s.aux.agenda = .outside .reset :: rest → ∃ t, step s = .next t ∧ t.prim.locked = s.prim.locked ∧ t.prim.hasKey = s.prim.hasKey ∧
      t.prim.minVersion = s.prim.minVersion ∧ t.prim.life = s.prim.lifeNv ∧ t.prim.started = false ∧ t.wgs = [] ∧ t.ctxs = [] ∧
      t.sched = State.reset.sched ∧ t.fab = State.reset.fab ∧ ∀ x, isHbm x = true → Memory.read t.ms.mem x = 0#8) ∧
    (∃ t, exec .lifetimeRecordWrite s = .next t ∧ t.prim.lifeNv = s.prim.life ∧ t.prim.life = s.prim.life ∧ t.ms = s.ms ∧
      t.wgs = s.wgs) ∧
    (∀ watts, s.prim.locked = false → 1200 ≤ watts → watts ≤ 3200 → ∃ t, exec (.plimSet watts) s = .next t ∧ t.prim.plim = watts ∧
      t.ms = s.ms ∧ t.wgs = s.wgs) ∧
    (∀ watts, watts < 1200 ∨ 3200 < watts → exec (.plimSet watts) s = .next s) ∧
    (∀ x, s.prim.throttle ≤ 3 → ∃ t, exec (.powerSample x) s = .next t ∧ t.prim.throttle ≤ 3 ∧
      (s.prim.plim < x → t.prim.throttle = min 3 (s.prim.throttle + 1)) ∧ (x ≤ s.prim.plim → t.prim.throttle = s.prim.throttle - 1) ∧
      t.ms = s.ms ∧ t.wgs = s.wgs) ∧
    (∀ slot, 3 ≤ s.prim.throttle → s.slotPick slot = none) ∧
    (∀ die, die < 4 → ∃ t, exec (.supplyDroop die) s = .next t ∧ Tab.get t.prim.droop die = 64 ∧ t.ms = s.ms ∧ t.wgs = s.wgs ∧
      (∀ slot, dieOf (slot / 4) = die → t.slotPick slot = none) ∧ ∀ d, d ≠ die → Tab.get t.prim.droop d = Tab.get s.prim.droop d))

/-! ## The ordering machine -/

/-- A free push carries a location's view at an instance to its parents, a free pull the parents' to it; no view moves back and no
write is added (R84). An entry of Q(t) that an earlier one precedes, by R85, does not perform; another leaves the queue, and a
load gives its register what the lane's view has, a store writes its bytes, an atomic takes its step (R84). Of one thread an entry
precedes a later one when they touch a common byte, when it is an acquire or the later one a release, and a reflected or posted
store another; of one word, when they touch a common byte, and into one kind of queue (R85, R94, R168). A load, a store or an
atomic whose accesses are to stay in Q(t) passes its checks, adds one entry for each lane with its release and acquire, goes on,
and reads and writes nothing. An Iris gives its next transfer a turn of 4 KiB (R240). How much one move takes, which words leave
entries and how a turn is counted are the model's readings (assumptions 4, 47 and 83). -/
def Obligations.OrderingMachine : Prop :=
  (∀ (s : State) (i : Inst) (c : PathClass) (loc : Nat), hasClass i c = true →
    let only := fun (t : State) => t.ms.mem = s.ms.mem ∧ t.ms.hist = s.ms.hist ∧ t.wgs = s.wgs ∧ SameDevice s t ∧
      ∀ j d x, s.ms.view j d x ≤ t.ms.view j d x
    (∃ t, exec (.freePush i c loc) s = .next t ∧ only t ∧ ∀ p ∈ s.parents i, s.ms.view i c loc ≤ t.ms.view p c loc) ∧
    (∃ t, exec (.freePull i c loc) s = .next t ∧ only t ∧ ∀ p ∈ s.parents i, s.ms.view p c loc ≤ t.ms.view i c loc)) ∧
  (∀ (a e : QEntry),
    let touch := ∃ b ∈ e.bytes, b ∈ a.bytes
    let queued := (∃ b p o z b' p' o' z', a.act = .window b p o z ∧ e.act = .window b' p' o' z') ∨
      (∃ b p z b' p' z', a.act = .host b p z ∧ e.act = .host b' p' z')
    (a.before e = true ↔ (a.lane = e.lane ∧ (touch ∨ a.acq ≠ none ∨ e.rel ≠ none ∨ queued)) ∨ (a.num = e.num ∧ (touch ∨ queued)))) ∧
  (∀ (s : State) (w g k : Nat) (e : QEntry),
    let q := (s.gang w g).queue
    let t := s.performAt w g k
    let given := fun (dst : Nat) (nw : Bool) (x : Word) => e.bank = false → e.run = false →
      (t.gang w g).vGet e.lane dst = if nw then (s.gang w g).vGet e.lane dst else x
    q[k]? = some e →
    ((∃ a ∈ q.take k, a.before e = true) → t = s) ∧
    ((∀ a ∈ q.take k, a.before e = false) → (t.gang w g).queue = q.eraseIdx k) ∧
    ((∀ a ∈ q.take k, a.before e = false) → e.rel = none → e.acq = none →
      (∀ dst nw ty, e.act = .load dst nw ty → t.ms = s.ms ∧ SameDevice s t ∧ given dst nw (extend ty (s.loadLane w g e.plan))) ∧
      (∀ bytes tie, e.act = .store bytes tie → SameUnits s t ∧ ∀ x, Memory.read t.ms.mem x =
        Memory.read (((e.plan.bytes.zip bytes).filterMap (fun b => match b.1 with
          | .loc x => some (x, b.2)
          | .zero | .host _ | .win .. => none)).foldl (fun m b => Memory.write m b.1 b.2) s.ms.mem) x) ∧
      (∀ r dst nw ty, e.act = .rmw r dst nw ty → let x := s.atomicLane w g e.plan r.write
        t.ms.mem = x.2.ms.mem ∧ SameUnits s t ∧ given dst nw (extend ty x.1)))) ∧
  (∀ (w : FullWord) (s u s1 : State) (c : Issue) (p : Plan), u = s.deferring → c.late u = true →
    let g := c.g s
    let n := esize w.type
    let d := g.dGet (w.sc.toNat % 16)
    let ls := recLanes c.act (c.srcA g)
    let u0 := c.warn (c.f.warns c.op w) u
    let scr := (lanesOf c.act).map (fun i => (i, scratchAdv (w.xb % 4) (c.srcA g i).toNat w.imm16.toInt))
    let b := fun i => (c.srcB g 64 i).toNat
    let entered := fun (t : State) (p : Plan) (act : Nat → QAct) => (c.g t).queue.take g.queue.length = g.queue ∧
      ((c.g t).queue.drop g.queue.length).map (fun e => (e.lane, e.plan, e.act)) = p.go.map (fun l => (l.lane, l, act l.lane)) ∧
      (∀ e ∈ (c.g t).queue.drop g.queue.length, e.rel = (if c.releases then some c.scope else none) ∧
        e.acq = (if c.acquires then some c.scope else none) ∧ ∀ a ∈ g.queue, a.num < e.num) ∧
      NextWord c g (c.g t) ∧ SameGangs c.wg c.gang u t
    let rest := fun (p : Plan) i => if p.go.any (fun l => l.lane == i) then none else some 0#64
    let atomic := fun (o : Host.Outcome State Fault Refusal) (r : Nat → Rmw) => w.type < 18 → AtomPlan c u s1 p → c.mustWait u = false →
      p.todo = 0#32 → p.stop = none → (p.poison s1.ms).1 = 0#32 → ∃ t, o = .next t ∧
      entered t p (fun i => .rmw (r i) w.dst.toNat w.nw w.type) ∧ Results c (rest p) g (c.g t) ∧ t.ms = s1.ms
    (Ready 0xA4 w s c → (s.scrBad c.wg (w.xb % 4) n scr).1 = 0#32 → p = s.planScratch c.wg (w.xb % 4) n scr → (p.poison s.ms).1 = 0#32 →
      ∃ t, exec (.lds w) u = .next t ∧ entered t p (fun _ => .load w.dst.toNat w.nw w.type) ∧ SameValues g (c.g t) ∧ t.ms = s.ms ∧
        SameDevice u t) ∧
    (Ready 0xA5 w s c → (s.scrBad c.wg (w.xb % 4) n scr).1 = 0#32 → p = s.planScratch c.wg (w.xb % 4) n scr → c.mustWait u = false →
      ∃ t, exec (.sts w) u = .next t ∧ entered t p (fun i => .store (leBytes n (g.vGet i w.dst.toNat).toNat) []) ∧ SameValues g (c.g t) ∧
        t.ms = s.ms ∧ SameDevice u t) ∧
    (Ready 0xA2 w s c → s.recTrap c.wg d .load n c.act ls = none → c.planRecord d .load n ls u0 = (p, s1) → p.todo = 0#32 → p.stop = none →
      (p.poison s1.ms).1 = 0#32 → ∃ t, exec (.ldb w) u = .next t ∧ entered t p (fun _ => .load w.dst.toNat w.nw w.type) ∧
        Results c (rest p) g (c.g t) ∧ t.ms = s1.ms ∧ SameDevice s1 t) ∧
    (Ready 0xA3 w s c → s.recTrap c.wg d .store n c.act ls = none → c.mustWait u = false → recIsMx d = false → recKind d ≠ 0x10 →
      recKind d ≠ 2 → recKind d ≠ 3 → c.planRecord d .store n ls (if 64 ≤ w.xb then c.warn wIGN u0 else u0) = (p, s1) → p.todo = 0#32 →
      p.stop = none → ∃ t, exec (.stb w) u = .next t ∧ entered t p (fun i => .store (leBytes n (b i)) []) ∧ SameValues g (c.g t) ∧
        t.ms = s1.ms ∧ SameDevice s1 t) ∧
    (Ready 0xA8 w s c → atomic (exec (.atom w) u) (fun i => .atom (w.xb % 16) c.ty n (b i))) ∧
    (Ready 0xA9 w s c → atomic (exec (.cas w) u) (fun i => .cas (g.vGet i w.dst.toNat).toNat (b i) (8 * n) (8 * n))) ∧
    (Ready 0xAA w s c → atomic (exec (.atomf w) u) (fun i => .atomf (w.xb % 16) w.type (b i)))) ∧
  (∀ (s : State) (k : Nat) (i : XferId), (s.wgs.map Prod.fst).Nodup → s.nextXfer k = some i →
    let t := s.irisTurn k
    (t.engine k).lastIris = some i ∧ t.ms = s.ms ∧ ∀ j x, (j, x) ∈ s.xfersOf k → ∃ y, (j, y) ∈ t.xfersOf k ∧ y.reads = x.reads ∧
      y.got = x.got ∧ y.writes = x.writes ∧ y.quota = x.quota + if j = i then 4096 else 0)
end

