-- ==== Sys2Proof/Laws/Encoding.lean ====
section
/-! SUPPORT. Words written and read again: the fields of each format come back (spec/11_encoding.md R116, R125, R126). -/

namespace Sys2Proof

theorem packFull_lt (op : Nat) (w : FullWord) (h : op < 256) : packFull op w < 2 ^ 63 := by
  obtain ⟨hh, gp, gi, nw, dst, sa, sb, sc, md⟩ := w
  have := gp.isLt; have := dst.isLt; have := sa.isLt; have := sb.isLt; have := sc.isLt; have := md.isLt
  simp only [packFull, bitN]
  split <;> split <;> split <;> omega

/-- A full-format word is read as its opcode and fields. -/
theorem decodeNat_packFull (op : Nat) (w : FullWord) (h : op < 256) : decodeNat (packFull op w) = decodeFull op w := by
  obtain ⟨hh, gp, gi, nw, dst, sa, sb, sc, md⟩ := w
  have h1 := gp.isLt; have h2 := dst.isLt; have h3 := sa.isLt; have h4 := sb.isLt; have h5 := sc.isLt; have h6 := md.isLt
  have hlt := packFull_lt op ⟨hh, gp, gi, nw, dst, sa, sb, sc, md⟩ h
  have e1 : packFull op ⟨hh, gp, gi, nw, dst, sa, sb, sc, md⟩ / 2 ^ 63 % 2 = 0 := by omega
  have e2 : packFull op ⟨hh, gp, gi, nw, dst, sa, sb, sc, md⟩ / 2 ^ 54 % 256 = op := by
    simp only [packFull, bitN]; split <;> split <;> split <;> omega
  have e3 : (packFull op ⟨hh, gp, gi, nw, dst, sa, sb, sc, md⟩ / 2 ^ 62 % 2 == 1) = hh := by
    simp only [packFull, bitN]; cases hh <;> simp <;> split <;> split <;> omega
  have e4 : unpackFull hh (packFull op ⟨hh, gp, gi, nw, dst, sa, sb, sc, md⟩) = ⟨hh, gp, gi, nw, dst, sa, sb, sc, md⟩ := by
    simp only [unpackFull, FullWord.mk.injEq, true_and]
    refine ⟨?_, ?_, ?_, ?_, ?_, ?_, ?_, ?_⟩
    · apply BitVec.eq_of_toNat_eq; simp only [packFull, bitN, BitVec.toNat_ofNat]; split <;> split <;> split <;> omega
    · simp only [packFull, bitN]; cases gi <;> simp <;> split <;> split <;> omega
    · simp only [packFull, bitN]; cases nw <;> simp <;> split <;> split <;> omega
    all_goals (apply BitVec.eq_of_toNat_eq; simp only [packFull, bitN, BitVec.toNat_ofNat]; split <;> split <;> split <;> omega)
  simp only [decodeNat, e1, e2, e3, e4]
  simp

theorem packHalf_lt (x : Half) : packHalf x < 2 ^ 31 := by
  obtain ⟨hop, gp, df, src, hm⟩ := x
  have := hop.isLt; have := gp.isLt; have := df.isLt; have := src.isLt; have := hm.isLt
  simp only [packHalf]; omega

/-- The fields of a half come back, whatever stands above it. -/
theorem unpackHalf_packHalf (x : Half) (n : Nat) : unpackHalf (n * 2 ^ 31 + packHalf x) = x := by
  obtain ⟨hop, gp, df, src, hm⟩ := x
  have := hop.isLt; have := gp.isLt; have := df.isLt; have := src.isLt; have := hm.isLt
  simp only [unpackHalf, Half.mk.injEq]
  refine ⟨?_, ?_, ?_, ?_, ?_⟩ <;> (apply BitVec.eq_of_toNat_eq; simp only [packHalf, BitVec.toNat_ofNat]; omega)

end Sys2Proof
end

