-- ==== Sys2Proof/Laws/PerInstr.lean ====
section
/-! SUPPORT. Laws of instructions as syntax, one lemma for each constructor of Instr. -/

namespace Sys2Proof.Laws

/-- The opcode and the fields of a well-formed instruction name it (spec/11_encoding.md R121, R123). -/
def Names.Statement (i : Instr) : Prop :=
  i.wellFormed = true → ∀ op w, i.word = some (op, w) → op < 256 ∧ opInstr op w = i

namespace Names

/-- The selector of a well-formed instruction holds. -/
theorem chosen {i : Instr} {op : Nat} {w : FullWord} {p : Prop} [Decidable p]
    (h : i.wellFormed = (fullLegal op w && decide p)) (hw : i.wellFormed = true) : p :=
  of_decide_eq_true (Bool.and_eq_true_iff.1 (h ▸ hw)).2

theorem nop (w : FullWord) : Statement (.nop w) := fun _ _ _ e => by cases e; exact ⟨by decide, rfl⟩
theorem bra (w : FullWord) : Statement (.bra w) := fun _ _ _ e => by cases e; exact ⟨by decide, rfl⟩
theorem brc (w : FullWord) : Statement (.brc w) := fun _ _ _ e => by cases e; exact ⟨by decide, rfl⟩
theorem brx (w : FullWord) : Statement (.brx w) := fun _ _ _ e => by cases e; exact ⟨by decide, rfl⟩
theorem lpad (w : FullWord) : Statement (.lpad w) := fun _ _ _ e => by cases e; exact ⟨by decide, rfl⟩
theorem call (w : FullWord) : Statement (.call w) := fun _ _ _ e => by cases e; exact ⟨by decide, rfl⟩
theorem callx (w : FullWord) : Statement (.callx w) := fun _ _ _ e => by cases e; exact ⟨by decide, rfl⟩
theorem ret (w : FullWord) : Statement (.ret w) := fun _ _ _ e => by cases e; exact ⟨by decide, rfl⟩
theorem exit (w : FullWord) : Statement (.exit w) := fun _ _ _ e => by cases e; exact ⟨by decide, rfl⟩
theorem yield (w : FullWord) : Statement (.yield w) := fun _ _ _ e => by cases e; exact ⟨by decide, rfl⟩
theorem join (w : FullWord) : Statement (.join w) := fun _ _ _ e => by cases e; exact ⟨by decide, rfl⟩
theorem joinRelease (wg gang k : Nat) : Statement (.joinRelease wg gang k) := fun _ _ _ e => nomatch e
theorem kopSet (w : FullWord) : Statement (.kopSet w) := fun h _ _ e => by
  have hs := chosen (op := 0x0B) (p := w.sop = 0) rfl h
  cases e; refine ⟨by decide, ?_⟩; change ite _ _ _ = _; simp_all
theorem kopOr (w : FullWord) : Statement (.kopOr w) := fun h _ _ e => by
  have hs := chosen (op := 0x0B) (p := w.sop = 1) rfl h
  cases e; refine ⟨by decide, ?_⟩; change ite _ _ _ = _; simp_all
theorem kopAnd (w : FullWord) : Statement (.kopAnd w) := fun h _ _ e => by
  have hs := chosen (op := 0x0B) (p := w.sop = 2) rfl h
  cases e; refine ⟨by decide, ?_⟩; change ite _ _ _ = _; simp_all
theorem kopAndn (w : FullWord) : Statement (.kopAndn w) := fun h _ _ e => by
  have hs := chosen (op := 0x0B) (p := w.sop = 3) rfl h
  cases e; refine ⟨by decide, ?_⟩; change ite _ _ _ = _; simp_all
theorem kopCopy (w : FullWord) : Statement (.kopCopy w) := fun h _ _ e => by
  have hs := chosen (op := 0x0B) (p := w.sop = 4) rfl h
  cases e; refine ⟨by decide, ?_⟩; change ite _ _ _ = _; simp_all
theorem kopLoad (w : FullWord) : Statement (.kopLoad w) := fun h _ _ e => by
  have hs := chosen (op := 0x0B) (p := w.sop = 5) rfl h
  cases e; refine ⟨by decide, ?_⟩; change ite _ _ _ = _; simp_all
theorem krd (w : FullWord) : Statement (.krd w) := fun _ _ _ e => by cases e; exact ⟨by decide, rfl⟩
theorem cmp (w : FullWord) : Statement (.cmp w) := fun _ _ _ e => by cases e; exact ⟨by decide, rfl⟩
theorem plop (w : FullWord) : Statement (.plop w) := fun _ _ _ e => by cases e; exact ⟨by decide, rfl⟩
theorem pmov (w : FullWord) : Statement (.pmov w) := fun h _ _ e => by
  have hs := chosen (op := 0x12) (p := w.xa = 0) rfl h
  cases e; refine ⟨by decide, ?_⟩; change ite _ _ _ = _; simp_all
theorem pmovSave (w : FullWord) : Statement (.pmovSave w) := fun h _ _ e => by
  have hs := chosen (op := 0x12) (p := w.xa = 1) rfl h
  cases e; refine ⟨by decide, ?_⟩; change ite _ _ _ = _; simp_all
theorem pmovLoad (w : FullWord) : Statement (.pmovLoad w) := fun h _ _ e => by
  have hs := chosen (op := 0x12) (p := w.xa = 2) rfl h
  cases e; refine ⟨by decide, ?_⟩; change ite _ _ _ = _; simp_all
theorem pmovNz (w : FullWord) : Statement (.pmovNz w) := fun h _ _ e => by
  have hs := chosen (op := 0x12) (p := w.xa = 3) rfl h
  cases e; refine ⟨by decide, ?_⟩; change ite _ _ _ = _; simp_all
theorem csrd (w : FullWord) : Statement (.csrd w) := fun h _ _ e => by
  have hs := chosen (op := 0x13) (p := fld w.modN 0 12 ≠ 6) rfl h
  cases e; refine ⟨by decide, ?_⟩; change ite _ _ _ = _; simp_all
theorem rstackPop (w : FullWord) : Statement (.rstackPop w) := fun h _ _ e => by
  have hs := chosen (op := 0x13) (p := fld w.modN 0 12 = 6) rfl h
  cases e; refine ⟨by decide, ?_⟩; change ite _ _ _ = _; simp_all
theorem cswr (w : FullWord) : Statement (.cswr w) := fun h _ _ e => by
  have hs := chosen (op := 0x14) (p := fld w.modN 0 12 ≠ 6) rfl h
  cases e; refine ⟨by decide, ?_⟩; change ite _ _ _ = _; simp_all
theorem rstackPush (w : FullWord) : Statement (.rstackPush w) := fun h _ _ e => by
  have hs := chosen (op := 0x14) (p := fld w.modN 0 12 = 6) rfl h
  cases e; refine ⟨by decide, ?_⟩; change ite _ _ _ = _; simp_all
theorem csor (w : FullWord) : Statement (.csor w) := fun _ _ _ e => by cases e; exact ⟨by decide, rfl⟩
theorem csandn (w : FullWord) : Statement (.csandn w) := fun _ _ _ e => by cases e; exact ⟨by decide, rfl⟩
theorem mov (w : FullWord) : Statement (.mov w) := fun _ _ _ e => by cases e; exact ⟨by decide, rfl⟩
theorem movi (w : FullWord) : Statement (.movi w) := fun _ _ _ e => by cases e; exact ⟨by decide, rfl⟩
theorem add (w : FullWord) : Statement (.add w) := fun _ _ _ e => by cases e; exact ⟨by decide, rfl⟩
theorem addc (w : FullWord) : Statement (.addc w) := fun _ _ _ e => by cases e; exact ⟨by decide, rfl⟩
theorem sub (w : FullWord) : Statement (.sub w) := fun _ _ _ e => by cases e; exact ⟨by decide, rfl⟩
theorem subb (w : FullWord) : Statement (.subb w) := fun _ _ _ e => by cases e; exact ⟨by decide, rfl⟩
theorem mul (w : FullWord) : Statement (.mul w) := fun _ _ _ e => by cases e; exact ⟨by decide, rfl⟩
theorem mulh (w : FullWord) : Statement (.mulh w) := fun _ _ _ e => by cases e; exact ⟨by decide, rfl⟩
theorem mad (w : FullWord) : Statement (.mad w) := fun _ _ _ e => by cases e; exact ⟨by decide, rfl⟩
theorem div (w : FullWord) : Statement (.div w) := fun _ _ _ e => by cases e; exact ⟨by decide, rfl⟩
theorem rem (w : FullWord) : Statement (.rem w) := fun _ _ _ e => by cases e; exact ⟨by decide, rfl⟩
theorem min (w : FullWord) : Statement (.min w) := fun h _ _ e => by
  have hs := chosen (op := 0x2B) (p := w.sop = 0) rfl h
  cases e; refine ⟨by decide, ?_⟩; change ite _ _ _ = _; simp_all
theorem max (w : FullWord) : Statement (.max w) := fun h _ _ e => by
  have hs := chosen (op := 0x2B) (p := w.sop = 1) rfl h
  cases e; refine ⟨by decide, ?_⟩; change ite _ _ _ = _; simp_all
theorem abs (w : FullWord) : Statement (.abs w) := fun h _ _ e => by
  have hs := chosen (op := 0x2C) (p := w.sop = 0) rfl h
  cases e; refine ⟨by decide, ?_⟩; change ite _ _ _ = _; simp_all
theorem neg (w : FullWord) : Statement (.neg w) := fun h _ _ e => by
  have hs := chosen (op := 0x2C) (p := w.sop = 1) rfl h
  cases e; refine ⟨by decide, ?_⟩; change ite _ _ _ = _; simp_all
theorem and (w : FullWord) : Statement (.and w) := fun _ _ _ e => by cases e; exact ⟨by decide, rfl⟩
theorem or (w : FullWord) : Statement (.or w) := fun _ _ _ e => by cases e; exact ⟨by decide, rfl⟩
theorem xor (w : FullWord) : Statement (.xor w) := fun _ _ _ e => by cases e; exact ⟨by decide, rfl⟩
theorem andn (w : FullWord) : Statement (.andn w) := fun _ _ _ e => by cases e; exact ⟨by decide, rfl⟩
theorem not (w : FullWord) : Statement (.not w) := fun _ _ _ e => by cases e; exact ⟨by decide, rfl⟩
theorem shl (w : FullWord) : Statement (.shl w) := fun _ _ _ e => by cases e; exact ⟨by decide, rfl⟩
theorem shr (w : FullWord) : Statement (.shr w) := fun _ _ _ e => by cases e; exact ⟨by decide, rfl⟩
theorem sar (w : FullWord) : Statement (.sar w) := fun _ _ _ e => by cases e; exact ⟨by decide, rfl⟩
theorem rot (w : FullWord) : Statement (.rot w) := fun _ _ _ e => by cases e; exact ⟨by decide, rfl⟩
theorem fshf (w : FullWord) : Statement (.fshf w) := fun _ _ _ e => by cases e; exact ⟨by decide, rfl⟩
theorem popc (w : FullWord) : Statement (.popc w) := fun h _ _ e => by
  have hs := chosen (op := 0x37) (p := w.sop = 0) rfl h
  cases e; refine ⟨by decide, ?_⟩; change ite _ _ _ = _; simp_all
theorem clz (w : FullWord) : Statement (.clz w) := fun h _ _ e => by
  have hs := chosen (op := 0x37) (p := w.sop = 1) rfl h
  cases e; refine ⟨by decide, ?_⟩; change ite _ _ _ = _; simp_all
theorem ctz (w : FullWord) : Statement (.ctz w) := fun h _ _ e => by
  have hs := chosen (op := 0x37) (p := w.sop = 2) rfl h
  cases e; refine ⟨by decide, ?_⟩; change ite _ _ _ = _; simp_all
theorem brev (w : FullWord) : Statement (.brev w) := fun h _ _ e => by
  have hs := chosen (op := 0x37) (p := w.sop = 3) rfl h
  cases e; refine ⟨by decide, ?_⟩; change ite _ _ _ = _; simp_all
theorem bfe (w : FullWord) : Statement (.bfe w) := fun _ _ _ e => by cases e; exact ⟨by decide, rfl⟩
theorem bfi (w : FullWord) : Statement (.bfi w) := fun _ _ _ e => by cases e; exact ⟨by decide, rfl⟩
theorem sel (w : FullWord) : Statement (.sel w) := fun _ _ _ e => by cases e; exact ⟨by decide, rfl⟩
theorem sext (w : FullWord) : Statement (.sext w) := fun h _ _ e => by
  have hs := chosen (op := 0x3B) (p := w.sop = 0) rfl h
  cases e; refine ⟨by decide, ?_⟩; change ite _ _ _ = _; simp_all
theorem zext (w : FullWord) : Statement (.zext w) := fun h _ _ e => by
  have hs := chosen (op := 0x3B) (p := w.sop = 1) rfl h
  cases e; refine ⟨by decide, ?_⟩; change ite _ _ _ = _; simp_all
theorem addr (w : FullWord) : Statement (.addr w) := fun _ _ _ e => by cases e; exact ⟨by decide, rfl⟩
theorem vadd (w : FullWord) : Statement (.vadd w) := fun _ _ _ e => by cases e; exact ⟨by decide, rfl⟩
theorem vsub (w : FullWord) : Statement (.vsub w) := fun _ _ _ e => by cases e; exact ⟨by decide, rfl⟩
theorem vmul (w : FullWord) : Statement (.vmul w) := fun _ _ _ e => by cases e; exact ⟨by decide, rfl⟩
theorem vmulh (w : FullWord) : Statement (.vmulh w) := fun _ _ _ e => by cases e; exact ⟨by decide, rfl⟩
theorem vmad (w : FullWord) : Statement (.vmad w) := fun _ _ _ e => by cases e; exact ⟨by decide, rfl⟩
theorem vdot (w : FullWord) : Statement (.vdot w) := fun _ _ _ e => by cases e; exact ⟨by decide, rfl⟩
theorem vmin (w : FullWord) : Statement (.vmin w) := fun _ _ _ e => by cases e; exact ⟨by decide, rfl⟩
theorem vmax (w : FullWord) : Statement (.vmax w) := fun _ _ _ e => by cases e; exact ⟨by decide, rfl⟩
theorem vabs (w : FullWord) : Statement (.vabs w) := fun _ _ _ e => by cases e; exact ⟨by decide, rfl⟩
theorem vavg (w : FullWord) : Statement (.vavg w) := fun _ _ _ e => by cases e; exact ⟨by decide, rfl⟩
theorem vsad (w : FullWord) : Statement (.vsad w) := fun _ _ _ e => by cases e; exact ⟨by decide, rfl⟩
theorem vshl (w : FullWord) : Statement (.vshl w) := fun _ _ _ e => by cases e; exact ⟨by decide, rfl⟩
theorem vshr (w : FullWord) : Statement (.vshr w) := fun _ _ _ e => by cases e; exact ⟨by decide, rfl⟩
theorem vsar (w : FullWord) : Statement (.vsar w) := fun _ _ _ e => by cases e; exact ⟨by decide, rfl⟩
theorem vcmp (w : FullWord) : Statement (.vcmp w) := fun _ _ _ e => by cases e; exact ⟨by decide, rfl⟩
theorem vsel (w : FullWord) : Statement (.vsel w) := fun _ _ _ e => by cases e; exact ⟨by decide, rfl⟩
theorem vpack (w : FullWord) : Statement (.vpack w) := fun _ _ _ e => by cases e; exact ⟨by decide, rfl⟩
theorem vunpk (w : FullWord) : Statement (.vunpk w) := fun _ _ _ e => by cases e; exact ⟨by decide, rfl⟩
theorem vperm (w : FullWord) : Statement (.vperm w) := fun _ _ _ e => by cases e; exact ⟨by decide, rfl⟩
theorem vtbl (w : FullWord) : Statement (.vtbl w) := fun _ _ _ e => by cases e; exact ⟨by decide, rfl⟩
theorem vswz (w : FullWord) : Statement (.vswz w) := fun _ _ _ e => by cases e; exact ⟨by decide, rfl⟩
theorem fadd (w : FullWord) : Statement (.fadd w) := fun _ _ _ e => by cases e; exact ⟨by decide, rfl⟩
theorem fsub (w : FullWord) : Statement (.fsub w) := fun _ _ _ e => by cases e; exact ⟨by decide, rfl⟩
theorem fmul (w : FullWord) : Statement (.fmul w) := fun _ _ _ e => by cases e; exact ⟨by decide, rfl⟩
theorem fma (w : FullWord) : Statement (.fma w) := fun _ _ _ e => by cases e; exact ⟨by decide, rfl⟩
theorem fmin (w : FullWord) : Statement (.fmin w) := fun _ _ _ e => by cases e; exact ⟨by decide, rfl⟩
theorem fmax (w : FullWord) : Statement (.fmax w) := fun _ _ _ e => by cases e; exact ⟨by decide, rfl⟩
theorem fabs (w : FullWord) : Statement (.fabs w) := fun _ _ _ e => by cases e; exact ⟨by decide, rfl⟩
theorem fneg (w : FullWord) : Statement (.fneg w) := fun _ _ _ e => by cases e; exact ⟨by decide, rfl⟩
theorem fcmp (w : FullWord) : Statement (.fcmp w) := fun _ _ _ e => by cases e; exact ⟨by decide, rfl⟩
theorem fcls (w : FullWord) : Statement (.fcls w) := fun _ _ _ e => by cases e; exact ⟨by decide, rfl⟩
theorem frnd (w : FullWord) : Statement (.frnd w) := fun _ _ _ e => by cases e; exact ⟨by decide, rfl⟩
theorem fcvt (w : FullWord) : Statement (.fcvt w) := fun _ _ _ e => by cases e; exact ⟨by decide, rfl⟩
theorem icvt (w : FullWord) : Statement (.icvt w) := fun _ _ _ e => by cases e; exact ⟨by decide, rfl⟩
theorem fscl (w : FullWord) : Statement (.fscl w) := fun _ _ _ e => by cases e; exact ⟨by decide, rfl⟩
theorem rcp (w : FullWord) : Statement (.rcp w) := fun _ _ _ e => by cases e; exact ⟨by decide, rfl⟩
theorem rsq (w : FullWord) : Statement (.rsq w) := fun _ _ _ e => by cases e; exact ⟨by decide, rfl⟩
theorem sqrt (w : FullWord) : Statement (.sqrt w) := fun _ _ _ e => by cases e; exact ⟨by decide, rfl⟩
theorem exp2 (w : FullWord) : Statement (.exp2 w) := fun _ _ _ e => by cases e; exact ⟨by decide, rfl⟩
theorem log2 (w : FullWord) : Statement (.log2 w) := fun _ _ _ e => by cases e; exact ⟨by decide, rfl⟩
theorem sinp (w : FullWord) : Statement (.sinp w) := fun _ _ _ e => by cases e; exact ⟨by decide, rfl⟩
theorem cosp (w : FullWord) : Statement (.cosp w) := fun _ _ _ e => by cases e; exact ⟨by decide, rfl⟩
theorem tanh (w : FullWord) : Statement (.tanh w) := fun _ _ _ e => by cases e; exact ⟨by decide, rfl⟩
theorem shf (w : FullWord) : Statement (.shf w) := fun _ _ _ e => by cases e; exact ⟨by decide, rfl⟩
theorem shfi (w : FullWord) : Statement (.shfi w) := fun _ _ _ e => by cases e; exact ⟨by decide, rfl⟩
theorem vote (w : FullWord) : Statement (.vote w) := fun _ _ _ e => by cases e; exact ⟨by decide, rfl⟩
theorem red (w : FullWord) : Statement (.red w) := fun _ _ _ e => by cases e; exact ⟨by decide, rfl⟩
theorem scan (w : FullWord) : Statement (.scan w) := fun _ _ _ e => by cases e; exact ⟨by decide, rfl⟩
theorem bcast (w : FullWord) : Statement (.bcast w) := fun _ _ _ e => by cases e; exact ⟨by decide, rfl⟩
theorem matchLanes (w : FullWord) : Statement (.matchLanes w) := fun _ _ _ e => by cases e; exact ⟨by decide, rfl⟩
theorem elect (w : FullWord) : Statement (.elect w) := fun _ _ _ e => by cases e; exact ⟨by decide, rfl⟩
theorem memberFormPerform (wg gang park : Nat) : Statement (.memberFormPerform wg gang park) := fun _ _ _ e => nomatch e
theorem pair (w : PairWord) : Statement (.pair w) := fun _ _ _ e => nomatch e
theorem dld (w : FullWord) : Statement (.dld w) := fun _ _ _ e => by cases e; exact ⟨by decide, rfl⟩
theorem dmod (w : FullWord) : Statement (.dmod w) := fun _ _ _ e => by cases e; exact ⟨by decide, rfl⟩
theorem ldb (w : FullWord) : Statement (.ldb w) := fun _ _ _ e => by cases e; exact ⟨by decide, rfl⟩
theorem stb (w : FullWord) : Statement (.stb w) := fun _ _ _ e => by cases e; exact ⟨by decide, rfl⟩
theorem stbWindow (w : FullWord) : Statement (.stbWindow w) := fun h => nomatch h
theorem lds (w : FullWord) : Statement (.lds w) := fun _ _ _ e => by cases e; exact ⟨by decide, rfl⟩
theorem sts (w : FullWord) : Statement (.sts w) := fun _ _ _ e => by cases e; exact ⟨by decide, rfl⟩
theorem ldc (w : FullWord) : Statement (.ldc w) := fun _ _ _ e => by cases e; exact ⟨by decide, rfl⟩
theorem tmov (w : FullWord) : Statement (.tmov w) := fun _ _ _ e => by cases e; exact ⟨by decide, rfl⟩
theorem tmovComplete (wg i : Nat) : Statement (.tmovComplete wg i) := fun _ _ _ e => nomatch e
theorem atom (w : FullWord) : Statement (.atom w) := fun _ _ _ e => by cases e; exact ⟨by decide, rfl⟩
theorem cas (w : FullWord) : Statement (.cas w) := fun _ _ _ e => by cases e; exact ⟨by decide, rfl⟩
theorem atomf (w : FullWord) : Statement (.atomf w) := fun _ _ _ e => by cases e; exact ⟨by decide, rfl⟩
theorem fence (w : FullWord) : Statement (.fence w) := fun _ _ _ e => by cases e; exact ⟨by decide, rfl⟩
theorem fencex (w : FullWord) : Statement (.fencex w) := fun _ _ _ e => by cases e; exact ⟨by decide, rfl⟩
theorem persist (w : FullWord) : Statement (.persist w) := fun _ _ _ e => by cases e; exact ⟨by decide, rfl⟩
theorem barw (w : FullWord) : Statement (.barw w) := fun _ _ _ e => by cases e; exact ⟨by decide, rfl⟩
theorem wiredBarrierComplete (inst : Nat) : Statement (.wiredBarrierComplete inst) := fun _ _ _ e => nomatch e
theorem binit (w : FullWord) : Statement (.binit w) := fun _ _ _ e => by cases e; exact ⟨by decide, rfl⟩
theorem barv (w : FullWord) : Statement (.barv w) := fun _ _ _ e => by cases e; exact ⟨by decide, rfl⟩
theorem bexp (w : FullWord) : Statement (.bexp w) := fun _ _ _ e => by cases e; exact ⟨by decide, rfl⟩
theorem bwait (w : FullWord) : Statement (.bwait w) := fun _ _ _ e => by cases e; exact ⟨by decide, rfl⟩
theorem bwaitWake (wg gang park : Nat) : Statement (.bwaitWake wg gang park) := fun _ _ _ e => nomatch e
theorem btry (w : FullWord) : Statement (.btry w) := fun _ _ _ e => by cases e; exact ⟨by decide, rfl⟩
theorem wseq (w : FullWord) : Statement (.wseq w) := fun _ _ _ e => by cases e; exact ⟨by decide, rfl⟩
theorem wseqWake (wg gang park : Nat) : Statement (.wseqWake wg gang park) := fun _ _ _ e => nomatch e
theorem wmem (w : FullWord) : Statement (.wmem w) := fun _ _ _ e => by cases e; exact ⟨by decide, rfl⟩
theorem wmemRecheck (wg gang park : Nat) : Statement (.wmemRecheck wg gang park) := fun _ _ _ e => nomatch e
theorem waitTimeout (wg gang park : Nat) : Statement (.waitTimeout wg gang park) := fun _ _ _ e => nomatch e
theorem menq (w : FullWord) : Statement (.menq w) := fun _ _ _ e => by cases e; exact ⟨by decide, rfl⟩
theorem mtail (w : FullWord) : Statement (.mtail w) := fun _ _ _ e => by cases e; exact ⟨by decide, rfl⟩
theorem taskStart (clus : Nat) : Statement (.taskStart clus) := fun _ _ _ e => nomatch e
theorem mma (clus : Nat) : Statement (.mma clus) := fun _ _ _ e => nomatch e
theorem mzero (clus : Nat) : Statement (.mzero clus) := fun _ _ _ e => nomatch e
theorem mload (clus : Nat) : Statement (.mload clus) := fun _ _ _ e => nomatch e
theorem mdrain (clus : Nat) : Statement (.mdrain clus) := fun _ _ _ e => nomatch e
theorem mwait (clus : Nat) : Statement (.mwait clus) := fun _ _ _ e => nomatch e
theorem taskComplete (clus : Nat) : Statement (.taskComplete clus) := fun _ _ _ e => nomatch e
theorem dahliaReset (clus : Nat) : Statement (.dahliaReset clus) := fun _ _ _ e => nomatch e
theorem claim (w : FullWord) : Statement (.claim w) := fun _ _ _ e => by cases e; exact ⟨by decide, rfl⟩
theorem claimWalk (wg slot : Nat) : Statement (.claimWalk wg slot) := fun _ _ _ e => nomatch e
theorem claimHandshake (hand : Handshake) : Statement (.claimHandshake hand) := fun _ _ _ e => nomatch e
theorem handshakeResponse (wg slot pkg : Nat) (code : BitVec 8) : Statement (.handshakeResponse wg slot pkg code) := fun _ _ _ e => nomatch e
theorem handshakeTimeout (wg slot : Nat) : Statement (.handshakeTimeout wg slot) := fun _ _ _ e => nomatch e
theorem flow (w : FullWord) : Statement (.flow w) := fun _ _ _ e => by cases e; exact ⟨by decide, rfl⟩
theorem flowStart (wg i : Nat) : Statement (.flowStart wg i) := fun _ _ _ e => nomatch e
theorem flowComplete (wg i : Nat) : Statement (.flowComplete wg i) := fun _ _ _ e => nomatch e
theorem flowSevered (wg i : Nat) : Statement (.flowSevered wg i) := fun _ _ _ e => nomatch e
theorem clrel (w : FullWord) : Statement (.clrel w) := fun _ _ _ e => by cases e; exact ⟨by decide, rfl⟩
theorem clqry (w : FullWord) : Statement (.clqry w) := fun _ _ _ e => by cases e; exact ⟨by decide, rfl⟩
theorem rfence (w : FullWord) : Statement (.rfence w) := fun h _ _ e => by
  have hs := chosen (op := 0xE0) (p := w.xb % 2 = 0) rfl h
  cases e; refine ⟨by decide, ?_⟩; change ite _ _ _ = _; simp_all
theorem rfenceQ (w : FullWord) : Statement (.rfenceQ w) := fun h _ _ e => by
  have hs := chosen (op := 0xE0) (p := w.xb % 2 = 1) rfl h
  cases e; refine ⟨by decide, ?_⟩; change ite _ _ _ = _; simp_all
theorem pull (w : FullWord) : Statement (.pull w) := fun _ _ _ e => by cases e; exact ⟨by decide, rfl⟩
theorem pullServe (die : Nat) : Statement (.pullServe die) := fun _ _ _ e => nomatch e
theorem uint (w : FullWord) : Statement (.uint w) := fun _ _ _ e => by cases e; exact ⟨by decide, rfl⟩
theorem uintArrive (sender target : BitVec 32) (vec : BitVec 6) (payload : Word) (host : Bool) : Statement (.uintArrive sender target vec payload host) := fun _ _ _ e => nomatch e
theorem uiDeliver (ctx : Nat) : Statement (.uiDeliver ctx) := fun _ _ _ e => nomatch e
theorem uiwait (w : FullWord) : Statement (.uiwait w) := fun _ _ _ e => by cases e; exact ⟨by decide, rfl⟩
theorem uiret (w : FullWord) : Statement (.uiret w) := fun _ _ _ e => by cases e; exact ⟨by decide, rfl⟩
theorem uiclr (w : FullWord) : Statement (.uiclr w) := fun _ _ _ e => by cases e; exact ⟨by decide, rfl⟩
theorem trap (w : FullWord) : Statement (.trap w) := fun _ _ _ e => by cases e; exact ⟨by decide, rfl⟩
theorem bkpt (w : FullWord) : Statement (.bkpt w) := fun _ _ _ e => by cases e; exact ⟨by decide, rfl⟩
theorem tret (w : FullWord) : Statement (.tret w) := fun _ _ _ e => by cases e; exact ⟨by decide, rfl⟩
theorem launch (w : FullWord) : Statement (.launch w) := fun _ _ _ e => by cases e; exact ⟨by decide, rfl⟩
theorem sysrd (w : FullWord) : Statement (.sysrd w) := fun _ _ _ e => by cases e; exact ⟨by decide, rfl⟩
theorem syswr (w : FullWord) : Statement (.syswr w) := fun _ _ _ e => by cases e; exact ⟨by decide, rfl⟩
theorem tlbi (w : FullWord) : Statement (.tlbi w) := fun _ _ _ e => by cases e; exact ⟨by decide, rfl⟩
theorem dltailWrite (vif : Nat) (v : Word) : Statement (.dltailWrite vif v) := fun _ _ _ e => nomatch e
theorem faultAnswerRetry (q : FaultQueue) (token : BitVec 32) : Statement (.faultAnswerRetry q token) := fun _ _ _ e => nomatch e
theorem faultAnswerAbort (q : FaultQueue) (token : BitVec 32) : Statement (.faultAnswerAbort q token) := fun _ _ _ e => nomatch e
theorem parkClear (wg gang park : Nat) : Statement (.parkClear wg gang park) := fun _ _ _ e => nomatch e
theorem eccCorrected (kind : Store) : Statement (.eccCorrected kind) := fun _ _ _ e => nomatch e
theorem eccUncorrectable (site : EccSite) : Statement (.eccUncorrectable site) := fun _ _ _ e => nomatch e
theorem hbmPoison (line : Nat) : Statement (.hbmPoison line) := fun _ _ _ e => nomatch e
theorem postedStoreRefused (i : Nat) : Statement (.postedStoreRefused i) := fun _ _ _ e => nomatch e
theorem workgroupPlace  : Statement (.workgroupPlace) := fun _ _ _ e => nomatch e
theorem pendingAdmit (clus : Nat) : Statement (.pendingAdmit clus) := fun _ _ _ e => nomatch e
theorem loadBalanceExchange (clus : Nat) : Statement (.loadBalanceExchange clus) := fun _ _ _ e => nomatch e
theorem workgroupRetire (wg : Nat) : Statement (.workgroupRetire wg) := fun _ _ _ e => nomatch e
theorem workgroupRelaunch (wg : Nat) : Statement (.workgroupRelaunch wg) := fun _ _ _ e => nomatch e
theorem preemptRequest (ctx : Nat) (cores : List Nat) : Statement (.preemptRequest ctx cores) := fun _ _ _ e => nomatch e
theorem preemptSave (wg : Nat) : Statement (.preemptSave wg) := fun _ _ _ e => nomatch e
theorem workgroupResume (wg : Nat) : Statement (.workgroupResume wg) := fun _ _ _ e => nomatch e
theorem contextTeardown (ctx : Nat) (reason : BitVec 8) : Statement (.contextTeardown ctx reason) := fun _ _ _ e => nomatch e
theorem slotPreamble (port : Nat) (rx : Option Preamble) : Statement (.slotPreamble port rx) := fun _ _ _ e => nomatch e
theorem flitReceive (port : Nat) (flit : BitVec 768) : Statement (.flitReceive port flit) := fun _ _ _ e => nomatch e
theorem nakReplay (peer : Nat) (lack : BitVec 12) : Statement (.nakReplay peer lack) := fun _ _ _ e => nomatch e
theorem packetVerify (i : Nat) : Statement (.packetVerify i) := fun _ _ _ e => nomatch e
theorem reflectDeliver (q : QueueKey) : Statement (.reflectDeliver q) := fun _ _ _ e => nomatch e
theorem orderedFlagDeliver (q : QueueKey) : Statement (.orderedFlagDeliver q) := fun _ _ _ e => nomatch e
theorem ackReceive (peer : Nat) (q : QueueKey) (first last : BitVec 16) (status : BitVec 8) : Statement (.ackReceive peer q first last status) := fun _ _ _ e => nomatch e
theorem resendTimeout (i : Nat) : Statement (.resendTimeout i) := fun _ _ _ e => nomatch e
theorem lossOfLight (port : Nat) (waves : BitVec 16) : Statement (.lossOfLight port waves) := fun _ _ _ e => nomatch e
theorem lostClear (port : Nat) (waves : BitVec 16) : Statement (.lostClear port waves) := fun _ _ _ e => nomatch e
theorem portPark (port : Nat) : Statement (.portPark port) := fun _ _ _ e => nomatch e
theorem portWake (port : Nat) : Statement (.portWake port) := fun _ _ _ e => nomatch e
theorem wakeComplete (port : Nat) : Statement (.wakeComplete port) := fun _ _ _ e => nomatch e
theorem wakeTimeout (port : Nat) (failed : BitVec 16) : Statement (.wakeTimeout port failed) := fun _ _ _ e => nomatch e
theorem calendarLoad (pod : BitVec 7) (pkg : BitVec 9) (entries : List (BitVec 16)) : Statement (.calendarLoad pod pkg entries) := fun _ _ _ e => nomatch e
theorem rxWindowValidate (rwin : Nat) (entry : BitVec 256) : Statement (.rxWindowValidate rwin entry) := fun _ _ _ e => nomatch e
theorem rxWindowClear (rwin : Nat) : Statement (.rxWindowClear rwin) := fun _ _ _ e => nomatch e
theorem spawnRecord (vif : Nat) (r : BitVec 512) : Statement (.spawnRecord vif r) := fun _ _ _ e => nomatch e
theorem joinCounterIncrement (launch : Nat) : Statement (.joinCounterIncrement launch) := fun _ _ _ e => nomatch e
theorem interruptRecord (vif : Nat) (r : BitVec 128) : Statement (.interruptRecord vif r) := fun _ _ _ e => nomatch e
theorem hostMemAccess (vif addr : Nat) (access : HostAccess) : Statement (.hostMemAccess vif addr access) := fun _ _ _ e => nomatch e
theorem globalPersistentFlush  : Statement (.globalPersistentFlush) := fun _ _ _ e => nomatch e
theorem bindRecordWrite (i : Nat) (r : BitVec 128) : Statement (.bindRecordWrite i r) := fun _ _ _ e => nomatch e
theorem dsregWrite (ctx die : Nat) (v : Word) : Statement (.dsregWrite ctx die v) := fun _ _ _ e => nomatch e
theorem ctxBaseWrite (ctx idx : Nat) (v : Word) : Statement (.ctxBaseWrite ctx idx v) := fun _ _ _ e => nomatch e
theorem ctxprivWrite (ctx : Nat) (v : Word) : Statement (.ctxprivWrite ctx v) := fun _ _ _ e => nomatch e
theorem layoutStage (code : BitVec 3) (map : List (Nat × Nat)) : Statement (.layoutStage code map) := fun _ _ _ e => nomatch e
theorem layoutAbort  : Statement (.layoutAbort) := fun _ _ _ e => nomatch e
theorem layoutCommit  : Statement (.layoutCommit) := fun _ _ _ e => nomatch e
theorem layoutSwap  : Statement (.layoutSwap) := fun _ _ _ e => nomatch e
theorem quiesceTimeout  : Statement (.quiesceTimeout) := fun _ _ _ e => nomatch e
theorem spawnTrigger (die vif : Nat) : Statement (.spawnTrigger die vif) := fun _ _ _ e => nomatch e
theorem heartbeat (die : Nat) : Statement (.heartbeat die) := fun _ _ _ e => nomatch e
theorem heartbeatLapse (die : Nat) : Statement (.heartbeatLapse die) := fun _ _ _ e => nomatch e
theorem lockstepMismatch (die : Nat) : Statement (.lockstepMismatch die) := fun _ _ _ e => nomatch e
theorem boot (image : Image) : Statement (.boot image) := fun _ _ _ e => nomatch e
theorem recoveryImage (image : Image) : Statement (.recoveryImage image) := fun _ _ _ e => nomatch e
theorem attestationRequest (ctx : Nat) (nonce : BitVec 256) : Statement (.attestationRequest ctx nonce) := fun _ _ _ e => nomatch e
theorem securityAlarmLower (source : Alarm) : Statement (.securityAlarmLower source) := fun _ _ _ e => nomatch e
theorem securityAlarmHigher (source : Alarm) : Statement (.securityAlarmHigher source) := fun _ _ _ e => nomatch e
theorem lifetimeRecordWrite  : Statement (.lifetimeRecordWrite) := fun _ _ _ e => nomatch e
theorem powerSample (estimate : Nat) : Statement (.powerSample estimate) := fun _ _ _ e => nomatch e
theorem supplyDroop (die : Nat) : Statement (.supplyDroop die) := fun _ _ _ e => nomatch e
theorem freePush (i : Inst) (c : PathClass) (loc : Nat) : Statement (.freePush i c loc) := fun _ _ _ e => nomatch e
theorem freePull (i : Inst) (c : PathClass) (loc : Nat) : Statement (.freePull i c loc) := fun _ _ _ e => nomatch e
theorem storeDurable (i : Nat) : Statement (.storeDurable i) := fun _ _ _ e => nomatch e
theorem provisioning (image : Image) : Statement (.provisioning image) := fun _ _ _ e => nomatch e
theorem plimSet (watts : Nat) : Statement (.plimSet watts) := fun _ _ _ e => nomatch e
theorem contextCreate (vif ctx : Nat) : Statement (.contextCreate vif ctx) := fun _ _ _ e => nomatch e

end Names

end Sys2Proof.Laws
end

