-- ==== Sys2Proof/Laws/Tab.lean ====
section
/-! SUPPORT. Sparse tables and memory: a read after a write, and the canonical form kept by every operation on them. -/

namespace Sys2Proof

section
variable {α : Type} [Inhabited α]

theorem Tab.get_drop_same (m : Tab α) (k : Nat) : Tab.get (Tab.drop m k) k = default := by
  induction m with
  | nil => rfl
  | cons e l ih =>
    obtain ⟨j, a⟩ := e
    by_cases h : j = k
    · simp [Tab.drop, h, ih]
    · simp [Tab.drop, Tab.get, h, ih]

theorem Tab.get_drop_ne (m : Tab α) (k j : Nat) (h : j ≠ k) : Tab.get (Tab.drop m k) j = Tab.get m j := by
  induction m with
  | nil => rfl
  | cons e l ih =>
    obtain ⟨i, a⟩ := e
    by_cases h1 : i = k
    · subst h1; simp [Tab.drop, Tab.get, ih, Ne.symm h]
    · by_cases h2 : i = j
      · subst h2; simp [Tab.drop, Tab.get, h]
      · simp [Tab.drop, Tab.get, h1, h2, ih]

theorem Tab.get_ins_same (m : Tab α) (k : Nat) (a : α) (h : ∀ e ∈ m, e.1 ≠ k) : Tab.get (Tab.ins m k a) k = a := by
  induction m with
  | nil => simp [Tab.ins, Tab.get]
  | cons e l ih =>
    obtain ⟨j, b⟩ := e
    have hj : j ≠ k := h (j, b) (by simp)
    by_cases h1 : k < j
    · simp [Tab.ins, Tab.get, h1]
    · simp [Tab.ins, Tab.get, h1, hj, ih (fun e he => h e (by simp [he]))]

theorem Tab.get_ins_ne (m : Tab α) (k j : Nat) (a : α) (h : j ≠ k) : Tab.get (Tab.ins m k a) j = Tab.get m j := by
  induction m with
  | nil => simp [Tab.ins, Tab.get, Ne.symm h]
  | cons e l ih =>
    obtain ⟨i, b⟩ := e
    by_cases h1 : k < i
    · simp [Tab.ins, Tab.get, h1, Ne.symm h]
    · by_cases h2 : i = j
      · subst h2; simp [Tab.ins, Tab.get, h1]
      · simp [Tab.ins, Tab.get, h1, h2, ih]

omit [Inhabited α] in
theorem Tab.mem_drop (m : Tab α) (k : Nat) (e : Nat × α) : e ∈ Tab.drop m k ↔ e ∈ m ∧ e.1 ≠ k := by
  induction m with
  | nil => simp [Tab.drop]
  | cons d l ih =>
    obtain ⟨j, a⟩ := d
    by_cases h : j = k
    · subst h; simp only [Tab.drop, if_true, ih, List.mem_cons]
      constructor
      · rintro ⟨h1, h2⟩; exact ⟨Or.inr h1, h2⟩
      · rintro ⟨rfl | h1, h2⟩
        · exact absurd rfl h2
        · exact ⟨h1, h2⟩
    · simp only [Tab.drop, if_neg h, List.mem_cons, ih]
      constructor
      · rintro (rfl | ⟨h1, h2⟩)
        · exact ⟨Or.inl rfl, h⟩
        · exact ⟨Or.inr h1, h2⟩
      · rintro ⟨rfl | h1, h2⟩
        · exact Or.inl rfl
        · exact Or.inr ⟨h1, h2⟩

omit [Inhabited α] in
theorem Tab.mem_ins (m : Tab α) (k : Nat) (a : α) (e : Nat × α) : e ∈ Tab.ins m k a ↔ e = (k, a) ∨ e ∈ m := by
  induction m with
  | nil => simp [Tab.ins]
  | cons d l ih =>
    obtain ⟨j, b⟩ := d
    by_cases h : k < j
    · simp [Tab.ins, h]
    · simp only [Tab.ins, if_neg h, List.mem_cons, ih]
      constructor
      · rintro (h1 | h1 | h1)
        · exact Or.inr (Or.inl h1)
        · exact Or.inl h1
        · exact Or.inr (Or.inr h1)
      · rintro (h1 | h1 | h1)
        · exact Or.inr (Or.inl h1)
        · exact Or.inl h1
        · exact Or.inr (Or.inr h1)

variable [DecidableEq α]

/-- A read after a write to the same key gives the value written. -/
@[simp] theorem Tab.get_set_same (m : Tab α) (k : Nat) (a : α) : Tab.get (Tab.set m k a) k = a := by
  unfold Tab.set
  split
  · next h => rw [Tab.get_drop_same, h]
  · exact Tab.get_ins_same _ _ _ (fun e he => ((Tab.mem_drop m k e).1 he).2)

/-- A write leaves every other key alone. -/
theorem Tab.get_set_ne (m : Tab α) (k j : Nat) (a : α) (h : j ≠ k) : Tab.get (Tab.set m k a) j = Tab.get m j := by
  unfold Tab.set
  split
  · exact Tab.get_drop_ne m k j h
  · rw [Tab.get_ins_ne _ _ _ _ h, Tab.get_drop_ne m k j h]

@[simp] theorem Tab.get_modify_same (m : Tab α) (k : Nat) (f : α → α) : Tab.get (Tab.modify m k f) k = f (Tab.get m k) := by
  simp [Tab.modify]

theorem Tab.get_modify_ne (m : Tab α) (k j : Nat) (f : α → α) (h : j ≠ k) : Tab.get (Tab.modify m k f) j = Tab.get m j := by
  simp [Tab.modify, Tab.get_set_ne _ _ _ _ h]

omit [Inhabited α] [DecidableEq α] in
theorem Tab.drop_drop (m : Tab α) (k : Nat) : Tab.drop (Tab.drop m k) k = Tab.drop m k := by
  induction m with
  | nil => rfl
  | cons e l ih => obtain ⟨j, a⟩ := e; simp only [Tab.drop]; split <;> simp_all [Tab.drop]

omit [Inhabited α] [DecidableEq α] in
theorem Tab.drop_ins (m : Tab α) (k : Nat) (a : α) : Tab.drop (Tab.ins m k a) k = Tab.drop m k := by
  induction m with
  | nil => simp [Tab.ins, Tab.drop]
  | cons e l ih => obtain ⟨j, b⟩ := e; simp only [Tab.ins]; split <;> simp_all [Tab.drop]

theorem Tab.set_set (m : Tab α) (k : Nat) (a b : α) : Tab.set (Tab.set m k a) k b = Tab.set m k b := by
  unfold Tab.set
  split <;> split <;> simp [Tab.drop_ins, Tab.drop_drop]

omit [Inhabited α] [DecidableEq α] in
theorem Tab.sublist_drop (m : Tab α) (k : Nat) : (Tab.drop m k).Sublist m := by
  induction m with
  | nil => exact List.Sublist.refl _
  | cons e l ih =>
    obtain ⟨j, a⟩ := e
    by_cases h : j = k
    · simpa [Tab.drop, h] using ih.cons (k, a)
    · simpa [Tab.drop, h] using ih.cons_cons (j, a)

/-- A part of a table in canonical form is in canonical form. -/
theorem Tab.wf_sublist {m n : Tab α} (h : n.Sublist m) (hm : Tab.wf m) : Tab.wf n :=
  ⟨hm.1.sublist h, fun e he => hm.2 e (h.subset he)⟩

theorem Tab.wf_filter (m : Tab α) (p : Nat × α → Bool) (hm : Tab.wf m) : Tab.wf (m.filter p) :=
  Tab.wf_sublist List.filter_sublist hm

theorem Tab.wf_ins (m : Tab α) (k : Nat) (a : α) (ha : a ≠ default) (hk : ∀ e ∈ m, e.1 ≠ k) (hm : Tab.wf m) :
    Tab.wf (Tab.ins m k a) := by
  refine ⟨?_, fun e he => ?_⟩
  · obtain ⟨hm, -⟩ := hm
    induction m with
    | nil => simp [Tab.ins]
    | cons d l ih =>
      obtain ⟨j, b⟩ := d
      have hj : j ≠ k := hk (j, b) (by simp)
      rw [List.pairwise_cons] at hm
      by_cases h : k < j
      · simp only [Tab.ins, if_pos h, List.pairwise_cons, List.mem_cons]
        refine ⟨?_, hm⟩
        rintro e (rfl | he)
        · exact h
        · exact Nat.lt_trans h (hm.1 e he)
      · simp only [Tab.ins, if_neg h, List.pairwise_cons]
        refine ⟨fun e he => ?_, ih (fun e he => hk e (by simp [he])) hm.2⟩
        rcases (Tab.mem_ins l k a e).1 he with rfl | he
        · exact Nat.lt_of_le_of_ne (Nat.le_of_not_lt h) hj
        · exact hm.1 e he
  · rcases (Tab.mem_ins m k a e).1 he with rfl | he
    · exact ha
    · exact hm.2 e he

/-- A write keeps the canonical form. -/
theorem Tab.wf_set (m : Tab α) (k : Nat) (a : α) (hm : Tab.wf m) : Tab.wf (Tab.set m k a) := by
  have hd := Tab.wf_sublist (Tab.sublist_drop m k) hm
  unfold Tab.set
  split
  · exact hd
  · next h => exact Tab.wf_ins _ _ _ h (fun e he => ((Tab.mem_drop m k e).1 he).2) hd

theorem Tab.wf_modify (m : Tab α) (k : Nat) (f : α → α) (hm : Tab.wf m) : Tab.wf (Tab.modify m k f) := Tab.wf_set _ _ _ hm

end

namespace Machine

/-! ## Memory -/

@[simp] theorem Memory.read_write_same (m : List Host.Cell) (x : Nat) (b : Byte) : Memory.read (Memory.write m x b) x = b :=
  Tab.get_set_same (α := Byte) m x b

theorem Memory.read_write_ne (m : List Host.Cell) (x y : Nat) (b : Byte) (h : y ≠ x) :
    Memory.read (Memory.write m x b) y = Memory.read m y := Tab.get_set_ne (α := Byte) m x y b h

theorem Memory.wf_write (m : List Host.Cell) (x : Nat) (b : Byte) (h : Memory.wf m) : Memory.wf (Memory.write m x b) :=
  Tab.wf_set (α := Byte) m x b h

theorem MemSys.wf_raise (m : MemSys) (i : Inst) (c : PathClass) (x pos : Nat) (h : Memory.wf m.mem) :
    Memory.wf (m.raise i c x pos).mem := h

theorem MemSys.wf_writeByte (m : MemSys) (i : Inst) (c : PathClass) (x : Nat) (b : Byte) (h : Memory.wf m.mem) :
    Memory.wf (m.writeByte i c x b).mem := Memory.wf_write _ _ _ h

theorem MemSys.wf_write (m : MemSys) (i : Inst) (c : PathClass) (xs : List Nat) (bs : List Byte) (h : Memory.wf m.mem) :
    Memory.wf (m.write i c xs bs).mem := by
  induction xs generalizing m bs with
  | nil => simpa [MemSys.write] using h
  | cons x xs ih =>
    cases bs with
    | nil => simpa [MemSys.write] using h
    | cons b bs => exact ih _ _ (MemSys.wf_writeByte m i c x b h)

theorem MemSys.wf_erase (m : MemSys) (p : Nat → Bool) (h : Memory.wf m.mem) : Memory.wf (m.erase p).mem :=
  Tab.wf_filter _ _ h

@[simp] theorem MemSys.settle_mem (m : MemSys) (p : Nat → Bool) : (m.settle p).mem = m.mem := rfl

/-- A byte that is not written keeps its value. -/
theorem MemSys.mem_writeByte_ne (m : MemSys) (i : Inst) (c : PathClass) (x y : Nat) (b : Byte) (h : y ≠ x) :
    Memory.read (m.writeByte i c x b).mem y = Memory.read m.mem y := Memory.read_write_ne _ _ _ _ h

theorem MemSys.mem_write_ne (m : MemSys) (i : Inst) (c : PathClass) (xs : List Nat) (bs : List Byte) (y : Nat) (h : y ∉ xs) :
    Memory.read (m.write i c xs bs).mem y = Memory.read m.mem y := by
  induction xs generalizing m bs with
  | nil => simp [MemSys.write]
  | cons x xs ih =>
    cases bs with
    | nil => simp [MemSys.write]
    | cons b bs =>
      simp only [List.mem_cons, not_or] at h
      rw [MemSys.write, ih _ _ h.2, MemSys.mem_writeByte_ne _ _ _ _ _ _ h.1]

@[simp] theorem MemSys.tieUnit_mem (m : MemSys) (xs : List Nat) : (m.tieUnit xs).mem = m.mem := rfl
@[simp] theorem MemSys.clearWhole_mem (m : MemSys) (xs : List Nat) : (m.clearWhole xs).mem = m.mem := rfl
@[simp] theorem MemSys.intoImage_mem (m : MemSys) (xs : List Nat) (bs : List Byte) : (m.intoImage xs bs).mem = m.mem := rfl
@[simp] theorem MemSys.ofLaunch_mem (m : MemSys) (l : Nat) (xs : List Nat) (bs : List Byte) : (m.ofLaunch l xs bs).mem = m.mem := rfl

/-- Which bytes go together is no matter of what memory holds. -/
@[simp] theorem MemSys.tie_mem (m : MemSys) (n : Nat) (xs : List Nat) : (m.tie n xs).mem = m.mem := by
  unfold MemSys.tie
  generalize blocks n xs = bs
  induction bs generalizing m with
  | nil => rfl
  | cons b bs ih => rw [List.foldl_cons, ih]; split <;> rfl

theorem State.wf_putOther (s : State) (i : Inst) (c : PathClass) (n : Nat) (xs : List Nat) (bs : List Byte) (h : Memory.wf s.ms.mem) :
    Memory.wf (s.putOther i c n xs bs).ms.mem := by
  simpa [State.putOther, State.modMs] using MemSys.wf_write s.ms i c xs bs h

end Machine

end Sys2Proof
end

