-- ==== Sys2Proof/Laws/State.lean ====
section
/-! SUPPORT. What each update of State changes: one lemma for each field of each update. -/

namespace Sys2Proof.Machine

variable (s : State)

@[simp] theorem State.modWg_ms (w : Nat) (f : Workgroup → Workgroup) : (s.modWg w f).ms = s.ms := rfl
@[simp] theorem State.modWg_wgs (w : Nat) (f : Workgroup → Workgroup) : (s.modWg w f).wgs = Tab.modify s.wgs w f := rfl
@[simp] theorem State.modWg_nextWg (w : Nat) (f : Workgroup → Workgroup) : (s.modWg w f).nextWg = s.nextWg := rfl
@[simp] theorem State.modWg_ctxs (w : Nat) (f : Workgroup → Workgroup) : (s.modWg w f).ctxs = s.ctxs := rfl
@[simp] theorem State.modWg_vifs (w : Nat) (f : Workgroup → Workgroup) : (s.modWg w f).vifs = s.vifs := rfl
@[simp] theorem State.modWg_sched (w : Nat) (f : Workgroup → Workgroup) : (s.modWg w f).sched = s.sched := rfl
@[simp] theorem State.modWg_eng (w : Nat) (f : Workgroup → Workgroup) : (s.modWg w f).eng = s.eng := rfl
@[simp] theorem State.modWg_fab (w : Nat) (f : Workgroup → Workgroup) : (s.modWg w f).fab = s.fab := rfl
@[simp] theorem State.modWg_prim (w : Nat) (f : Workgroup → Workgroup) : (s.modWg w f).prim = s.prim := rfl
@[simp] theorem State.modWg_cycle (w : Nat) (f : Workgroup → Workgroup) : (s.modWg w f).cycle = s.cycle := rfl
@[simp] theorem State.modWg_aux (w : Nat) (f : Workgroup → Workgroup) : (s.modWg w f).aux = s.aux := rfl

@[simp] theorem State.setGang_ms (w g : Nat) (x : Gang) : (s.setGang w g x).ms = s.ms := rfl
@[simp] theorem State.setGang_nextWg (w g : Nat) (x : Gang) : (s.setGang w g x).nextWg = s.nextWg := rfl
@[simp] theorem State.setGang_ctxs (w g : Nat) (x : Gang) : (s.setGang w g x).ctxs = s.ctxs := rfl
@[simp] theorem State.setGang_vifs (w g : Nat) (x : Gang) : (s.setGang w g x).vifs = s.vifs := rfl
@[simp] theorem State.setGang_sched (w g : Nat) (x : Gang) : (s.setGang w g x).sched = s.sched := rfl
@[simp] theorem State.setGang_eng (w g : Nat) (x : Gang) : (s.setGang w g x).eng = s.eng := rfl
@[simp] theorem State.setGang_fab (w g : Nat) (x : Gang) : (s.setGang w g x).fab = s.fab := rfl
@[simp] theorem State.setGang_prim (w g : Nat) (x : Gang) : (s.setGang w g x).prim = s.prim := rfl
@[simp] theorem State.setGang_cycle (w g : Nat) (x : Gang) : (s.setGang w g x).cycle = s.cycle := rfl
@[simp] theorem State.setGang_aux (w g : Nat) (x : Gang) : (s.setGang w g x).aux = s.aux := rfl

@[simp] theorem State.modGang_ms (w g : Nat) (f : Gang → Gang) : (s.modGang w g f).ms = s.ms := rfl
@[simp] theorem State.modGang_nextWg (w g : Nat) (f : Gang → Gang) : (s.modGang w g f).nextWg = s.nextWg := rfl
@[simp] theorem State.modGang_ctxs (w g : Nat) (f : Gang → Gang) : (s.modGang w g f).ctxs = s.ctxs := rfl
@[simp] theorem State.modGang_vifs (w g : Nat) (f : Gang → Gang) : (s.modGang w g f).vifs = s.vifs := rfl
@[simp] theorem State.modGang_sched (w g : Nat) (f : Gang → Gang) : (s.modGang w g f).sched = s.sched := rfl
@[simp] theorem State.modGang_eng (w g : Nat) (f : Gang → Gang) : (s.modGang w g f).eng = s.eng := rfl
@[simp] theorem State.modGang_fab (w g : Nat) (f : Gang → Gang) : (s.modGang w g f).fab = s.fab := rfl
@[simp] theorem State.modGang_prim (w g : Nat) (f : Gang → Gang) : (s.modGang w g f).prim = s.prim := rfl
@[simp] theorem State.modGang_cycle (w g : Nat) (f : Gang → Gang) : (s.modGang w g f).cycle = s.cycle := rfl
@[simp] theorem State.modGang_aux (w g : Nat) (f : Gang → Gang) : (s.modGang w g f).aux = s.aux := rfl

@[simp] theorem State.modLaunch_ms (l : Nat) (f : Launch → Launch) : (s.modLaunch l f).ms = s.ms := rfl
@[simp] theorem State.modLaunch_wgs (l : Nat) (f : Launch → Launch) : (s.modLaunch l f).wgs = s.wgs := rfl
@[simp] theorem State.modLaunch_nextWg (l : Nat) (f : Launch → Launch) : (s.modLaunch l f).nextWg = s.nextWg := rfl
@[simp] theorem State.modLaunch_ctxs (l : Nat) (f : Launch → Launch) : (s.modLaunch l f).ctxs = s.ctxs := rfl
@[simp] theorem State.modLaunch_vifs (l : Nat) (f : Launch → Launch) : (s.modLaunch l f).vifs = s.vifs := rfl
@[simp] theorem State.modLaunch_eng (l : Nat) (f : Launch → Launch) : (s.modLaunch l f).eng = s.eng := rfl
@[simp] theorem State.modLaunch_fab (l : Nat) (f : Launch → Launch) : (s.modLaunch l f).fab = s.fab := rfl
@[simp] theorem State.modLaunch_prim (l : Nat) (f : Launch → Launch) : (s.modLaunch l f).prim = s.prim := rfl
@[simp] theorem State.modLaunch_cycle (l : Nat) (f : Launch → Launch) : (s.modLaunch l f).cycle = s.cycle := rfl
@[simp] theorem State.modLaunch_aux (l : Nat) (f : Launch → Launch) : (s.modLaunch l f).aux = s.aux := rfl

@[simp] theorem State.modCtx_ms (k : Nat) (f : Ctx → Ctx) : (s.modCtx k f).ms = s.ms := rfl
@[simp] theorem State.modCtx_wgs (k : Nat) (f : Ctx → Ctx) : (s.modCtx k f).wgs = s.wgs := rfl
@[simp] theorem State.modCtx_nextWg (k : Nat) (f : Ctx → Ctx) : (s.modCtx k f).nextWg = s.nextWg := rfl
@[simp] theorem State.modCtx_ctxs (k : Nat) (f : Ctx → Ctx) : (s.modCtx k f).ctxs = Tab.modify s.ctxs k f := rfl
@[simp] theorem State.modCtx_vifs (k : Nat) (f : Ctx → Ctx) : (s.modCtx k f).vifs = s.vifs := rfl
@[simp] theorem State.modCtx_sched (k : Nat) (f : Ctx → Ctx) : (s.modCtx k f).sched = s.sched := rfl
@[simp] theorem State.modCtx_eng (k : Nat) (f : Ctx → Ctx) : (s.modCtx k f).eng = s.eng := rfl
@[simp] theorem State.modCtx_fab (k : Nat) (f : Ctx → Ctx) : (s.modCtx k f).fab = s.fab := rfl
@[simp] theorem State.modCtx_prim (k : Nat) (f : Ctx → Ctx) : (s.modCtx k f).prim = s.prim := rfl
@[simp] theorem State.modCtx_cycle (k : Nat) (f : Ctx → Ctx) : (s.modCtx k f).cycle = s.cycle := rfl
@[simp] theorem State.modCtx_aux (k : Nat) (f : Ctx → Ctx) : (s.modCtx k f).aux = s.aux := rfl

@[simp] theorem State.modVif_ms (v : Nat) (f : Vif → Vif) : (s.modVif v f).ms = s.ms := rfl
@[simp] theorem State.modVif_wgs (v : Nat) (f : Vif → Vif) : (s.modVif v f).wgs = s.wgs := rfl
@[simp] theorem State.modVif_nextWg (v : Nat) (f : Vif → Vif) : (s.modVif v f).nextWg = s.nextWg := rfl
@[simp] theorem State.modVif_ctxs (v : Nat) (f : Vif → Vif) : (s.modVif v f).ctxs = s.ctxs := rfl
@[simp] theorem State.modVif_vifs (v : Nat) (f : Vif → Vif) : (s.modVif v f).vifs = Tab.modify s.vifs v f := rfl
@[simp] theorem State.modVif_sched (v : Nat) (f : Vif → Vif) : (s.modVif v f).sched = s.sched := rfl
@[simp] theorem State.modVif_eng (v : Nat) (f : Vif → Vif) : (s.modVif v f).eng = s.eng := rfl
@[simp] theorem State.modVif_fab (v : Nat) (f : Vif → Vif) : (s.modVif v f).fab = s.fab := rfl
@[simp] theorem State.modVif_prim (v : Nat) (f : Vif → Vif) : (s.modVif v f).prim = s.prim := rfl
@[simp] theorem State.modVif_cycle (v : Nat) (f : Vif → Vif) : (s.modVif v f).cycle = s.cycle := rfl
@[simp] theorem State.modVif_aux (v : Nat) (f : Vif → Vif) : (s.modVif v f).aux = s.aux := rfl

@[simp] theorem State.modEng_ms (c : Nat) (f : Engine → Engine) : (s.modEng c f).ms = s.ms := rfl
@[simp] theorem State.modEng_wgs (c : Nat) (f : Engine → Engine) : (s.modEng c f).wgs = s.wgs := rfl
@[simp] theorem State.modEng_nextWg (c : Nat) (f : Engine → Engine) : (s.modEng c f).nextWg = s.nextWg := rfl
@[simp] theorem State.modEng_ctxs (c : Nat) (f : Engine → Engine) : (s.modEng c f).ctxs = s.ctxs := rfl
@[simp] theorem State.modEng_vifs (c : Nat) (f : Engine → Engine) : (s.modEng c f).vifs = s.vifs := rfl
@[simp] theorem State.modEng_sched (c : Nat) (f : Engine → Engine) : (s.modEng c f).sched = s.sched := rfl
@[simp] theorem State.modEng_eng (c : Nat) (f : Engine → Engine) : (s.modEng c f).eng = Tab.modify s.eng c f := rfl
@[simp] theorem State.modEng_fab (c : Nat) (f : Engine → Engine) : (s.modEng c f).fab = s.fab := rfl
@[simp] theorem State.modEng_prim (c : Nat) (f : Engine → Engine) : (s.modEng c f).prim = s.prim := rfl
@[simp] theorem State.modEng_cycle (c : Nat) (f : Engine → Engine) : (s.modEng c f).cycle = s.cycle := rfl
@[simp] theorem State.modEng_aux (c : Nat) (f : Engine → Engine) : (s.modEng c f).aux = s.aux := rfl

@[simp] theorem State.modPort_ms (p : Nat) (f : Port → Port) : (s.modPort p f).ms = s.ms := rfl
@[simp] theorem State.modPort_wgs (p : Nat) (f : Port → Port) : (s.modPort p f).wgs = s.wgs := rfl
@[simp] theorem State.modPort_nextWg (p : Nat) (f : Port → Port) : (s.modPort p f).nextWg = s.nextWg := rfl
@[simp] theorem State.modPort_ctxs (p : Nat) (f : Port → Port) : (s.modPort p f).ctxs = s.ctxs := rfl
@[simp] theorem State.modPort_vifs (p : Nat) (f : Port → Port) : (s.modPort p f).vifs = s.vifs := rfl
@[simp] theorem State.modPort_sched (p : Nat) (f : Port → Port) : (s.modPort p f).sched = s.sched := rfl
@[simp] theorem State.modPort_eng (p : Nat) (f : Port → Port) : (s.modPort p f).eng = s.eng := rfl
@[simp] theorem State.modPort_prim (p : Nat) (f : Port → Port) : (s.modPort p f).prim = s.prim := rfl
@[simp] theorem State.modPort_cycle (p : Nat) (f : Port → Port) : (s.modPort p f).cycle = s.cycle := rfl
@[simp] theorem State.modPort_aux (p : Nat) (f : Port → Port) : (s.modPort p f).aux = s.aux := rfl

@[simp] theorem State.modLink_ms (p : Nat) (f : Link → Link) : (s.modLink p f).ms = s.ms := rfl
@[simp] theorem State.modLink_wgs (p : Nat) (f : Link → Link) : (s.modLink p f).wgs = s.wgs := rfl
@[simp] theorem State.modLink_nextWg (p : Nat) (f : Link → Link) : (s.modLink p f).nextWg = s.nextWg := rfl
@[simp] theorem State.modLink_ctxs (p : Nat) (f : Link → Link) : (s.modLink p f).ctxs = s.ctxs := rfl
@[simp] theorem State.modLink_vifs (p : Nat) (f : Link → Link) : (s.modLink p f).vifs = s.vifs := rfl
@[simp] theorem State.modLink_sched (p : Nat) (f : Link → Link) : (s.modLink p f).sched = s.sched := rfl
@[simp] theorem State.modLink_eng (p : Nat) (f : Link → Link) : (s.modLink p f).eng = s.eng := rfl
@[simp] theorem State.modLink_prim (p : Nat) (f : Link → Link) : (s.modLink p f).prim = s.prim := rfl
@[simp] theorem State.modLink_cycle (p : Nat) (f : Link → Link) : (s.modLink p f).cycle = s.cycle := rfl
@[simp] theorem State.modLink_aux (p : Nat) (f : Link → Link) : (s.modLink p f).aux = s.aux := rfl

@[simp] theorem State.modFab_ms (f : Fabric → Fabric) : (s.modFab f).ms = s.ms := rfl
@[simp] theorem State.modFab_wgs (f : Fabric → Fabric) : (s.modFab f).wgs = s.wgs := rfl
@[simp] theorem State.modFab_nextWg (f : Fabric → Fabric) : (s.modFab f).nextWg = s.nextWg := rfl
@[simp] theorem State.modFab_ctxs (f : Fabric → Fabric) : (s.modFab f).ctxs = s.ctxs := rfl
@[simp] theorem State.modFab_vifs (f : Fabric → Fabric) : (s.modFab f).vifs = s.vifs := rfl
@[simp] theorem State.modFab_sched (f : Fabric → Fabric) : (s.modFab f).sched = s.sched := rfl
@[simp] theorem State.modFab_eng (f : Fabric → Fabric) : (s.modFab f).eng = s.eng := rfl
@[simp] theorem State.modFab_fab (f : Fabric → Fabric) : (s.modFab f).fab = f s.fab := rfl
@[simp] theorem State.modFab_prim (f : Fabric → Fabric) : (s.modFab f).prim = s.prim := rfl
@[simp] theorem State.modFab_cycle (f : Fabric → Fabric) : (s.modFab f).cycle = s.cycle := rfl
@[simp] theorem State.modFab_aux (f : Fabric → Fabric) : (s.modFab f).aux = s.aux := rfl

@[simp] theorem State.modPrim_ms (f : Prim → Prim) : (s.modPrim f).ms = s.ms := rfl
@[simp] theorem State.modPrim_wgs (f : Prim → Prim) : (s.modPrim f).wgs = s.wgs := rfl
@[simp] theorem State.modPrim_nextWg (f : Prim → Prim) : (s.modPrim f).nextWg = s.nextWg := rfl
@[simp] theorem State.modPrim_ctxs (f : Prim → Prim) : (s.modPrim f).ctxs = s.ctxs := rfl
@[simp] theorem State.modPrim_vifs (f : Prim → Prim) : (s.modPrim f).vifs = s.vifs := rfl
@[simp] theorem State.modPrim_sched (f : Prim → Prim) : (s.modPrim f).sched = s.sched := rfl
@[simp] theorem State.modPrim_eng (f : Prim → Prim) : (s.modPrim f).eng = s.eng := rfl
@[simp] theorem State.modPrim_fab (f : Prim → Prim) : (s.modPrim f).fab = s.fab := rfl
@[simp] theorem State.modPrim_prim (f : Prim → Prim) : (s.modPrim f).prim = f s.prim := rfl
@[simp] theorem State.modPrim_cycle (f : Prim → Prim) : (s.modPrim f).cycle = s.cycle := rfl
@[simp] theorem State.modPrim_aux (f : Prim → Prim) : (s.modPrim f).aux = s.aux := rfl

@[simp] theorem State.modSched_ms (f : Sched → Sched) : (s.modSched f).ms = s.ms := rfl
@[simp] theorem State.modSched_wgs (f : Sched → Sched) : (s.modSched f).wgs = s.wgs := rfl
@[simp] theorem State.modSched_nextWg (f : Sched → Sched) : (s.modSched f).nextWg = s.nextWg := rfl
@[simp] theorem State.modSched_ctxs (f : Sched → Sched) : (s.modSched f).ctxs = s.ctxs := rfl
@[simp] theorem State.modSched_vifs (f : Sched → Sched) : (s.modSched f).vifs = s.vifs := rfl
@[simp] theorem State.modSched_sched (f : Sched → Sched) : (s.modSched f).sched = f s.sched := rfl
@[simp] theorem State.modSched_eng (f : Sched → Sched) : (s.modSched f).eng = s.eng := rfl
@[simp] theorem State.modSched_fab (f : Sched → Sched) : (s.modSched f).fab = s.fab := rfl
@[simp] theorem State.modSched_prim (f : Sched → Sched) : (s.modSched f).prim = s.prim := rfl
@[simp] theorem State.modSched_cycle (f : Sched → Sched) : (s.modSched f).cycle = s.cycle := rfl
@[simp] theorem State.modSched_aux (f : Sched → Sched) : (s.modSched f).aux = s.aux := rfl

@[simp] theorem State.modMs_ms (f : MemSys → MemSys) : (s.modMs f).ms = f s.ms := rfl
@[simp] theorem State.modMs_wgs (f : MemSys → MemSys) : (s.modMs f).wgs = s.wgs := rfl
@[simp] theorem State.modMs_nextWg (f : MemSys → MemSys) : (s.modMs f).nextWg = s.nextWg := rfl
@[simp] theorem State.modMs_ctxs (f : MemSys → MemSys) : (s.modMs f).ctxs = s.ctxs := rfl
@[simp] theorem State.modMs_vifs (f : MemSys → MemSys) : (s.modMs f).vifs = s.vifs := rfl
@[simp] theorem State.modMs_sched (f : MemSys → MemSys) : (s.modMs f).sched = s.sched := rfl
@[simp] theorem State.modMs_eng (f : MemSys → MemSys) : (s.modMs f).eng = s.eng := rfl
@[simp] theorem State.modMs_fab (f : MemSys → MemSys) : (s.modMs f).fab = s.fab := rfl
@[simp] theorem State.modMs_prim (f : MemSys → MemSys) : (s.modMs f).prim = s.prim := rfl
@[simp] theorem State.modMs_cycle (f : MemSys → MemSys) : (s.modMs f).cycle = s.cycle := rfl
@[simp] theorem State.modMs_aux (f : MemSys → MemSys) : (s.modMs f).aux = s.aux := rfl

@[simp] theorem State.toHost_ms (r : ToHost) : (s.toHost r).ms = s.ms := rfl
@[simp] theorem State.toHost_wgs (r : ToHost) : (s.toHost r).wgs = s.wgs := rfl
@[simp] theorem State.toHost_nextWg (r : ToHost) : (s.toHost r).nextWg = s.nextWg := rfl
@[simp] theorem State.toHost_ctxs (r : ToHost) : (s.toHost r).ctxs = s.ctxs := rfl
@[simp] theorem State.toHost_vifs (r : ToHost) : (s.toHost r).vifs = s.vifs := rfl
@[simp] theorem State.toHost_sched (r : ToHost) : (s.toHost r).sched = s.sched := rfl
@[simp] theorem State.toHost_eng (r : ToHost) : (s.toHost r).eng = s.eng := rfl
@[simp] theorem State.toHost_fab (r : ToHost) : (s.toHost r).fab = s.fab := rfl
@[simp] theorem State.toHost_cycle (r : ToHost) : (s.toHost r).cycle = s.cycle := rfl
@[simp] theorem State.toHost_aux (r : ToHost) : (s.toHost r).aux = s.aux := rfl

@[simp] theorem State.setVreg_ms (v i : Nat) (x : Word) : (s.setVreg v i x).ms = s.ms := rfl
@[simp] theorem State.setVreg_wgs (v i : Nat) (x : Word) : (s.setVreg v i x).wgs = s.wgs := rfl
@[simp] theorem State.setVreg_nextWg (v i : Nat) (x : Word) : (s.setVreg v i x).nextWg = s.nextWg := rfl
@[simp] theorem State.setVreg_ctxs (v i : Nat) (x : Word) : (s.setVreg v i x).ctxs = s.ctxs := rfl
@[simp] theorem State.setVreg_sched (v i : Nat) (x : Word) : (s.setVreg v i x).sched = s.sched := rfl
@[simp] theorem State.setVreg_eng (v i : Nat) (x : Word) : (s.setVreg v i x).eng = s.eng := rfl
@[simp] theorem State.setVreg_fab (v i : Nat) (x : Word) : (s.setVreg v i x).fab = s.fab := rfl
@[simp] theorem State.setVreg_prim (v i : Nat) (x : Word) : (s.setVreg v i x).prim = s.prim := rfl
@[simp] theorem State.setVreg_cycle (v i : Nat) (x : Word) : (s.setVreg v i x).cycle = s.cycle := rfl
@[simp] theorem State.setVreg_aux (v i : Nat) (x : Word) : (s.setVreg v i x).aux = s.aux := rfl

@[simp] theorem State.setCreg_ms (k i : Nat) (x : Word) : (s.setCreg k i x).ms = s.ms := rfl
@[simp] theorem State.setCreg_wgs (k i : Nat) (x : Word) : (s.setCreg k i x).wgs = s.wgs := rfl
@[simp] theorem State.setCreg_nextWg (k i : Nat) (x : Word) : (s.setCreg k i x).nextWg = s.nextWg := rfl
@[simp] theorem State.setCreg_vifs (k i : Nat) (x : Word) : (s.setCreg k i x).vifs = s.vifs := rfl
@[simp] theorem State.setCreg_sched (k i : Nat) (x : Word) : (s.setCreg k i x).sched = s.sched := rfl
@[simp] theorem State.setCreg_eng (k i : Nat) (x : Word) : (s.setCreg k i x).eng = s.eng := rfl
@[simp] theorem State.setCreg_fab (k i : Nat) (x : Word) : (s.setCreg k i x).fab = s.fab := rfl
@[simp] theorem State.setCreg_prim (k i : Nat) (x : Word) : (s.setCreg k i x).prim = s.prim := rfl
@[simp] theorem State.setCreg_cycle (k i : Nat) (x : Word) : (s.setCreg k i x).cycle = s.cycle := rfl
@[simp] theorem State.setCreg_aux (k i : Nat) (x : Word) : (s.setCreg k i x).aux = s.aux := rfl

@[simp] theorem State.modFlow_ms (w i : Nat) (f : Flow → Flow) : (s.modFlow w i f).ms = s.ms := rfl
@[simp] theorem State.modFlow_nextWg (w i : Nat) (f : Flow → Flow) : (s.modFlow w i f).nextWg = s.nextWg := rfl
@[simp] theorem State.modFlow_ctxs (w i : Nat) (f : Flow → Flow) : (s.modFlow w i f).ctxs = s.ctxs := rfl
@[simp] theorem State.modFlow_vifs (w i : Nat) (f : Flow → Flow) : (s.modFlow w i f).vifs = s.vifs := rfl
@[simp] theorem State.modFlow_sched (w i : Nat) (f : Flow → Flow) : (s.modFlow w i f).sched = s.sched := rfl
@[simp] theorem State.modFlow_eng (w i : Nat) (f : Flow → Flow) : (s.modFlow w i f).eng = s.eng := rfl
@[simp] theorem State.modFlow_fab (w i : Nat) (f : Flow → Flow) : (s.modFlow w i f).fab = s.fab := rfl
@[simp] theorem State.modFlow_prim (w i : Nat) (f : Flow → Flow) : (s.modFlow w i f).prim = s.prim := rfl
@[simp] theorem State.modFlow_cycle (w i : Nat) (f : Flow → Flow) : (s.modFlow w i f).cycle = s.cycle := rfl
@[simp] theorem State.modFlow_aux (w i : Nat) (f : Flow → Flow) : (s.modFlow w i f).aux = s.aux := rfl

@[simp] theorem State.modTile_ms (w i : Nat) (f : Xfer → Xfer) : (s.modTile w i f).ms = s.ms := rfl
@[simp] theorem State.modTile_nextWg (w i : Nat) (f : Xfer → Xfer) : (s.modTile w i f).nextWg = s.nextWg := rfl
@[simp] theorem State.modTile_ctxs (w i : Nat) (f : Xfer → Xfer) : (s.modTile w i f).ctxs = s.ctxs := rfl
@[simp] theorem State.modTile_vifs (w i : Nat) (f : Xfer → Xfer) : (s.modTile w i f).vifs = s.vifs := rfl
@[simp] theorem State.modTile_sched (w i : Nat) (f : Xfer → Xfer) : (s.modTile w i f).sched = s.sched := rfl
@[simp] theorem State.modTile_eng (w i : Nat) (f : Xfer → Xfer) : (s.modTile w i f).eng = s.eng := rfl
@[simp] theorem State.modTile_fab (w i : Nat) (f : Xfer → Xfer) : (s.modTile w i f).fab = s.fab := rfl
@[simp] theorem State.modTile_prim (w i : Nat) (f : Xfer → Xfer) : (s.modTile w i f).prim = s.prim := rfl
@[simp] theorem State.modTile_cycle (w i : Nat) (f : Xfer → Xfer) : (s.modTile w i f).cycle = s.cycle := rfl
@[simp] theorem State.modTile_aux (w i : Nat) (f : Xfer → Xfer) : (s.modTile w i f).aux = s.aux := rfl

@[simp] theorem State.modService_ms (i : Nat) (f : Service → Service) : (s.modService i f).ms = s.ms := rfl
@[simp] theorem State.modService_wgs (i : Nat) (f : Service → Service) : (s.modService i f).wgs = s.wgs := rfl
@[simp] theorem State.modService_nextWg (i : Nat) (f : Service → Service) : (s.modService i f).nextWg = s.nextWg := rfl
@[simp] theorem State.modService_ctxs (i : Nat) (f : Service → Service) : (s.modService i f).ctxs = s.ctxs := rfl
@[simp] theorem State.modService_vifs (i : Nat) (f : Service → Service) : (s.modService i f).vifs = s.vifs := rfl
@[simp] theorem State.modService_sched (i : Nat) (f : Service → Service) : (s.modService i f).sched = s.sched := rfl
@[simp] theorem State.modService_eng (i : Nat) (f : Service → Service) : (s.modService i f).eng = s.eng := rfl
@[simp] theorem State.modService_prim (i : Nat) (f : Service → Service) : (s.modService i f).prim = s.prim := rfl
@[simp] theorem State.modService_cycle (i : Nat) (f : Service → Service) : (s.modService i f).cycle = s.cycle := rfl
@[simp] theorem State.modService_aux (i : Nat) (f : Service → Service) : (s.modService i f).aux = s.aux := rfl

@[simp] theorem State.modLanding_ms (q : QueueKey) (f : Landing → Landing) : (s.modLanding q f).ms = s.ms := rfl
@[simp] theorem State.modLanding_wgs (q : QueueKey) (f : Landing → Landing) : (s.modLanding q f).wgs = s.wgs := rfl
@[simp] theorem State.modLanding_nextWg (q : QueueKey) (f : Landing → Landing) : (s.modLanding q f).nextWg = s.nextWg := rfl
@[simp] theorem State.modLanding_ctxs (q : QueueKey) (f : Landing → Landing) : (s.modLanding q f).ctxs = s.ctxs := rfl
@[simp] theorem State.modLanding_vifs (q : QueueKey) (f : Landing → Landing) : (s.modLanding q f).vifs = s.vifs := rfl
@[simp] theorem State.modLanding_sched (q : QueueKey) (f : Landing → Landing) : (s.modLanding q f).sched = s.sched := rfl
@[simp] theorem State.modLanding_eng (q : QueueKey) (f : Landing → Landing) : (s.modLanding q f).eng = s.eng := rfl
@[simp] theorem State.modLanding_prim (q : QueueKey) (f : Landing → Landing) : (s.modLanding q f).prim = s.prim := rfl
@[simp] theorem State.modLanding_cycle (q : QueueKey) (f : Landing → Landing) : (s.modLanding q f).cycle = s.cycle := rfl
@[simp] theorem State.modLanding_aux (q : QueueKey) (f : Landing → Landing) : (s.modLanding q f).aux = s.aux := rfl

@[simp] theorem State.deferring_ms : (s.deferring).ms = s.ms := rfl
@[simp] theorem State.deferring_wgs : (s.deferring).wgs = s.wgs := rfl
@[simp] theorem State.deferring_nextWg : (s.deferring).nextWg = s.nextWg := rfl
@[simp] theorem State.deferring_ctxs : (s.deferring).ctxs = s.ctxs := rfl
@[simp] theorem State.deferring_vifs : (s.deferring).vifs = s.vifs := rfl
@[simp] theorem State.deferring_sched : (s.deferring).sched = s.sched := rfl
@[simp] theorem State.deferring_eng : (s.deferring).eng = s.eng := rfl
@[simp] theorem State.deferring_fab : (s.deferring).fab = s.fab := rfl
@[simp] theorem State.deferring_prim : (s.deferring).prim = s.prim := rfl
@[simp] theorem State.deferring_cycle : (s.deferring).cycle = s.cycle := rfl

@[simp] theorem State.modXfer_ms (i : XferId) (f : Xfer → Xfer) : (s.modXfer i f).ms = s.ms := by cases i <;> rfl
@[simp] theorem State.modXfer_nextWg (i : XferId) (f : Xfer → Xfer) : (s.modXfer i f).nextWg = s.nextWg := by cases i <;> rfl
@[simp] theorem State.modXfer_ctxs (i : XferId) (f : Xfer → Xfer) : (s.modXfer i f).ctxs = s.ctxs := by cases i <;> rfl
@[simp] theorem State.modXfer_vifs (i : XferId) (f : Xfer → Xfer) : (s.modXfer i f).vifs = s.vifs := by cases i <;> rfl
@[simp] theorem State.modXfer_sched (i : XferId) (f : Xfer → Xfer) : (s.modXfer i f).sched = s.sched := by cases i <;> rfl
@[simp] theorem State.modXfer_eng (i : XferId) (f : Xfer → Xfer) : (s.modXfer i f).eng = s.eng := by cases i <;> rfl
@[simp] theorem State.modXfer_prim (i : XferId) (f : Xfer → Xfer) : (s.modXfer i f).prim = s.prim := by cases i <;> rfl
@[simp] theorem State.modXfer_cycle (i : XferId) (f : Xfer → Xfer) : (s.modXfer i f).cycle = s.cycle := by cases i <;> rfl
@[simp] theorem State.modXfer_aux (i : XferId) (f : Xfer → Xfer) : (s.modXfer i f).aux = s.aux := by cases i <;> rfl

@[simp] theorem State.gang_deferring (w g : Nat) : s.deferring.gang w g = s.gang w g := rfl

theorem State.unlocked_open (f : State → State) (h : s.prim.locked = false) : s.unlocked f = f s := by simp [State.unlocked, h]

theorem State.unlocked_locked (f : State → State) (h : s.prim.locked = true) : s.unlocked f = s := by simp [State.unlocked, h]

variable (g : Gang)

@[simp] theorem Gang.vSet_slot (lane r : Nat) (x : Word) : (g.vSet lane r x).slot = g.slot := rfl
@[simp] theorem Gang.vSet_place (lane r : Nat) (x : Word) : (g.vSet lane r x).place = g.place := rfl
@[simp] theorem Gang.vSet_p (lane r : Nat) (x : Word) : (g.vSet lane r x).p = g.p := rfl
@[simp] theorem Gang.vSet_k (lane r : Nat) (x : Word) : (g.vSet lane r x).k = g.k := rfl
@[simp] theorem Gang.vSet_d (lane r : Nat) (x : Word) : (g.vSet lane r x).d = g.d := rfl
@[simp] theorem Gang.vSet_b (lane r : Nat) (x : Word) : (g.vSet lane r x).b = g.b := rfl
@[simp] theorem Gang.vSet_thr (lane r : Nat) (x : Word) : (g.vSet lane r x).thr = g.thr := rfl
@[simp] theorem Gang.vSet_splits (lane r : Nat) (x : Word) : (g.vSet lane r x).splits = g.splits := rfl
@[simp] theorem Gang.vSet_queue (lane r : Nat) (x : Word) : (g.vSet lane r x).queue = g.queue := rfl
@[simp] theorem Gang.vSet_last (lane r : Nat) (x : Word) : (g.vSet lane r x).last = g.last := rfl
@[simp] theorem Gang.vSet_run (lane r : Nat) (x : Word) : (g.vSet lane r x).run = g.run := rfl
@[simp] theorem Gang.vSet_parks (lane r : Nat) (x : Word) : (g.vSet lane r x).parks = g.parks := rfl
@[simp] theorem Gang.vSet_nextId (lane r : Nat) (x : Word) : (g.vSet lane r x).nextId = g.nextId := rfl
@[simp] theorem Gang.vSet_readyAt (lane r : Nat) (x : Word) : (g.vSet lane r x).readyAt = g.readyAt := rfl
@[simp] theorem Gang.vSet_fpctl (lane r : Nat) (x : Word) : (g.vSet lane r x).fpctl = g.fpctl := rfl
@[simp] theorem Gang.vSet_warns (lane r : Nat) (x : Word) : (g.vSet lane r x).warns = g.warns := rfl
@[simp] theorem Gang.vSet_warnpc (lane r : Nat) (x : Word) : (g.vSet lane r x).warnpc = g.warnpc := rfl
@[simp] theorem Gang.vSet_tvec (lane r : Nat) (x : Word) : (g.vSet lane r x).tvec = g.tvec := rfl
@[simp] theorem Gang.vSet_tpc (lane r : Nat) (x : Word) : (g.vSet lane r x).tpc = g.tpc := rfl
@[simp] theorem Gang.vSet_tcause (lane r : Nat) (x : Word) : (g.vSet lane r x).tcause = g.tcause := rfl
@[simp] theorem Gang.vSet_tmask (lane r : Nat) (x : Word) : (g.vSet lane r x).tmask = g.tmask := rfl
@[simp] theorem Gang.vSet_tinfo (lane r : Nat) (x : Word) : (g.vSet lane r x).tinfo = g.tinfo := rfl
@[simp] theorem Gang.vSet_inTrap (lane r : Nat) (x : Word) : (g.vSet lane r x).inTrap = g.inTrap := rfl
@[simp] theorem Gang.vSet_inUi (lane r : Nat) (x : Word) : (g.vSet lane r x).inUi = g.inUi := rfl
@[simp] theorem Gang.vSet_uivec (lane r : Nat) (x : Word) : (g.vSet lane r x).uivec = g.uivec := rfl
@[simp] theorem Gang.vSet_uipay (lane r : Nat) (x : Word) : (g.vSet lane r x).uipay = g.uipay := rfl
@[simp] theorem Gang.vSet_bankV (lane r : Nat) (x : Word) : (g.vSet lane r x).bankV = g.bankV := rfl
@[simp] theorem Gang.vSet_bankP (lane r : Nat) (x : Word) : (g.vSet lane r x).bankP = g.bankP := rfl
@[simp] theorem Gang.vSet_saved (lane r : Nat) (x : Word) : (g.vSet lane r x).saved = g.saved := rfl
@[simp] theorem Gang.vSet_fCode (lane r : Nat) (x : Word) : (g.vSet lane r x).fCode = g.fCode := rfl
@[simp] theorem Gang.vSet_fMask (lane r : Nat) (x : Word) : (g.vSet lane r x).fMask = g.fMask := rfl

@[simp] theorem Gang.latch_slot (lane : Nat) (x : Word) : (g.latch lane x).slot = g.slot := rfl
@[simp] theorem Gang.latch_place (lane : Nat) (x : Word) : (g.latch lane x).place = g.place := rfl
@[simp] theorem Gang.latch_v (lane : Nat) (x : Word) : (g.latch lane x).v = g.v := rfl
@[simp] theorem Gang.latch_p (lane : Nat) (x : Word) : (g.latch lane x).p = g.p := rfl
@[simp] theorem Gang.latch_k (lane : Nat) (x : Word) : (g.latch lane x).k = g.k := rfl
@[simp] theorem Gang.latch_d (lane : Nat) (x : Word) : (g.latch lane x).d = g.d := rfl
@[simp] theorem Gang.latch_thr (lane : Nat) (x : Word) : (g.latch lane x).thr = g.thr := rfl
@[simp] theorem Gang.latch_splits (lane : Nat) (x : Word) : (g.latch lane x).splits = g.splits := rfl
@[simp] theorem Gang.latch_queue (lane : Nat) (x : Word) : (g.latch lane x).queue = g.queue := rfl
@[simp] theorem Gang.latch_last (lane : Nat) (x : Word) : (g.latch lane x).last = g.last := rfl
@[simp] theorem Gang.latch_run (lane : Nat) (x : Word) : (g.latch lane x).run = g.run := rfl
@[simp] theorem Gang.latch_parks (lane : Nat) (x : Word) : (g.latch lane x).parks = g.parks := rfl
@[simp] theorem Gang.latch_nextId (lane : Nat) (x : Word) : (g.latch lane x).nextId = g.nextId := rfl
@[simp] theorem Gang.latch_readyAt (lane : Nat) (x : Word) : (g.latch lane x).readyAt = g.readyAt := rfl
@[simp] theorem Gang.latch_fpctl (lane : Nat) (x : Word) : (g.latch lane x).fpctl = g.fpctl := rfl
@[simp] theorem Gang.latch_warns (lane : Nat) (x : Word) : (g.latch lane x).warns = g.warns := rfl
@[simp] theorem Gang.latch_warnpc (lane : Nat) (x : Word) : (g.latch lane x).warnpc = g.warnpc := rfl
@[simp] theorem Gang.latch_tvec (lane : Nat) (x : Word) : (g.latch lane x).tvec = g.tvec := rfl
@[simp] theorem Gang.latch_tpc (lane : Nat) (x : Word) : (g.latch lane x).tpc = g.tpc := rfl
@[simp] theorem Gang.latch_tcause (lane : Nat) (x : Word) : (g.latch lane x).tcause = g.tcause := rfl
@[simp] theorem Gang.latch_tmask (lane : Nat) (x : Word) : (g.latch lane x).tmask = g.tmask := rfl
@[simp] theorem Gang.latch_tinfo (lane : Nat) (x : Word) : (g.latch lane x).tinfo = g.tinfo := rfl
@[simp] theorem Gang.latch_inTrap (lane : Nat) (x : Word) : (g.latch lane x).inTrap = g.inTrap := rfl
@[simp] theorem Gang.latch_inUi (lane : Nat) (x : Word) : (g.latch lane x).inUi = g.inUi := rfl
@[simp] theorem Gang.latch_uivec (lane : Nat) (x : Word) : (g.latch lane x).uivec = g.uivec := rfl
@[simp] theorem Gang.latch_uipay (lane : Nat) (x : Word) : (g.latch lane x).uipay = g.uipay := rfl
@[simp] theorem Gang.latch_bankV (lane : Nat) (x : Word) : (g.latch lane x).bankV = g.bankV := rfl
@[simp] theorem Gang.latch_bankP (lane : Nat) (x : Word) : (g.latch lane x).bankP = g.bankP := rfl
@[simp] theorem Gang.latch_saved (lane : Nat) (x : Word) : (g.latch lane x).saved = g.saved := rfl
@[simp] theorem Gang.latch_fCode (lane : Nat) (x : Word) : (g.latch lane x).fCode = g.fCode := rfl
@[simp] theorem Gang.latch_fMask (lane : Nat) (x : Word) : (g.latch lane x).fMask = g.fMask := rfl

@[simp] theorem Gang.modThread_slot (lane : Nat) (f : Thread → Thread) : (g.modThread lane f).slot = g.slot := rfl
@[simp] theorem Gang.modThread_place (lane : Nat) (f : Thread → Thread) : (g.modThread lane f).place = g.place := rfl
@[simp] theorem Gang.modThread_v (lane : Nat) (f : Thread → Thread) : (g.modThread lane f).v = g.v := rfl
@[simp] theorem Gang.modThread_p (lane : Nat) (f : Thread → Thread) : (g.modThread lane f).p = g.p := rfl
@[simp] theorem Gang.modThread_k (lane : Nat) (f : Thread → Thread) : (g.modThread lane f).k = g.k := rfl
@[simp] theorem Gang.modThread_d (lane : Nat) (f : Thread → Thread) : (g.modThread lane f).d = g.d := rfl
@[simp] theorem Gang.modThread_b (lane : Nat) (f : Thread → Thread) : (g.modThread lane f).b = g.b := rfl
@[simp] theorem Gang.modThread_splits (lane : Nat) (f : Thread → Thread) : (g.modThread lane f).splits = g.splits := rfl
@[simp] theorem Gang.modThread_queue (lane : Nat) (f : Thread → Thread) : (g.modThread lane f).queue = g.queue := rfl
@[simp] theorem Gang.modThread_last (lane : Nat) (f : Thread → Thread) : (g.modThread lane f).last = g.last := rfl
@[simp] theorem Gang.modThread_run (lane : Nat) (f : Thread → Thread) : (g.modThread lane f).run = g.run := rfl
@[simp] theorem Gang.modThread_parks (lane : Nat) (f : Thread → Thread) : (g.modThread lane f).parks = g.parks := rfl
@[simp] theorem Gang.modThread_nextId (lane : Nat) (f : Thread → Thread) : (g.modThread lane f).nextId = g.nextId := rfl
@[simp] theorem Gang.modThread_readyAt (lane : Nat) (f : Thread → Thread) : (g.modThread lane f).readyAt = g.readyAt := rfl
@[simp] theorem Gang.modThread_fpctl (lane : Nat) (f : Thread → Thread) : (g.modThread lane f).fpctl = g.fpctl := rfl
@[simp] theorem Gang.modThread_warns (lane : Nat) (f : Thread → Thread) : (g.modThread lane f).warns = g.warns := rfl
@[simp] theorem Gang.modThread_warnpc (lane : Nat) (f : Thread → Thread) : (g.modThread lane f).warnpc = g.warnpc := rfl
@[simp] theorem Gang.modThread_tvec (lane : Nat) (f : Thread → Thread) : (g.modThread lane f).tvec = g.tvec := rfl
@[simp] theorem Gang.modThread_tpc (lane : Nat) (f : Thread → Thread) : (g.modThread lane f).tpc = g.tpc := rfl
@[simp] theorem Gang.modThread_tcause (lane : Nat) (f : Thread → Thread) : (g.modThread lane f).tcause = g.tcause := rfl
@[simp] theorem Gang.modThread_tmask (lane : Nat) (f : Thread → Thread) : (g.modThread lane f).tmask = g.tmask := rfl
@[simp] theorem Gang.modThread_tinfo (lane : Nat) (f : Thread → Thread) : (g.modThread lane f).tinfo = g.tinfo := rfl
@[simp] theorem Gang.modThread_inTrap (lane : Nat) (f : Thread → Thread) : (g.modThread lane f).inTrap = g.inTrap := rfl
@[simp] theorem Gang.modThread_inUi (lane : Nat) (f : Thread → Thread) : (g.modThread lane f).inUi = g.inUi := rfl
@[simp] theorem Gang.modThread_uivec (lane : Nat) (f : Thread → Thread) : (g.modThread lane f).uivec = g.uivec := rfl
@[simp] theorem Gang.modThread_uipay (lane : Nat) (f : Thread → Thread) : (g.modThread lane f).uipay = g.uipay := rfl
@[simp] theorem Gang.modThread_bankV (lane : Nat) (f : Thread → Thread) : (g.modThread lane f).bankV = g.bankV := rfl
@[simp] theorem Gang.modThread_bankP (lane : Nat) (f : Thread → Thread) : (g.modThread lane f).bankP = g.bankP := rfl
@[simp] theorem Gang.modThread_saved (lane : Nat) (f : Thread → Thread) : (g.modThread lane f).saved = g.saved := rfl
@[simp] theorem Gang.modThread_fCode (lane : Nat) (f : Thread → Thread) : (g.modThread lane f).fCode = g.fCode := rfl
@[simp] theorem Gang.modThread_fMask (lane : Nat) (f : Thread → Thread) : (g.modThread lane f).fMask = g.fMask := rfl

@[simp] theorem Gang.pSet_slot (lane n : Nat) (x : Bool) : (g.pSet lane n x).slot = g.slot := by
  unfold Gang.pSet; split <;> rfl
@[simp] theorem Gang.pSet_place (lane n : Nat) (x : Bool) : (g.pSet lane n x).place = g.place := by
  unfold Gang.pSet; split <;> rfl
@[simp] theorem Gang.pSet_v (lane n : Nat) (x : Bool) : (g.pSet lane n x).v = g.v := by
  unfold Gang.pSet; split <;> rfl
@[simp] theorem Gang.pSet_k (lane n : Nat) (x : Bool) : (g.pSet lane n x).k = g.k := by
  unfold Gang.pSet; split <;> rfl
@[simp] theorem Gang.pSet_d (lane n : Nat) (x : Bool) : (g.pSet lane n x).d = g.d := by
  unfold Gang.pSet; split <;> rfl
@[simp] theorem Gang.pSet_b (lane n : Nat) (x : Bool) : (g.pSet lane n x).b = g.b := by
  unfold Gang.pSet; split <;> rfl
@[simp] theorem Gang.pSet_thr (lane n : Nat) (x : Bool) : (g.pSet lane n x).thr = g.thr := by
  unfold Gang.pSet; split <;> rfl
@[simp] theorem Gang.pSet_splits (lane n : Nat) (x : Bool) : (g.pSet lane n x).splits = g.splits := by
  unfold Gang.pSet; split <;> rfl
@[simp] theorem Gang.pSet_queue (lane n : Nat) (x : Bool) : (g.pSet lane n x).queue = g.queue := by
  unfold Gang.pSet; split <;> rfl
@[simp] theorem Gang.pSet_last (lane n : Nat) (x : Bool) : (g.pSet lane n x).last = g.last := by
  unfold Gang.pSet; split <;> rfl
@[simp] theorem Gang.pSet_run (lane n : Nat) (x : Bool) : (g.pSet lane n x).run = g.run := by
  unfold Gang.pSet; split <;> rfl
@[simp] theorem Gang.pSet_parks (lane n : Nat) (x : Bool) : (g.pSet lane n x).parks = g.parks := by
  unfold Gang.pSet; split <;> rfl
@[simp] theorem Gang.pSet_nextId (lane n : Nat) (x : Bool) : (g.pSet lane n x).nextId = g.nextId := by
  unfold Gang.pSet; split <;> rfl
@[simp] theorem Gang.pSet_readyAt (lane n : Nat) (x : Bool) : (g.pSet lane n x).readyAt = g.readyAt := by
  unfold Gang.pSet; split <;> rfl
@[simp] theorem Gang.pSet_fpctl (lane n : Nat) (x : Bool) : (g.pSet lane n x).fpctl = g.fpctl := by
  unfold Gang.pSet; split <;> rfl
@[simp] theorem Gang.pSet_warns (lane n : Nat) (x : Bool) : (g.pSet lane n x).warns = g.warns := by
  unfold Gang.pSet; split <;> rfl
@[simp] theorem Gang.pSet_warnpc (lane n : Nat) (x : Bool) : (g.pSet lane n x).warnpc = g.warnpc := by
  unfold Gang.pSet; split <;> rfl
@[simp] theorem Gang.pSet_tvec (lane n : Nat) (x : Bool) : (g.pSet lane n x).tvec = g.tvec := by
  unfold Gang.pSet; split <;> rfl
@[simp] theorem Gang.pSet_tpc (lane n : Nat) (x : Bool) : (g.pSet lane n x).tpc = g.tpc := by
  unfold Gang.pSet; split <;> rfl
@[simp] theorem Gang.pSet_tcause (lane n : Nat) (x : Bool) : (g.pSet lane n x).tcause = g.tcause := by
  unfold Gang.pSet; split <;> rfl
@[simp] theorem Gang.pSet_tmask (lane n : Nat) (x : Bool) : (g.pSet lane n x).tmask = g.tmask := by
  unfold Gang.pSet; split <;> rfl
@[simp] theorem Gang.pSet_tinfo (lane n : Nat) (x : Bool) : (g.pSet lane n x).tinfo = g.tinfo := by
  unfold Gang.pSet; split <;> rfl
@[simp] theorem Gang.pSet_inTrap (lane n : Nat) (x : Bool) : (g.pSet lane n x).inTrap = g.inTrap := by
  unfold Gang.pSet; split <;> rfl
@[simp] theorem Gang.pSet_inUi (lane n : Nat) (x : Bool) : (g.pSet lane n x).inUi = g.inUi := by
  unfold Gang.pSet; split <;> rfl
@[simp] theorem Gang.pSet_uivec (lane n : Nat) (x : Bool) : (g.pSet lane n x).uivec = g.uivec := by
  unfold Gang.pSet; split <;> rfl
@[simp] theorem Gang.pSet_uipay (lane n : Nat) (x : Bool) : (g.pSet lane n x).uipay = g.uipay := by
  unfold Gang.pSet; split <;> rfl
@[simp] theorem Gang.pSet_bankV (lane n : Nat) (x : Bool) : (g.pSet lane n x).bankV = g.bankV := by
  unfold Gang.pSet; split <;> rfl
@[simp] theorem Gang.pSet_bankP (lane n : Nat) (x : Bool) : (g.pSet lane n x).bankP = g.bankP := by
  unfold Gang.pSet; split <;> rfl
@[simp] theorem Gang.pSet_saved (lane n : Nat) (x : Bool) : (g.pSet lane n x).saved = g.saved := by
  unfold Gang.pSet; split <;> rfl
@[simp] theorem Gang.pSet_fCode (lane n : Nat) (x : Bool) : (g.pSet lane n x).fCode = g.fCode := by
  unfold Gang.pSet; split <;> rfl
@[simp] theorem Gang.pSet_fMask (lane n : Nat) (x : Bool) : (g.pSet lane n x).fMask = g.fMask := by
  unfold Gang.pSet; split <;> rfl

/-! ## Reading back (R15, R22, R139) -/

theorem vKey_inj (l l' r r' : Nat) (h : r < 128) (h' : r' < 128) (e : vKey l r = vKey l' r') : l = l' ∧ r = r' := by
  unfold vKey at e; omega

@[simp] theorem Gang.vGet_vSet (l r : Nat) (x : Word) : (g.vSet l r x).vGet l r = x := by simp [Gang.vGet, Gang.vSet]

theorem Gang.vGet_vSet_ne (l r l' r' : Nat) (x : Word) (h : r < 128) (h' : r' < 128) (e : ¬(l = l' ∧ r = r')) :
    (g.vSet l r x).vGet l' r' = g.vGet l' r' := by
  unfold Gang.vGet Gang.vSet
  exact Tab.get_set_ne _ _ _ _ (fun q => e (by have := vKey_inj _ _ _ _ h' h q; exact ⟨this.1.symm, this.2.symm⟩))

/-- A write to p0 is discarded. -/
@[simp] theorem Gang.pSet_zero (l : Nat) (x : Bool) : g.pSet l 0 x = g := rfl

/-- p0 reads 1. -/
@[simp] theorem Gang.pGet_zero (l : Nat) : g.pGet l 0 = true := rfl

@[simp] theorem State.gang_setGang (w k : Nat) (x : Gang) : (s.setGang w k x).gang w k = x := by
  simp [State.gang, State.wg, State.setGang]

@[simp] theorem State.gang_modGang (w k : Nat) (f : Gang → Gang) : (s.modGang w k f).gang w k = f (s.gang w k) := by
  simp [State.modGang]

theorem State.wg_setGang_ne (w w' k : Nat) (x : Gang) (h : w' ≠ w) : (s.setGang w k x).wg w' = s.wg w' := by
  simp [State.wg, State.setGang, Tab.get_modify_ne _ _ _ _ h]

theorem State.launch_modGang (w k l : Nat) (f : Gang → Gang) : (s.modGang w k f).launch l = s.launch l := rfl

end Sys2Proof.Machine
end

