-- ==== Sys2Proof/Laws/Queue.lean ====
section
/-! SUPPORT. What the operations on Q(t) and on the transfers of an Iris can do: with nothing queued they change nothing, what performs
and what stays are the queue again, and the units of a transfer hold each of its bytes once. -/

namespace Sys2Proof.Machine

/-! ## Q(t) (R83, R85) -/

@[simp] theorem State.performWhere_empty (s : State) (w g : Nat) (p : QEntry → Bool) (h : (s.gang w g).queue = []) :
    s.performWhere w g p = s := by simp [State.performWhere, h]

@[simp] theorem State.performAt_none (s : State) (w g k : Nat) (h : (s.gang w g).queue[k]? = none) : s.performAt w g k = s := by
  simp [State.performAt, h]

/-- The entries that perform and those that stay are those of the queue. -/
theorem needed_perm (p : QEntry → Bool) (l : List QEntry) : ((needed p l).1 ++ (needed p l).2).Perm l := by
  induction l with
  | nil => exact List.Perm.nil
  | cons e l ih =>
    simp only [needed]
    split
    · exact ih.cons e
    · exact List.perm_middle.trans (ih.cons e)

/-- Every entry that the test names performs. -/
theorem mem_needed (p : QEntry → Bool) (l : List QEntry) (e : QEntry) (he : e ∈ l) (hp : p e = true) : e ∈ (needed p l).1 := by
  induction l with
  | nil => cases he
  | cons a l ih =>
    simp only [needed]
    rcases List.mem_cons.mp he with rfl | h
    · simp [hp]
    · split
      · exact List.mem_cons_of_mem _ (ih h)
      · exact ih h

/-- With nothing queued a word that is no TLBI waits for nothing. -/
theorem State.ready_empty (s : State) (w g : Nat) (lanes : Mask) (i : Instr) (ht : ∀ x, i ≠ .tlbi x) (h : (s.gang w g).queue = []) :
    s.ready w g lanes i = s := by
  cases i <;> first | exact absurd rfl (ht _) | (simp only [State.ready]; split <;> exact s.performWhere_empty w g _ h)

/-- With nothing queued a word whose accesses perform at once is exec of it. -/
theorem State.runInstr_empty (s : State) (w g : Nat) (i : Instr) (ht : ∀ x, i ≠ .tlbi x) (h : (s.gang w g).queue = []) :
    s.runInstr w g i false = exec i s := by
  simp [State.runInstr, s.ready_empty w g _ i ht h, h]

/-- The accesses of a word stand at the end of the queue, lane by lane. -/
theorem Issue.defer_queue (c : Issue) (p : Plan) (act : LanePlan → QAct) (s : State) :
    (c.g (c.defer p act s)).queue = (c.g s).queue ++ p.go.map (fun l => c.entry s l (act l)) := by
  simp [Issue.defer, Issue.g, Issue.mod]

/-! ## Transfers of an Iris (R90, R92, R93, R240) -/

theorem joinUnit_perm (b : Nat) (ts : List Tag) (us : List (List Nat × List Tag)) :
    ((joinUnit b ts us).map Prod.fst).flatten.Perm (b :: (us.map Prod.fst).flatten) := by
  simp only [joinUnit, List.map_cons, List.flatten_cons, List.cons_append]
  refine List.Perm.cons b ?_
  induction us with
  | nil => exact List.Perm.nil
  | cons u us ih =>
    by_cases h : u.2.any ts.contains = true
    · simpa [List.filter_cons, h, List.append_assoc] using ih.append_left u.1
    · simp only [List.filter_cons, h, Bool.not_false, if_true, if_false, Bool.false_eq_true, List.map_cons, List.flatten_cons] at ih ⊢
      refine List.Perm.trans ?_ (List.Perm.append_left u.1 ih)
      simp only [← List.append_assoc]
      exact List.Perm.append_right _ List.perm_append_comm

/-- Each byte of a transfer stands in one of its units, once. -/
theorem unitsOf_perm (tags : Nat → List Tag) (bs : List Nat) : (unitsOf tags bs).flatten.Perm bs := by
  unfold unitsOf
  induction bs with
  | nil => exact List.Perm.nil
  | cons b bs ih => exact (joinUnit_perm b (tags b) _).trans (ih.cons b)

/-- A read leaves what is to be written; a unit that is not left changes nothing. -/
@[simp] theorem Xfer.readUnit_writes (x : Xfer) (k : Nat) (val : Nat → Byte × Bool) : (x.readUnit k val).writes = x.writes := by
  unfold Xfer.readUnit; split <;> first | rfl | (split <;> rfl)

@[simp] theorem Xfer.readUnit_none (x : Xfer) (k : Nat) (val : Nat → Byte × Bool) (h : x.reads[k]? = none) : x.readUnit k val = x := by
  simp [Xfer.readUnit, h]

/-- Beyond its turns a transfer reads nothing (R240). -/
theorem Xfer.readUnit_turn (x : Xfer) (k : Nat) (val : Nat → Byte × Bool) (h : x.quota ≤ x.got.length) : x.readUnit k val = x := by
  unfold Xfer.readUnit; split <;> simp [h]

end Sys2Proof.Machine
end

