-- ==== Sys2Proof/Laws/Words.lean ====
section
/-! SUPPORT. What the shared operations of a word do: lanes, threads, results, the end of a word, the checks (R116, R124, R139). -/

namespace Sys2Proof.Machine

open Sys2Proof

/-! ## Tables and gangs written twice -/

theorem State.setGang_setGang (s : State) (w g : Nat) (x y : Gang) : (s.setGang w g x).setGang w g y = s.setGang w g y := by
  simp [State.setGang, State.modWg, Tab.modify, Tab.set_set]

theorem State.modGang_modGang (s : State) (w g : Nat) (f h : Gang → Gang) :
    (s.modGang w g f).modGang w g h = s.modGang w g (fun x => h (f x)) := by
  simp [State.modGang, State.setGang_setGang]

theorem OnlyGang.setGang (s : State) (w g : Nat) (x : Gang) : OnlyGang w g s (s.setGang w g x) where
  mem := fun _ => rfl
  ms := rfl
  gangs :=
    { gangs := fun v h e => by
        by_cases hv : v = w
        · subst hv
          have : h ≠ g := fun q => e ⟨rfl, q⟩
          simp [State.gang, State.wg, State.setGang, State.modWg, Tab.get_set_ne _ _ _ _ this]
        · simp [State.gang, State.wg_setGang_ne _ _ _ _ _ hv]
      wgs := fun v => by
        by_cases hv : v = w
        · subst hv; simp [State.wg, State.setGang, State.modWg]
        · rw [State.wg_setGang_ne _ _ _ _ _ hv] }
  device := { ctxs := rfl, vifs := rfl, sched := rfl, eng := rfl, fab := rfl, prim := rfl, cycle := rfl, aux := rfl, next := rfl }

theorem OnlyGang.modGang (s : State) (w g : Nat) (f : Gang → Gang) : OnlyGang w g s (s.modGang w g f) := OnlyGang.setGang s w g _

/-! ## Lanes and threads -/

@[simp] theorem mem_lanesOf (m : Mask) (i : Nat) : i ∈ lanesOf m ↔ i < 32 ∧ m.getLsbD i = true := by
  simp [lanesOf]

theorem lanesOf_nodup (m : Mask) : (lanesOf m).Nodup := List.Nodup.filter _ List.nodup_range

theorem Issue.on_iff (c : Issue) (i : Nat) : c.on i ↔ i ∈ lanesOf c.act := by simp [Issue.on]

@[simp] theorem Gang.thread_modThread (g : Gang) (i : Nat) (f : Thread → Thread) : (g.modThread i f).thread i = f (g.thread i) := by
  simp [Gang.thread, Gang.modThread]

theorem Gang.thread_modThread_ne (g : Gang) (i j : Nat) (f : Thread → Thread) (h : j ≠ i) :
    (g.modThread i f).thread j = g.thread j := by
  simp [Gang.thread, Gang.modThread, Tab.get_modify_ne _ _ _ _ h]

/-- Threads changed one after the other: only the thread table changes. -/
theorem Gang.modEach_eq (l : List Nat) (f : Nat → Thread → Thread) (g : Gang) :
    ∃ t, l.foldl (fun g i => g.modThread i (f i)) g = { g with thr := t } := by
  induction l generalizing g with
  | nil => exact ⟨g.thr, rfl⟩
  | cons i l ih =>
    obtain ⟨t, h⟩ := ih (g.modThread i (f i))
    exact ⟨t, by rw [List.foldl_cons, h]; rfl⟩

theorem Gang.thread_modEach (l : List Nat) (f : Nat → Thread → Thread) (g : Gang) (j : Nat) (hl : l.Nodup) :
    (l.foldl (fun g i => g.modThread i (f i)) g).thread j = if j ∈ l then f j (g.thread j) else g.thread j := by
  induction l generalizing g with
  | nil => simp
  | cons i l ih =>
    rw [List.nodup_cons] at hl
    rw [List.foldl_cons, ih _ hl.2]
    by_cases e : j = i
    · subst e; simp [hl.1]
    · simp [e, Gang.thread_modThread_ne _ _ _ _ e]

theorem Gang.modThreads_eq (g : Gang) (m : Mask) (f : Thread → Thread) : ∃ t, g.modThreads m f = { g with thr := t } :=
  Gang.modEach_eq _ _ _

theorem Gang.thread_modThreads (g : Gang) (m : Mask) (f : Thread → Thread) (j : Nat) (hj : j < 32) :
    (g.modThreads m f).thread j = if m.getLsbD j then f (g.thread j) else g.thread j := by
  have := Gang.thread_modEach (lanesOf m) (fun _ => f) g j (lanesOf_nodup m)
  simp only [Gang.modThreads, this, mem_lanesOf, hj, true_and]

/-! ## The end of a word -/

theorem Gang.tidy_eq (g : Gang) : ∃ a, g.tidy = { g with splits := a } := ⟨_, rfl⟩

theorem Gang.merge_eq (g : Gang) : ∃ a b, g.merge = { g with splits := a, last := b } := ⟨_, _, rfl⟩

theorem Gang.endRun_eq (g : Gang) (n : Nat) :
    ∃ a b, g.endRun n = { g with splits := a, last := b, run := none, readyAt := n } := ⟨_, _, rfl⟩

/-- Counting a word changes splits and the run only. -/
theorem Issue.count_eq (c : Issue) (e : Bool) (s : State) :
    ∃ a b r n, c.count e s = s.setGang c.wg c.gang { c.g s with splits := a, last := b, run := r, readyAt := n } := by
  have key : ∀ (g : Gang) (k : Nat) (q : Bool), ∃ a b r n,
      (if q then g.endRun s.cycle else { g with run := some { split := c.split, count := k } }) =
        { g with splits := a, last := b, run := r, readyAt := n } := by
    intro g k q
    cases q
    · exact ⟨_, _, _, _, rfl⟩
    · exact ⟨_, _, _, _, rfl⟩
  obtain ⟨a, b, r, n, h⟩ := key (c.g s) ((match (c.g s).run with | some r => r.count | none => 0) + 1)
    (e || !c.w.h || decide (8 ≤ (match (c.g s).run with | some r => r.count | none => 0) + 1))
  exact ⟨a, b, r, n, by rw [← h]; rfl⟩

/-- A word that is done: its split stands at the next word, splits and the run have changed, nothing else. -/
theorem Issue.done_eq (c : Issue) (s : State) :
    ∃ t a b r n, c.done s = s.setGang c.wg c.gang { c.g s with thr := t, splits := a, last := b, run := r, readyAt := n } ∧
      ∀ i, i < 32 → Tab.get t i = if c.lanes.getLsbD i then { (c.g s).thread i with pc := c.pc + 8 } else (c.g s).thread i := by
  obtain ⟨a, b, r, n, h⟩ := c.count_eq (endsRun c.op c.w) (c.advance s)
  obtain ⟨t, ht⟩ := Gang.modThreads_eq (c.g s) c.lanes (fun t => { t with pc := c.pc + 8 })
  have hth : ∀ i, i < 32 → Tab.get t i = if c.lanes.getLsbD i then { (c.g s).thread i with pc := c.pc + 8 } else (c.g s).thread i := by
    intro i hi
    have := Gang.thread_modThreads (c.g s) c.lanes (fun t => { t with pc := c.pc + 8 }) i hi
    rw [ht] at this
    exact this
  refine ⟨t, a, b, r, n, ?_, hth⟩
  unfold Issue.done
  rw [h]
  simp only [Issue.g, Issue.advance, Issue.mod, State.modGang, State.setGang_setGang, State.gang_setGang]
  simp only [Issue.g] at ht
  rw [ht]
  rfl

/-! ## A gang with a thread in EXEC settles nothing (R20, R184) -/

theorem mem_maskOf (l : List Nat) (m : Mask) (i : Nat) (hi : i < 32) :
    (l.foldl (fun m i => m ||| laneBit i) m).getLsbD i = (m.getLsbD i || decide (i ∈ l)) := by
  induction l generalizing m with
  | nil => simp
  | cons j l ih =>
    rw [List.foldl_cons, ih]
    have : (laneBit j).getLsbD i = decide (i = j) := by
      simp only [laneBit, BitVec.getLsbD_ofNat, hi, decide_true, Bool.true_and, Nat.testBit_two_pow, eq_comm]
    rw [BitVec.getLsbD_or, this, Bool.or_assoc]
    congr 1
    by_cases e : i = j <;> simp [e]

theorem Gang.getLsbD_lanesWhere (g : Gang) (p : Thread → Bool) (i : Nat) (hi : i < 32) :
    (g.lanesWhere p).getLsbD i = p (g.thread i) := by
  rw [Gang.lanesWhere, maskOf, mem_maskOf _ _ _ hi]
  simp [hi]

theorem State.settleGang_exec (s : State) (w g : Nat) (h : ∃ i, i < 32 ∧ ((s.gang w g).thread i).st = .exec) :
    s.settleGang w g = s := by
  obtain ⟨i, hi, he⟩ := h
  have hlive : i ∈ lanesOf (s.gang w g).live := by
    rw [mem_lanesOf]; refine ⟨hi, ?_⟩
    rw [Gang.live, Gang.getLsbD_lanesWhere _ _ _ hi, he]; decide
  have hw : (s.gang w g).waitMask i = none := by unfold Gang.waitMask; rw [he]
  have hb : (s.gang w g).barOf i = none := by unfold Gang.barOf; rw [he]
  have hall : (lanesOf (s.gang w g).live).all (fun i => ((s.gang w g).waitMask i).isSome) = false := by
    rw [List.all_eq_false]; exact ⟨i, hlive, by simp [hw]⟩
  have hall2 : (lanesOf (s.gang w g).live).all (fun i => ((s.gang w g).barOf i).isSome) = false := by
    rw [List.all_eq_false]; exact ⟨i, hlive, by simp [hb]⟩
  have hbar : (s.gang w g).barAll = none := by
    unfold Gang.barAll
    split
    · rfl
    · rename_i l0 l hl
      split
      · rename_i ha
        rw [hl] at hlive
        rcases List.mem_cons.1 hlive with e | e
        · rw [← e, hb]
        · have := List.all_eq_true.1 ha i e
          rw [hb] at this
          have := eq_of_beq this
          exact this.symm
      · rfl
  unfold State.settleGang
  simp only [hall, hall2, hbar, Bool.false_and]
  split
  · rfl
  · simp

/-! ## Results of lanes -/

theorem Gang.bGet_latch (g : Gang) (l : Nat) (x : Word) :
    (g.latch l x).bGet l 0 = x ∧ (g.latch l x).bGet l 1 = g.bGet l 0 ∧ (g.latch l x).bGet l 2 = g.bGet l 1 ∧
      (g.latch l x).bGet l 3 = g.bGet l 2 := by
  refine ⟨?_, ?_, ?_, ?_⟩ <;> simp [Gang.bGet, Gang.latch, Tab.get_set_ne]

theorem Gang.bGet_latch_ne (g : Gang) (l m j : Nat) (x : Word) (h : m ≠ l) (hj : j < 4) : (g.latch l x).bGet m j = g.bGet m j := by
  simp only [Gang.bGet, Gang.latch]
  rw [Tab.get_set_ne _ _ _ _ (by omega), Tab.get_set_ne _ _ _ _ (by omega), Tab.get_set_ne _ _ _ _ (by omega),
    Tab.get_set_ne _ _ _ _ (by omega)]

theorem pSet_bit (old : BitVec 8) (n m : Nat) (x : Bool) (hn : n < 8) (hm : m < 8) :
    (if x then old ||| BitVec.ofNat 8 (2 ^ n) else old &&& ~~~BitVec.ofNat 8 (2 ^ n)).getLsbD m =
      if m = n then x else old.getLsbD m := by
  have : (BitVec.ofNat 8 (2 ^ n)).getLsbD m = decide (n = m) := by
    rw [BitVec.getLsbD_ofNat, Nat.testBit_two_pow]; simp only [hm, decide_true, Bool.true_and]
  by_cases e : m = n
  · subst e
    cases x
    · simp only [if_false, if_true, Bool.false_eq_true, BitVec.getLsbD_and, BitVec.getLsbD_not, this, decide_true]; simp
    · simp only [if_true, BitVec.getLsbD_or, this, decide_true]; simp
  · have e' : ¬n = m := fun q => e q.symm
    cases x
    · simp only [if_false, Bool.false_eq_true, BitVec.getLsbD_and, BitVec.getLsbD_not, this, e, e', decide_false, hm]; simp
    · simp only [if_true, if_false, BitVec.getLsbD_or, this, e, e', decide_false, Bool.or_false]

theorem Gang.pGet_pSet (g : Gang) (l n : Nat) (x : Bool) (hn : n < 8) (h0 : n ≠ 0) : (g.pSet l n x).pGet l n = x := by
  simp only [Gang.pGet, Gang.pSet, h0, if_false, Tab.get_set_same, pSet_bit _ _ _ _ hn hn, if_true]
  simp [h0]

theorem Gang.pGet_pSet_ne (g : Gang) (l n l' n' : Nat) (x : Bool) (hn : n < 8) (hn' : n' < 8) (h : ¬(l' = l ∧ n' = n)) :
    (g.pSet l n x).pGet l' n' = g.pGet l' n' := by
  by_cases h0 : n = 0
  · subst h0; rfl
  · by_cases e : l' = l
    · subst e
      have : n' ≠ n := fun q => h ⟨rfl, q⟩
      simp only [Gang.pGet, Gang.pSet, h0, if_false, Tab.get_set_same, pSet_bit _ _ _ _ hn hn', this]
    · simp only [Gang.pGet, Gang.pSet, h0, if_false, Tab.get_set_ne _ _ _ _ e]

@[simp] theorem Gang.vGet_pSet (g : Gang) (l n : Nat) (x : Bool) (i r : Nat) : (g.pSet l n x).vGet i r = g.vGet i r := by
  simp [Gang.vGet]
@[simp] theorem Gang.bGet_pSet (g : Gang) (l n : Nat) (x : Bool) (i r : Nat) : (g.pSet l n x).bGet i r = g.bGet i r := by
  simp [Gang.bGet]
@[simp] theorem Gang.vGet_latch (g : Gang) (l : Nat) (x : Word) (i r : Nat) : (g.latch l x).vGet i r = g.vGet i r := rfl
@[simp] theorem Gang.pGet_latch (g : Gang) (l : Nat) (x : Word) (i n : Nat) : (g.latch l x).pGet i n = g.pGet i n := rfl
@[simp] theorem Gang.bGet_vSet (g : Gang) (l r : Nat) (x : Word) (i j : Nat) : (g.vSet l r x).bGet i j = g.bGet i j := rfl
@[simp] theorem Gang.pGet_vSet (g : Gang) (l r : Nat) (x : Word) (i n : Nat) : (g.vSet l r x).pGet i n = g.pGet i n := rfl

/-- One lane's results leave the other lanes alone. -/
theorem Gang.putLane_other (g : Gang) (nw : Bool) (dst l m : Nat) (o : LaneOut) (h : m ≠ l) (hd : dst < 128)
    (hp : ∀ n x, o.pred = some (n, x) → n < 8) :
    (∀ r, r < 128 → (g.putLane nw dst l o).vGet m r = g.vGet m r) ∧
    (∀ j, j < 4 → (g.putLane nw dst l o).bGet m j = g.bGet m j) ∧
    (∀ n, n < 8 → (g.putLane nw dst l o).pGet m n = g.pGet m n) := by
  have hlm : ¬(l = m) := fun e => h e.symm
  obtain ⟨val, pred, fl, wn⟩ := o
  have hv : ∀ x r, r < 128 → (g.result nw dst l x).vGet m r = g.vGet m r := by
    intro x r hr
    unfold Gang.result
    cases nw
    · exact (Gang.vGet_vSet_ne _ _ _ _ _ _ hd hr (fun q => hlm q.1)).trans (Gang.vGet_latch _ _ _ _ _)
    · rfl
  have hb : ∀ x j, j < 4 → (g.result nw dst l x).bGet m j = g.bGet m j := by
    intro x j hj
    unfold Gang.result
    cases nw
    · exact Gang.bGet_latch_ne _ _ _ _ _ h hj
    · exact Gang.bGet_latch_ne _ _ _ _ _ h hj
  have hq : ∀ x n, (g.result nw dst l x).pGet m n = g.pGet m n := by
    intro x n; unfold Gang.result; cases nw <;> rfl
  refine ⟨fun r hr => ?_, fun j hj => ?_, fun n hn => ?_⟩
  · cases val <;> cases pred <;> simp only [Gang.putLane, Gang.vGet_pSet] <;> first | rfl | exact hv _ _ hr
  · cases val <;> cases pred <;> simp only [Gang.putLane, Gang.bGet_pSet] <;> first | rfl | exact hb _ _ hj
  · cases pred with
    | none => cases val <;> simp only [Gang.putLane] ; exact hq _ _
    | some e =>
      obtain ⟨n', y⟩ := e
      have := hp n' y rfl
      cases val <;> simp only [Gang.putLane]
      · exact Gang.pGet_pSet_ne _ _ _ _ _ _ this hn (fun q => h q.1)
      · exact (Gang.pGet_pSet_ne _ _ _ _ _ _ this hn (fun q => h q.1)).trans (hq _ _)

/-- One lane's results in that lane. -/
theorem Gang.putLane_same (g : Gang) (nw : Bool) (dst l : Nat) (o : LaneOut) (hd : dst < 128)
    (hp : ∀ n x, o.pred = some (n, x) → n < 8) :
    (∀ x, o.val = some x → nw = false → (g.putLane nw dst l o).vGet l dst = x) ∧
    (∀ r, r < 128 → ¬(o.val.isSome ∧ nw = false ∧ r = dst) → (g.putLane nw dst l o).vGet l r = g.vGet l r) ∧
    (∀ x, o.val = some x → (g.putLane nw dst l o).bGet l 0 = x ∧ (g.putLane nw dst l o).bGet l 1 = g.bGet l 0 ∧
      (g.putLane nw dst l o).bGet l 2 = g.bGet l 1 ∧ (g.putLane nw dst l o).bGet l 3 = g.bGet l 2) ∧
    (o.val = none → ∀ j, (g.putLane nw dst l o).bGet l j = g.bGet l j) ∧
    (∀ n x, o.pred = some (n, x) → n ≠ 0 → (g.putLane nw dst l o).pGet l n = x) ∧
    (∀ n, n < 8 → (¬∃ x, o.pred = some (n, x)) → (g.putLane nw dst l o).pGet l n = g.pGet l n) := by
  obtain ⟨val, pred, fl, wn⟩ := o
  have hb : ∀ x j, (g.result nw dst l x).bGet l j = (g.latch l x).bGet l j := by
    intro x j; unfold Gang.result; cases nw <;> rfl
  have hq : ∀ x n, (g.result nw dst l x).pGet l n = g.pGet l n := by
    intro x n; unfold Gang.result; cases nw <;> rfl
  refine ⟨?_, ?_, ?_, ?_, ?_, ?_⟩
  · intro x hx hn
    simp only at hx; subst hx; subst hn
    cases pred <;> simp only [Gang.putLane, Gang.vGet_pSet] <;> exact Gang.vGet_vSet (g.latch l x) l dst x
  · intro r hr hne
    have hv : ∀ x, val = some x → (g.result nw dst l x).vGet l r = g.vGet l r := by
      intro x hx
      unfold Gang.result
      cases nw
      · have hrd : r ≠ dst := fun q => hne ⟨by simp [hx], rfl, q⟩
        exact Gang.vGet_vSet_ne (g.latch l x) l dst l r x hd hr (fun q => hrd q.2.symm)
      · rfl
    cases val <;> cases pred <;> simp only [Gang.putLane, Gang.vGet_pSet] <;> first | rfl | exact hv _ rfl
  · intro x hx
    simp only at hx; subst hx
    cases pred <;> simp only [Gang.putLane, Gang.bGet_pSet, hb] <;> exact Gang.bGet_latch g l x
  · intro hx j
    simp only at hx; subst hx
    cases pred <;> simp only [Gang.putLane, Gang.bGet_pSet]
  · intro n x hx h0
    simp only at hx; subst hx
    simp only [Gang.putLane]
    exact Gang.pGet_pSet _ _ _ _ (hp n x rfl) h0
  · intro n hn hne
    cases pred with
    | none => cases val <;> simp only [Gang.putLane] ; exact hq _ _
    | some e =>
      obtain ⟨n', x⟩ := e
      have : n ≠ n' := fun q => hne ⟨x, by rw [q]⟩
      cases val <;> simp only [Gang.putLane]
      · exact Gang.pGet_pSet_ne _ _ _ _ _ _ (hp n' x rfl) hn (fun q => this q.2)
      · exact (Gang.pGet_pSet_ne _ _ _ _ _ _ (hp n' x rfl) hn (fun q => this q.2)).trans (hq _ _)

/-- Results change v registers, latches and predicates only. -/
theorem Gang.putLanes_eq (nw : Bool) (dst : Nat) (outs : List (Nat × LaneOut)) (g : Gang) :
    ∃ v b p, g.putLanes nw dst outs = { g with v := v, b := b, p := p } := by
  induction outs generalizing g with
  | nil => exact ⟨g.v, g.b, g.p, rfl⟩
  | cons e l ih =>
    obtain ⟨v, b, p, h⟩ := ih (g.putLane nw dst e.1 e.2)
    have : ∃ v b p, g.putLane nw dst e.1 e.2 = { g with v := v, b := b, p := p } := by
      unfold Gang.putLane Gang.result Gang.pSet
      cases e.2.val <;> cases e.2.pred <;> simp only <;> (repeat' split) <;> exact ⟨_, _, _, rfl⟩
    obtain ⟨v', b', p', h'⟩ := this
    refine ⟨v, b, p, ?_⟩
    show Gang.putLanes (g.putLane nw dst e.1 e.2) nw dst l = _
    rw [h, h']

/-- A lane outside a list of results keeps its values. -/
theorem Gang.putLanes_other (nw : Bool) (dst : Nat) (outs : List (Nat × LaneOut)) (g : Gang) (m : Nat)
    (h : m ∉ outs.map Prod.fst) (hd : dst < 128) (hp : ∀ e ∈ outs, ∀ n x, e.2.pred = some (n, x) → n < 8) :
    (∀ r, r < 128 → (g.putLanes nw dst outs).vGet m r = g.vGet m r) ∧
    (∀ j, j < 4 → (g.putLanes nw dst outs).bGet m j = g.bGet m j) ∧
    (∀ n, n < 8 → (g.putLanes nw dst outs).pGet m n = g.pGet m n) := by
  induction outs generalizing g with
  | nil => exact ⟨fun _ _ => rfl, fun _ _ => rfl, fun _ _ => rfl⟩
  | cons e l ih =>
    simp only [List.map_cons, List.mem_cons, not_or] at h
    have h1 := Gang.putLane_other g nw dst e.1 m e.2 h.1 hd (hp e List.mem_cons_self)
    have h2 := ih (g.putLane nw dst e.1 e.2) h.2 (fun e' he' => hp e' (List.mem_cons_of_mem _ he'))
    refine ⟨fun r hr => ?_, fun j hj => ?_, fun n hn => ?_⟩
    · exact (h2.1 r hr).trans (h1.1 r hr)
    · exact (h2.2.1 j hj).trans (h1.2.1 j hj)
    · exact (h2.2.2 n hn).trans (h1.2.2 n hn)

/-- A lane of a list of results without repeats holds what its own results give. -/
theorem Gang.putLanes_lane (nw : Bool) (dst : Nat) (out : Nat → LaneOut) (l : List Nat) (g : Gang) (m : Nat)
    (hm : m ∈ l) (hl : l.Nodup) (hd : dst < 128) (hp : ∀ i n x, (out i).pred = some (n, x) → n < 8) :
    (∀ r, r < 128 → (g.putLanes nw dst (l.map (fun i => (i, out i)))).vGet m r = (g.putLane nw dst m (out m)).vGet m r) ∧
    (∀ j, j < 4 → (g.putLanes nw dst (l.map (fun i => (i, out i)))).bGet m j = (g.putLane nw dst m (out m)).bGet m j) ∧
    (∀ n, n < 8 → (g.putLanes nw dst (l.map (fun i => (i, out i)))).pGet m n = (g.putLane nw dst m (out m)).pGet m n) := by
  induction l generalizing g with
  | nil => cases hm
  | cons i l ih =>
    rw [List.nodup_cons] at hl
    by_cases e : m = i
    · subst e
      have := Gang.putLanes_other nw dst (l.map (fun i => (i, out i))) (g.putLane nw dst m (out m)) m
        (by simpa using hl.1) hd (by
          intro e he n x hx
          obtain ⟨k, _, rfl⟩ := List.mem_map.1 he
          exact hp k n x hx)
      exact this
    · have hm' : m ∈ l := by simpa [e] using hm
      have h2 := ih (g.putLane nw dst i (out i)) hm' hl.2
      have h1 := Gang.putLane_other g nw dst i m (out i) e hd (fun n x => hp i n x)
      have s1 := Gang.putLane_same (g.putLane nw dst i (out i)) nw dst m (out m) hd (fun n x => hp m n x)
      have s0 := Gang.putLane_same g nw dst m (out m) hd (fun n x => hp m n x)
      refine ⟨fun r hr => ?_, fun j hj => ?_, fun n hn => ?_⟩
      · refine (h2.1 r hr).trans ?_
        by_cases q : (out m).val.isSome ∧ nw = false ∧ r = dst
        · obtain ⟨x, hx⟩ := Option.isSome_iff_exists.1 q.1
          rw [q.2.2, s1.1 x hx q.2.1, s0.1 x hx q.2.1]
        · rw [s1.2.1 r hr q, s0.2.1 r hr q, h1.1 r hr]
      · refine (h2.2.1 j hj).trans ?_
        cases hx : (out m).val with
        | none => rw [s1.2.2.2.1 hx j, s0.2.2.2.1 hx j, h1.2.1 j hj]
        | some x =>
          have a := s1.2.2.1 x hx; have b := s0.2.2.1 x hx
          match j, hj with
          | 0, _ => rw [a.1, b.1]
          | 1, _ => rw [a.2.1, b.2.1, h1.2.1 0 (by omega)]
          | 2, _ => rw [a.2.2.1, b.2.2.1, h1.2.1 1 (by omega)]
          | 3, _ => rw [a.2.2.2, b.2.2.2, h1.2.1 2 (by omega)]
      · refine (h2.2.2 n hn).trans ?_
        by_cases q : ∃ x, (out m).pred = some (n, x)
        · obtain ⟨x, hx⟩ := q
          by_cases h0 : n = 0
          · subst h0; rfl
          · rw [s1.2.2.2.2.1 n x hx h0, s0.2.2.2.2.1 n x hx h0]
        · rw [s1.2.2.2.2.2 n hn q, s0.2.2.2.2.2 n hn q, h1.2.2 n hn]

/-- The results of the active lanes. -/
theorem Gang.putLanes_results (c : Issue) (out : Nat → LaneOut) (g : Gang) (hp : ∀ i n x, (out i).pred = some (n, x) → n < 8) :
    Results c (fun i => (out i).val) g (g.putLanes c.w.nw c.w.dst.toNat ((lanesOf c.act).map (fun i => (i, out i)))) ∧
    PredResults c (fun i => (out i).pred) g (g.putLanes c.w.nw c.w.dst.toNat ((lanesOf c.act).map (fun i => (i, out i)))) := by
  have hd := c.w.dst.isLt
  have on := fun i (h : c.on i) => Gang.putLanes_lane c.w.nw c.w.dst.toNat out (lanesOf c.act) g i ((c.on_iff i).1 h)
    (lanesOf_nodup _) hd hp
  have off := fun i (h : ¬c.on i) => Gang.putLanes_other c.w.nw c.w.dst.toNat ((lanesOf c.act).map (fun i => (i, out i))) g i
    (by simpa [Issue.on] using h) hd (by
      intro e he n x hx
      obtain ⟨k, _, rfl⟩ := List.mem_map.1 he
      exact hp k n x hx)
  have same := fun i => Gang.putLane_same g c.w.nw c.w.dst.toNat i (out i) hd (fun n x => hp i n x)
  refine ⟨⟨?_, ?_, ?_, ?_⟩, ⟨?_, ?_⟩⟩
  · intro i x hi hx hn
    rw [(on i hi).1 _ hd]; exact (same i).1 x hx hn
  · intro i r _ hr hne
    by_cases hi : c.on i
    · rw [(on i hi).1 r hr]; exact (same i).2.1 r hr (fun q => hne ⟨hi, q⟩)
    · exact (off i hi).1 r hr
  · intro i x hi hx
    have := (same i).2.2.1 x hx
    rw [(on i hi).2.1 0 (by omega), (on i hi).2.1 1 (by omega), (on i hi).2.1 2 (by omega), (on i hi).2.1 3 (by omega)]
    exact this
  · intro i j _ hj hne
    by_cases hi : c.on i
    · rw [(on i hi).2.1 j hj]
      have : (out i).val = none := by
        by_contra q
        exact hne ⟨hi, Option.isSome_iff_ne_none.2 q⟩
      exact (same i).2.2.2.1 this j
    · exact (off i hi).2.1 j hj
  · intro i n x hi hx hn h0
    rw [(on i hi).2.2 n hn]; exact (same i).2.2.2.2.1 n x hx h0
  · intro i n _ hn hne
    by_cases hi : c.on i
    · rw [(on i hi).2.2 n hn]
      exact (same i).2.2.2.2.2 n hn (fun q => hne ⟨hi, q⟩)
    · exact (off i hi).2.2 n hn

/-! ## Words that are ready -/

theorem SameSystem.refl (g : Gang) : SameSystem g g := by constructor <;> rfl

/-- The word's form is the one its opcode gives. -/
theorem State.issue_form (op : Nat) (w : FullWord) (s : State) (c : Issue) (h : s.issue op w = some c) :
    c.op = op ∧ c.w = w ∧ c.f = (form op w).getD default := by
  unfold State.issue at h
  cases hc : s.aux.cur with
  | none => simp [hc] at h
  | some k => simp only [hc, Option.some.injEq] at h; subst h; exact ⟨rfl, rfl, rfl⟩

/-- A ready word performs its body, after the warnings of its fallbacks. -/
theorem runWord_ready (op : Nat) (w : FullWord) (s : State) (c : Issue) (h : Ready op w s c) (body : Issue → State → State) :
    runWord op w s body = .next ((body c (c.warn (c.f.warns op w) s)).settleGang c.wg c.gang) := by
  obtain ⟨ho, hw, -⟩ := State.issue_form op w s c h.issued
  have hr := h.regs
  have hl := h.legal
  have ha := h.active
  have hf := h.formed
  unfold runWord
  rw [h.issued]
  simp only [Issue.checks, ho, hw, hf, hl, hr, ha, if_false]
  rfl

@[simp] theorem Issue.g_mod (c : Issue) (s : State) (f : Gang → Gang) : c.g (c.mod s f) = f (c.g s) := by
  simp [Issue.g, Issue.mod]

@[simp] theorem Issue.g_setGang (c : Issue) (s : State) (x : Gang) : c.g (s.setGang c.wg c.gang x) = x := by
  simp [Issue.g]

theorem Issue.mod_eq (c : Issue) (s : State) (f : Gang → Gang) : c.mod s f = s.setGang c.wg c.gang (f (c.g s)) := rfl

theorem Issue.mod_mod (c : Issue) (s : State) (f h : Gang → Gang) : c.mod (c.mod s f) h = c.mod s (fun x => h (f x)) :=
  State.modGang_modGang _ _ _ _ _

/-- Warnings change warns and warnpc only. -/
theorem Gang.warn_eq (g : Gang) (bits : Nat) (pc : Word) :
    g.warn bits pc = { g with warns := (g.warn bits pc).warns, warnpc := (g.warn bits pc).warnpc } := by
  unfold Gang.warn; split <;> rfl

/-- A warning depends on warns and warnpc only. -/
theorem Gang.warn_congr (g h : Gang) (bits : Nat) (pc : Word) (hw : h.warns = g.warns) (hp : h.warnpc = g.warnpc) :
    (h.warn bits pc).warns = (g.warn bits pc).warns ∧ (h.warn bits pc).warnpc = (g.warn bits pc).warnpc := by
  unfold Gang.warn; split
  · exact ⟨hw, hp⟩
  · simp only [hw, hp, and_self]

/-- The results of lanes, then the next word: what commit leaves when no enabled flag is raised (R45, R46). -/
theorem Issue.commit_quiet (c : Issue) (s : State) (out : Nat → LaneOut) (pre : Nat)
    (hq : Quiet c s out) (hp : ∀ i n x, (out i).pred = some (n, x) → n < 8) :
    ∃ t, c.commit out (c.warn pre s) = t ∧ OnlyGang c.wg c.gang s t ∧ SameSystem (c.g s) (c.g t) ∧
      (c.g t).k = (c.g s).k ∧ (c.g t).d = (c.g s).d ∧
      Results c (fun i => (out i).val) (c.g s) (c.g t) ∧ PredResults c (fun i => (out i).pred) (c.g s) (c.g t) ∧
      (c.g t).fpctl = (c.g s).fpctl ||| word (orAll ((lanesOf c.act).map (fun i => (out i).flags)) % 32 * 2 ^ 11) ∧
      Warned c pre (orAll ((lanesOf c.act).map (fun i => (out i).warns))) (c.g s) (c.g t) ∧
      NextWord c (c.g s) (c.g t) := by
  refine ⟨_, rfl, ?_⟩
  let outs := (lanesOf c.act).map (fun i => (i, out i))
  let fl := orAll (outs.map (fun e => e.2.flags))
  have hfl : fl = orAll ((lanesOf c.act).map (fun i => (out i).flags)) := by
    simp only [fl, outs, List.map_map]; rfl
  have hwl : orAll (outs.map (fun e => e.2.warns)) = orAll ((lanesOf c.act).map (fun i => (out i).warns)) := by
    simp only [outs, List.map_map]; rfl
  -- no enabled flag
  have hen : ∀ n, (((c.g s).warn pre c.pc).raise fl).enabled n = (c.g s).enabled n := by
    intro n
    have e1 : ((c.g s).warn pre c.pc).fpctl = (c.g s).fpctl := by rw [Gang.warn_eq]
    unfold Gang.enabled Gang.raise
    simp only [e1]
    have : Word.bits ((c.g s).fpctl ||| word (fl % 32 * 2 ^ 11)) 6 5 = Word.bits (c.g s).fpctl 6 5 := by
      unfold Word.bits fld
      rw [BitVec.toNat_or]
      apply Nat.eq_of_testBit_eq
      intro i
      simp only [Nat.testBit_mod_two_pow, Nat.testBit_div_two_pow, Nat.testBit_or]
      by_cases hi : i < 5
      · have : (word (fl % 32 * 2 ^ 11)).toNat.testBit (i + 6) = false := by
          simp only [word, BitVec.toNat_ofNat, Nat.testBit_mod_two_pow]
          rw [Nat.mul_comm, Nat.testBit_two_pow_mul]
          have : ¬ 11 ≤ i + 6 := by omega
          simp [this]
        rw [this, Bool.or_false]
      · simp [hi]
    rw [this]
  have hbad : maskOf ((outs.filter (fun e => (((c.g s).warn pre c.pc).raise fl).enabled e.2.flags != 0)).map Prod.fst) = 0#32 := by
    have : outs.filter (fun e => (((c.g s).warn pre c.pc).raise fl).enabled e.2.flags != 0) = [] := by
      rw [List.filter_eq_nil_iff]
      intro e he
      obtain ⟨i, hi, rfl⟩ := List.mem_map.1 he
      have := hq i ((c.on_iff i).2 hi)
      simp [hen, this]
    rw [this]; rfl
  have hcommit : c.commit out (c.warn pre s) =
      c.done (c.mod s (fun g => (((g.warn pre c.pc).raise fl).warn (orAll (outs.map (fun e => e.2.warns))) c.pc).putLanes
        c.w.nw c.w.dst.toNat outs)) := by
    unfold Issue.commit
    simp only [Issue.warn, Issue.g_mod, Issue.mod_mod]
    rw [if_neg (by simpa [outs, fl] using hbad)]
  rw [hcommit]
  obtain ⟨th, a, b, r, n, hd, ht⟩ := c.done_eq (c.mod s (fun g =>
    (((g.warn pre c.pc).raise fl).warn (orAll (outs.map (fun e => e.2.warns))) c.pc).putLanes c.w.nw c.w.dst.toNat outs))
  rw [hd]
  simp only [Issue.g_setGang, Issue.mod_eq, State.setGang_setGang]
  obtain ⟨v', b', p', hput⟩ := Gang.putLanes_eq c.w.nw c.w.dst.toNat outs
    (((c.g s).warn pre c.pc).raise fl |>.warn (orAll (outs.map (fun e => e.2.warns))) c.pc)
  have hres := Gang.putLanes_results c out (((c.g s).warn pre c.pc).raise fl |>.warn (orAll (outs.map (fun e => e.2.warns))) c.pc) hp
  have hthr : ∀ g : Gang, (((g.warn pre c.pc).raise fl).warn (orAll (outs.map (fun e => e.2.warns))) c.pc) =
      { g with fpctl := g.fpctl ||| word (fl % 32 * 2 ^ 11),
               warns := ((g.warn pre c.pc).warn (orAll (outs.map (fun e => e.2.warns))) c.pc).warns,
               warnpc := ((g.warn pre c.pc).warn (orAll (outs.map (fun e => e.2.warns))) c.pc).warnpc } := by
    intro g
    have e1 := Gang.warn_eq g pre c.pc
    have e2 := Gang.warn_eq ((g.warn pre c.pc).raise fl) (orAll (outs.map (fun e => e.2.warns))) c.pc
    have e3 := Gang.warn_congr (g.warn pre c.pc) ((g.warn pre c.pc).raise fl) (orAll (outs.map (fun e => e.2.warns))) c.pc rfl rfl
    rw [e2, e3.1, e3.2]
    unfold Gang.raise
    rw [e1]
  rw [hthr] at hput hres
  have hval : (fun i => (out i).val) = fun i => (out i).val := rfl
  refine ⟨OnlyGang.setGang _ _ _ _, ?_, ?_, ?_, ?_, ?_, ?_, ?_, ?_⟩
  · rw [hthr, hput]; constructor <;> rfl
  · rw [hthr, hput]
  · rw [hthr, hput]
  · rw [hthr]
    exact ⟨hres.1.write, hres.1.keep, hres.1.enter, hres.1.hold⟩
  · rw [hthr]
    exact ⟨hres.2.write, hres.2.keep⟩
  · rw [hthr, hput, hfl]
  · rw [hthr, hput, ← hwl]; exact ⟨rfl, rfl⟩
  · intro i hi
    have := ht i hi
    simp only [Issue.mod_eq, Issue.g_setGang] at this
    have e : ∀ j, (Gang.putLanes (((c.g s).warn pre c.pc).raise fl |>.warn (orAll (outs.map (fun e => e.2.warns))) c.pc) c.w.nw
        c.w.dst.toNat outs).thread j = (c.g s).thread j := by
      intro j; rw [hthr, hput]; rfl
    rw [e] at this
    exact this

/-- A gang whose split stands at the next word still has its threads. -/
theorem NextWord.exec (c : Issue) (g h : Gang) (hn : NextWord c g h) (he : ∃ i, i < 32 ∧ (g.thread i).st = .exec) :
    ∃ i, i < 32 ∧ (h.thread i).st = .exec := by
  obtain ⟨i, hi, e⟩ := he
  refine ⟨i, hi, ?_⟩
  rw [hn i hi]; split <;> exact e

/-- A ready lane-wise word that raises no enabled flag performs. -/
theorem laneWord_ready (op : Nat) (w : FullWord) (s : State) (c : Issue) (f : Issue → Gang → Nat → LaneOut) (h : Ready op w s c)
    (hf : ∀ bits, f c ((c.g s).warn bits c.pc) = f c (c.g s)) (hq : Quiet c s (f c (c.g s)))
    (hp : ∀ i n x, (f c (c.g s) i).pred = some (n, x) → n < 8) :
    ∃ t, laneWord op w s f = .next t ∧ LaneDone c s t (f c (c.g s)) := by
  obtain ⟨ho, hw, -⟩ := State.issue_form op w s c h.issued
  obtain ⟨t, ht, h1, h2, h3, h4, h5, h6, h7, h8, h9⟩ := c.commit_quiet s (f c (c.g s)) (c.f.warns op w) hq hp
  refine ⟨t, ?_, ⟨h1, h2, h3, h4, h5, h6, h7, ?_, h9⟩⟩
  · unfold laneWord
    rw [runWord_ready op w s c h]
    have : c.g (c.warn (c.f.warns op w) s) = (c.g s).warn (c.f.warns op w) c.pc := by simp [Issue.warn]
    simp only [this, hf]
    rw [ht, State.settleGang_exec _ _ _ (NextWord.exec c _ _ h9 h.exec)]
  · rw [ho, hw]; exact h8

/-- The same for a v result, which raises no flag. -/
theorem laneVal_ready (op : Nat) (w : FullWord) (s : State) (c : Issue) (f : Issue → Gang → Nat → Word) (h : Ready op w s c)
    (hf : ∀ bits, f c ((c.g s).warn bits c.pc) = f c (c.g s)) :
    ∃ t, laneVal op w s f = .next t ∧ LaneDone c s t (fun i => .v (f c (c.g s) i)) := by
  refine laneWord_ready op w s c (fun c g i => .v (f c g i)) h (fun bits => by funext i; simp only [hf bits]) ?_ ?_
  · intro i _; show Nat.land (0 % 32) _ = 0; simp [Nat.land]
  · intro i n x e; cases e

/-- Operands do not depend on warns. -/
theorem Gang.src_warn (g : Gang) (bits : Nat) (pc : Word) (i : Nat) (f : BitVec 8) : (g.warn bits pc).src i f = g.src i f := by
  rw [Gang.warn_eq]; rfl

end Sys2Proof.Machine
end

