-- ==== Sys2Proof/Tests/Slice0.lean ====
section
/-! SUPPORT. Tests: decoding, ill-formed terms, single steps on small states, and witnesses that the statements' hypotheses can be met. -/

open Sys2Proof Sys2Proof.Machine

namespace Sys2Proof.Tests

set_option Elab.async false

/-! ## A small state -/

/-- A header: two threads, one gang, one workgroup, 128 registers, every region, eight claims, barrier 0, an argument block. -/
def hdr1 : BitVec 512 :=
  BitVec.ofNat 512 (7 * 2 ^ 36 + 1 + 2 ^ 64 + 0x10000 * 2 ^ 256 + 64 * 2 ^ 320 + 64 * 2 ^ 330 + 64 * 2 ^ 344 + 16 * 2 ^ 356 +
    8 * 2 ^ 365 + 2 ^ 372 + 0x20000 * 2 ^ 384 + 64 * 2 ^ 448)

def launch1 : Launch :=
  { (default : Launch) with hdr := hdr1, args := leBytes 64 0x0102030405060708, next := 1 }

def at1 (pc : Word) : Thread := { st := .exec, pc := pc, rstack := [], refused := 0 }

/-- Two threads in one split, in a run, with a trap handler. -/
def gang1 : Gang :=
  { (default : Gang) with
    thr := [(0, at1 0x10000), (1, at1 0x10000)], splits := [{ id := 0, lanes := 3, replay := none }], nextId := 1
    run := some { split := 0, count := 1 }, tvec := 0x20000, k := (List.range 8).map (fun k => (k, 3#32)) }

/-- Values for v registers: lane, number, value. -/
def regs (l : List (Nat × Nat × Nat)) (g : Gang) : Gang := l.foldl (fun g e => g.vSet e.1 e.2.1 (word e.2.2)) g

def wg1 (g : Gang) : Workgroup := { (default : Workgroup) with status := .running, gangs := [(0, g)] }

/-- One workgroup of one gang, in which the word at 0x10000 is in issue; tables map the first GiB. -/
def base (g : Gang) : State :=
  let s := State.reset.install []
  { s with
    wgs := [(0, wg1 g)]
    sched := { s.sched with launches := [(0, launch1)] }
    aux := { s.aux with cur := some { wg := 0, gang := 0, split := 0, pc := 0x10000, replay := none } } }

def fw (dst sa sb sc m : Nat) : FullWord :=
  { h := false, gp := 0, gi := false, nw := false, dst := BitVec.ofNat 7 dst, sa := BitVec.ofNat 8 sa, sb := BitVec.ofNat 8 sb,
    sc := BitVec.ofNat 8 sc, mod := BitVec.ofNat 18 m }

/-! ## When a word is ready -/

/-- The hypothesis Ready as a check. -/
def isReady (op : Nat) (w : FullWord) (s : State) : Bool :=
  match s.issue op w with
  | none => false
  | some c => (form op w).isSome && !c.f.illegal w && (s.regBad c.wg c.gang (c.f.regs w)).isNone && c.act != 0#32 &&
      (List.range 32).any (fun i => ((c.g s).thread i).st == .exec) && (s.aux.cur.all (fun x => !x.late))

/-- The word in issue. -/
def its (op : Nat) (w : FullWord) (s : State) : Issue := (s.issue op w).getD default

theorem ready {op : Nat} {w : FullWord} {s : State} (h : isReady op w s = true) : Ready op w s (its op w s) := by
  unfold isReady at h
  cases hi : s.issue op w with
  | none => simp [hi] at h
  | some c =>
    have hf : c.f = (form op w).getD default := by
      simp only [State.issue] at hi
      split at hi
      · exact absurd hi (by simp)
      · rw [← Option.some.inj hi]
    simp only [hi, Bool.and_eq_true, List.any_eq_true, List.mem_range, Option.isSome_iff_exists] at h
    obtain ⟨⟨⟨⟨⟨⟨f, h1⟩, h2⟩, h3⟩, h4⟩, i, h5, h6⟩, h7⟩ := h
    have : its op w s = c := by simp [its, hi]
    rw [this]
    exact ⟨hi, by rw [hf, h1]; rfl, by simpa using h2, by simpa using h3, by simpa using h4, ⟨i, h5, by simpa using h6⟩,
      fun x hx => by simpa [hx] using h7⟩

/-- Words that are ready in a state. -/
def ReadyIn (s : State) (l : List (Nat × FullWord)) : Prop := ∀ e ∈ l, Ready e.1 e.2 s (its e.1 e.2 s)

theorem readyIn {s : State} {l : List (Nat × FullWord)} (h : l.all (fun e => isReady e.1 e.2 s) = true) : ReadyIn s l :=
  fun e he => ready (List.all_eq_true.1 h e he)

/-- An active lane is one of the 32. -/
theorem onAll {c : Issue} {p : Nat → Prop} (h : ∀ i, i < 32 → c.act.getLsbD i = true → p i) : ∀ i, c.on i → p i :=
  fun i hi => h i hi.1 hi.2

/-! ## Witnesses: encoding, steps, traps -/

theorem wit_DecodeEncode : (Instr.add (fw 127 0x83 255 0 0xE008)).wellFormed = true ∧
    (Instr.add (fw 127 0x83 255 0 0xE008)).hasWord = true := by decide +kernel

theorem wit_EncodeDecode : decode 0x3C80000000000000#64 = .ok (.tret (fw 0 0 0 0 0)) := by decide +kernel

/-- A state in which the next step fetches a word. -/
def fetches (n : Nat) : State := State.reset.withFetchWord 64 n

/-- The same with the agenda taken and the run begun. -/
def begun (n : Nat) : State :=
  (({ fetches n with aux := { (fetches n).aux with agenda := [] } } : State).beforeRun 0 0).startRun 0 0

/-- The same while vector issue is withheld. -/
def withheld (n : Nat) : State := { fetches n with prim := { (fetches n).prim with throttle := 2 } }

theorem wit_StepRunsWord : (fetches 0x088010081400E000).aux.agenda = [.issue 0] ∧
    ({ fetches 0x088010081400E000 with aux := { (fetches 0x088010081400E000).aux with agenda := [] } } : State).slotPick 0 = some (0, 0) ∧
    ((begun 0x088010081400E000).gang 0 0).turn = some { id := 0, lanes := 1, replay := none } ∧
    ((begun 0x088010081400E000).gang 0 0).splitPc { id := 0, lanes := 1, replay := none } = 0x10000#64 ∧
    ((begun 0x088010081400E000).fetch 0 0x10000).1 = .word 0x088010081400E000 ∧
    decodeNat 0x088010081400E000 = .ok (.add (fw 4 2 5 0 0xE000)) := by decide +kernel

theorem wit_VectorWaits : (withheld 0x1000000000000000).aux.agenda = [.issue 0] ∧
    ({ withheld 0x1000000000000000 with aux := { (withheld 0x1000000000000000).aux with agenda := [] } } : State).slotPick 0 = some (0, 0) ∧
    decodeNat 0x1000000000000000 = .ok (.vadd (fw 0 0 0 0 0)) ∧ isVector ((begun 0x1000000000000000).resolve 0 0 (.vadd (fw 0 0 0 0 0))) = true ∧
    2 ≤ (withheld 0x1000000000000000).prim.throttle ∧ (fetches 0).prim.throttle < 2 := by decide +kernel

theorem wit_FetchReadsImage : ((begun 0).translate ((begun 0).ctxKey 0) 0x10000 { rd := false, wr := false, ex := true }).1 =
    .ok 0x10000 0x10000 none := by decide +kernel

theorem wit_StepKeepsMemory : (fetches 0).Inv ∧ (match step (fetches 0) with | .next _ => true | _ => false) = true := by
  unfold State.Inv; decide +kernel

theorem wit_FirstInstruction : launch1.initV = [] ∧ hdrExt launch1.hdr 0 ≤ 32 := by decide +kernel

theorem wit_WordChecks : (fetches 0x3FC0000000000000).aux.agenda = [.issue 0] ∧
    ((begun 0x3FC0000000000000).gang 0 0).turn = some { id := 0, lanes := 1, replay := none } ∧
    ((begun 0x3FC0000000000000).fetch 0 0x10000).1 = .word 0x3FC0000000000000 ∧
    decodeNat 0x3FC0000000000000 = .error .opcode := by decide +kernel

theorem wit_TrapEntry : ((base gang1).gang 0 0).inTrap = false ∧ ((base gang1).gang 0 0).inUi = false ∧
    codeAddr ((base gang1).gang 0 0).tvec ≠ 0#64 := by decide +kernel

theorem wit_TrapKills : ((base { gang1 with inTrap := true }).gang 0 0).inTrap = true ∧
    ((base { gang1 with tvec := 7 }).gang 0 0).inTrap = false ∧ codeAddr ((base { gang1 with tvec := 7 }).gang 0 0).tvec = 0#64 := by
  decide +kernel

theorem wit_KillEndsWorkgroup : ((base gang1).wg 0).status = .running ∧ hdrIdem ((base gang1).hdr 0) = false := by decide +kernel

/-- What a trap saved: both threads at 0x10000. -/
def saved1 : Saved :=
  { st := [(0, (.exec, 0x10000)), (1, (.exec, 0x10000))], splits := [{ id := 7, lanes := 3, replay := none }], parks := [], last := 7,
    lat := [], run := none, split := 7 }

/-- What taking a trap left of gang1, with its handler in issue; and another word at the handler. -/
def trapped1 : Gang :=
  { gang1.enterTrap 0 (some { split := 0, count := 1 }) 0x16 3#32 0 0x10000 0 with run := some { split := 1, count := 1 } }
def atHandler (g : Gang) (a : Word) : State :=
  { base g with aux := { (base g).aux with cur := some { wg := 0, gang := 0, split := 1, pc := a, replay := none } } }

theorem wit_TrapReturns : ReadyIn (atHandler trapped1 0x20000) [(0xF2, fw 0 0 0 0 0)] ∧
    (its 0xF2 (fw 0 0 0 0 0) (atHandler trapped1 0x20000)).g (atHandler trapped1 0x20000) = trapped1 ∧ gang1.inTrap = false ∧
    gang1.saved = none ∧ (gang1.thread 0).st = .exec ∧ (gang1.releaseJoins 0).lanesAt 0 &&& gang1.live = 3#32 ∧
    ((gang1.releaseJoins 0).thread 0).pc = codeAddr 0x10000 ∧
    ReadyIn (base gang1) [(0xF2, fw 0 0 0 0 0)] ∧ CanTrap (its 0xF2 (fw 0 0 0 0 0) (base gang1)) (base gang1) :=
  ⟨readyIn (by decide +kernel), by decide +kernel, by decide +kernel, by decide +kernel, by decide +kernel, by decide +kernel, by decide +kernel,
   readyIn (by decide +kernel), by unfold CanTrap; decide +kernel⟩

theorem wit_TrapWords : ReadyIn (base gang1) [(0xF0, fw 0 0 0 0 0x3FFFF), (0xF1, fw 0 0 0 0 0)] ∧
    ReadyIn (base { gang1 with inTrap := true, saved := some saved1 }) [(0xF2, fw 0 0 0 0 0)] ∧ (Tab.get saved1.st 0).1 = .exec :=
  ⟨readyIn (by decide +kernel), readyIn (by decide +kernel), by decide +kernel⟩

/-! ## Witnesses: words whose only hypothesis is that they are in issue -/

theorem wit_IntegerResults : ReadyIn (base gang1) ([0x20, 0x22, 0x23, 0x24, 0x25, 0x26, 0x27, 0x28, 0x29, 0x2A, 0x2B, 0x2C].map
    (fun op => (op, fw 4 2 3 1 24576))) := readyIn (by decide +kernel)

theorem wit_LogicAndFields : ReadyIn (base gang1) (([0x2D, 0x2E, 0x2F, 0x30, 0x31, 0x32, 0x33, 0x34, 0x35, 0x36, 0x37, 0x38, 0x39, 0x3A,
    0x3C].map (fun op => (op, fw 4 2 3 1 24576))) ++ [(0x3B, fw 4 2 3 1 0), (0x21, fw 4 2 3 1 0)]) := readyIn (by decide +kernel)

theorem wit_PredicatesAndControls : ReadyIn (base gang1) [(0x10, fw 7 2 3 1 24576), (0x11, fw 4 2 3 1 0), (0x12, fw 4 2 3 1 0),
      (0x12, fw 4 2 3 1 1), (0x12, fw 4 2 3 1 2), (0x12, fw 4 2 3 1 3), (0x13, fw 4 2 3 1 0)] ∧
    ReadyIn (base gang1) [(0x14, fw 0 2 0 0 0x10), (0x15, fw 0 2 0 0 0x11), (0x16, fw 0 2 0 0 0x32)] ∧
    (its 0x14 (fw 0 2 0 0 0x10) (base gang1)).creg ∈ cregsRW ∧ (its 0x16 (fw 0 2 0 0 0x32) (base gang1)).creg ∈ cregsRW ∧
    ((its 0x14 (fw 0 2 0 0 0x10) (base gang1)).f.warns 0x14 (fw 0 2 0 0 0x10)) = 0 ∧
    ((its 0x13 (fw 4 0 0 0 0x10) (base gang1)).f.warns 0x13 (fw 4 0 0 0 0x10)) = 0 :=
  ⟨readyIn (by decide +kernel), readyIn (by decide +kernel), by decide +kernel, by decide +kernel, by decide +kernel, by decide +kernel⟩

theorem wit_Masks : ReadyIn (base gang1) [(0x0B, fw 4 2 3 1 0), (0x0B, fw 4 2 3 1 16), (0x0B, fw 4 2 3 1 32), (0x0B, fw 4 2 3 1 48),
    (0x0B, fw 4 2 3 1 64), (0x0B, fw 7 2 3 1 80), (0x0C, fw 4 7 0 0 0)] := readyIn (by decide +kernel)

theorem wit_Branches : ReadyIn (base gang1) [(0, fw 0 0 0 0 0), (9, fw 0 0 0 0 0), (4, fw 0 0 0 0 0xFFFF), (1, fw 0 0 255 255 0x3FFFC),
    (2, fw 7 0 0 0 1)] := readyIn (by decide +kernel)

theorem wit_Packed : ReadyIn (base gang1) ([0x40, 0x41, 0x42, 0x43, 0x44, 0x45, 0x46, 0x47, 0x48, 0x49, 0x4A, 0x4B, 0x4C, 0x4D, 0x4E, 0x4F, 0x51,
    0x52, 0x53].map (fun op => (op, fw 4 2 3 1 0)) ++ [(0x50, fw 4 2 3 1 8192), (0x54, fw 4 2 3 1 8)]) := readyIn (by decide +kernel)

theorem wit_Floating : ReadyIn (base gang1) (([0x60, 0x61, 0x62, 0x63, 0x64, 0x65, 0x66, 0x67, 0x68, 0x69, 0x6A, 0x6D].map
    (fun op => (op, fw 4 2 3 1 98304))) ++ [(0x68, fw 4 2 3 1 98305), (0x6B, fw 4 2 3 1 98320), (0x6C, fw 4 2 3 1 128)]) :=
  readyIn (by decide +kernel)

/-- No enable of fpctl is set: no flag can trap. -/
theorem wit_Quiet (c : Issue) (out : Nat → LaneOut) (h : (c.g (base gang1)).fpctl = 0) : Quiet c (base gang1) out := by
  intro i _
  simp [Gang.enabled, h, Word.bits, fld]

theorem wit_NearestRounding : 17 ∈ [12, 13, 14, 15, 16, 17] ∧ (5 : Nat) ≠ 0 ∧
    (fmtOf 12).decode ((fmtOf 12).round 1 false false 5 0).bits = .fin false 1280 (-8) ∧ (fmtOf 12).decode 0 = .fin false 0 (-24) := by
  decide +kernel

theorem wit_SpecialFunctions : ReadyIn (base gang1) ((List.range 8).map (fun k => (0x80 + k, fw 4 2 3 1 98304))) := readyIn (by decide +kernel)

/-- Binary32 signalling NaN in lane 0 with the invalid-operation enable. -/
def trapping : State := base { regs [(0, 2, 0x7F800001)] gang1 with fpctl := 0x7C0 }

/-- The floating words of the statement, on the type .f32. -/
def trapWords : List (Nat × FullWord) :=
  ([0x60, 0x61, 0x62, 0x63, 0x64, 0x65, 0x68, 0x6A, 0x6D, 0x80, 0x81, 0x82, 0x83, 0x84, 0x85, 0x86, 0x87, 0x93,
    0x94].map (fun op => (op, fw 4 2 3 1 (14 * 8192)))) ++ [(0x6B, fw 4 2 3 1 (12 * 8192 + 32)), (0x6C, fw 4 2 3 1 (6 * 8192 + 160))]

/-- The lanes in which a lane function raises an enabled flag. -/
def raised (op : Nat) (w : FullWord) (s : State) (f : Issue → Gang → Nat → LaneOut) : Mask :=
  maskIf (its op w s).act (fun i => (s.gang 0 0).enabled (f (its op w s) (s.gang 0 0) i).flags != 0)

theorem wit_FloatingTraps : ReadyIn trapping trapWords ∧ CanTrap (its 0x60 (fw 4 2 3 1 (14 * 8192)) trapping) trapping ∧
    ([(0x60, Issue.faddLane), (0x61, Issue.fsubLane), (0x62, Issue.fmulLane), (0x63, Issue.fmaLane), (0x64, Issue.fminLane),
      (0x65, Issue.fmaxLane), (0x68, Issue.fcmpLane), (0x81, Issue.specialLane 1), (0x82, Issue.specialLane 2),
      (0x87, Issue.specialLane 7), (0x93, fun c g => (c.cross g c.act).out), (0x94, fun c g => (c.cross g c.act).out)].all (fun e => raised e.1 (fw 4 2 3 1 (14 * 8192)) trapping e.2 != 0#32)) = true ∧
    raised 0x6B (fw 4 2 3 1 (12 * 8192 + 32)) trapping Issue.fcvtLane = 1#32 ∧
    raised 0x6C (fw 4 2 3 1 (6 * 8192 + 160)) trapping Issue.icvtLane = 1#32 ∧
    raised 0x6A (fw 4 2 3 1 (14 * 8192)) trapping (fun c g i =>
      c.eachF (fun j => c.fmt.integral (c.mode g) (c.w.xa % 2 == 1) (c.eA g i j))) = 1#32 ∧
    raised 0x6D (fw 4 2 3 1 (14 * 8192)) trapping (fun c g i =>
      c.eachF (fun j => c.fmt.scale (c.mode g) (c.eA g i j) (sextN c.ew (c.eB g i j)))) = 1#32 :=
  ⟨readyIn (by decide +kernel), by unfold CanTrap; decide +kernel, by decide +kernel, by decide +kernel, by decide +kernel,
    by decide +kernel, by decide +kernel⟩

/-! ## Witnesses: control flow -/

/-- Two threads alike. -/
def both (t : Thread) : Tab Thread := [(0, t), (1, t)]

def deep (n : Nat) : Gang := { gang1 with thr := both { at1 0x10000 with rstack := List.replicate n 0x10008#64 } }

theorem wit_ReturnStacks : ReadyIn (base (deep 31)) [(5, fw 0 0 0 0 4), (7, fw 0 0 0 0 0), (0x13, fw 4 0 0 0 6), (0x14, fw 0 2 0 0 6)] ∧
    (∀ i, (its 5 (fw 0 0 0 0 4) (base (deep 31))).on i → (((base (deep 31)).gang 0 0).thread i).rstack.length < 32) ∧
    (∀ i, (its 7 (fw 0 0 0 0 0) (base (deep 31))).on i → (((base (deep 31)).gang 0 0).thread i).rstack ≠ []) :=
  ⟨readyIn (by decide +kernel), onAll (by decide +kernel), onAll (by decide +kernel)⟩

theorem wit_ReturnStackTraps : ReadyIn (base (deep 32)) [(5, fw 0 0 0 0 4)] ∧ ReadyIn (base (deep 0)) [(7, fw 0 0 0 0 0)] ∧
    CanTrap (its 5 (fw 0 0 0 0 4) (base (deep 32))) (base (deep 32)) ∧
    maskIf (its 5 (fw 0 0 0 0 4) (base (deep 32))).act (fun i => 32 ≤ (((base (deep 32)).gang 0 0).thread i).rstack.length) ≠ 0#32 ∧
    maskIf (its 7 (fw 0 0 0 0 0) (base (deep 0))).act (fun i => (((base (deep 0)).gang 0 0).thread i).rstack.isEmpty) ≠ 0#32 :=
  ⟨readyIn (by decide +kernel), readyIn (by decide +kernel), by unfold CanTrap; decide +kernel, by decide +kernel, by decide +kernel⟩

/-- A table of two entries with label 7 at 0x10008, whose entries lead to landing pads at 0x10020 and 0x10028, the second with a label. -/
def tablesOf (label : Nat) (g : Gang) : State :=
  let s := base g
  let img := putBytes [] (locHbm 0x10000)
    ([0x00C0001400000004, 2 + 7 * 2 ^ 32 + 0x0FF * 2 ^ 54, 3, 4, 0x0100000000000007, 0x0100000000000000 + label].flatMap (leBytes 8))
  { s with sched := { s.sched with launches := [(0, { launch1 with img := img })] } }
def tables (g : Gang) : State := tablesOf 7 g

theorem wit_JumpTables : ReadyIn (tables (regs [(1, 2, 1)] gang1)) [(3, fw 0 2 0 0 4), (6, fw 0 2 0 0 4)] ∧
    ((tables (regs [(1, 2, 1)] gang1)).fetch 0 0x10008).1 = .word (2 + 7 * 2 ^ 32 + 0x0FF * 2 ^ 54) ∧
    ((tables (regs [(1, 2, 1)] gang1)).fetchAll 0 [0x10010, 0x10018]).1 = ([3, 4], none) ∧
    ((tables (regs [(1, 2, 1)] gang1)).fetchAll 0 [0x10020, 0x10028]).1 = ([0x0100000000000007, 0x0100000000000007], none) ∧
    (∀ x ∈ [0x0100000000000007, 0x0100000000000007], x / 2 ^ 63 % 2 = 0 ∧ x / 2 ^ 54 % 2 ^ 8 = 0x04 ∧ x % 2 ^ 16 = 7) ∧
    (0x10000#64 + 8 * (fw 0 2 0 0 4).imm32.signExtend 64 = 0x10008#64) ∧
    (∀ i, (its 3 (fw 0 2 0 0 4) (tables (regs [(1, 2, 1)] gang1))).on i →
      ((its 3 (fw 0 2 0 0 4) (tables (regs [(1, 2, 1)] gang1))).srcA ((tables (regs [(1, 2, 1)] gang1)).gang 0 0) i).toNat < 2) :=
  ⟨readyIn (by decide +kernel), by decide +kernel, by decide +kernel, by decide +kernel, by decide +kernel, by decide +kernel, onAll (by decide +kernel)⟩

theorem wit_JumpTableTrap : ReadyIn (tables (regs [(1, 2, 2)] gang1)) [(3, fw 0 2 0 0 4)] ∧
    maskIf (its 3 (fw 0 2 0 0 4) (tables (regs [(1, 2, 2)] gang1))).act (fun i => 2 ≤
      ((its 3 (fw 0 2 0 0 4) (tables (regs [(1, 2, 2)] gang1))).srcA ((tables (regs [(1, 2, 2)] gang1)).gang 0 0) i).toNat) = 2#32 :=
  ⟨readyIn (by decide +kernel), by decide +kernel⟩

/-- The second pad has label 8: lane 1 misses. -/
theorem wit_LandingPads : ReadyIn (tablesOf 8 (regs [(1, 2, 1)] gang1)) [(3, fw 0 2 0 0 4), (6, fw 0 2 0 0 4)] ∧
    ((tablesOf 8 (regs [(1, 2, 1)] gang1)).fetch 0 0x10008).1 = .word (2 + 7 * 2 ^ 32 + 0x0FF * 2 ^ 54) ∧
    ((tablesOf 8 (regs [(1, 2, 1)] gang1)).fetchAll 0 [0x10010, 0x10018]).1 = ([3, 4], none) ∧
    ((tablesOf 8 (regs [(1, 2, 1)] gang1)).fetchAll 0 [0x10020, 0x10028]).1 = ([0x0100000000000007, 0x0100000000000008], none) ∧
    (∀ i, i < 32 → ((2#32).getLsbD i = true ↔
      ([(0, 0x0100000000000007), (1, 0x0100000000000008)] : List (Nat × Nat)).any (fun e => e.1 == i && e.2 % 2 ^ 16 != 7) = true)) ∧
    CanTrap (its 3 (fw 0 2 0 0 4) (tablesOf 8 (regs [(1, 2, 1)] gang1))) (tablesOf 8 (regs [(1, 2, 1)] gang1)) :=
  ⟨readyIn (by decide +kernel), by decide +kernel, by decide +kernel, by decide +kernel, by decide +kernel, by unfold CanTrap; decide +kernel⟩

/-- Lane 0 in issue, lane 1 in another split. -/
def split1 : Gang :=
  { gang1 with splits := [{ id := 0, lanes := 1, replay := none }, { id := 1, lanes := 2, replay := none }], nextId := 2 }

theorem wit_ExitAndJoin : ReadyIn (base split1) [(8, fw 0 0 0 0 0), (0xA, fw 0 7 0 0 0)] ∧
    (¬(its 8 (fw 0 0 0 0 0) (base split1)).on 1 ∧ (((base split1).gang 0 0).thread 1).st = .exec) ∧
    ((its 0xA (fw 0 7 0 0 0) (base split1)).act &&& ((base split1).gang 0 0).kGet 7).getLsbD 1 = false ∧
    (∀ i, i < 32 → (((base gang1).gang 0 0).thread i).st ≠ .exited → (its 8 (fw 0 0 0 0 0) (base gang1)).on i) :=
  ⟨readyIn (by decide +kernel), by unfold Issue.on; decide +kernel, by decide +kernel, by unfold Issue.on; decide +kernel⟩

theorem wit_ExitInTrap : ReadyIn (atHandler trapped1 0x20000) [(8, fw 0 0 0 0 0)] ∧ trapped1.inTrap = true ∧
    (base split1).gang 0 0 = split1 ∧ split1.inTrap = false := ⟨readyIn (by decide +kernel), by decide +kernel⟩

/-- Lane 1 waits at another JOIN on k7 than the one in issue. -/
def dead1 : Gang :=
  { split1 with thr := [(0, at1 0x10000), (1, { at1 0x10040 with st := .joinWait 7 1 })]
                splits := [{ id := 0, lanes := 1, replay := none }, { id := 1, lanes := 0, replay := none }] }

theorem wit_JoinDeadlock : ReadyIn (base dead1) [(0xA, fw 0 7 0 0 0)] ∧
    (let c := its 0xA (fw 0 7 0 0 0) (base dead1)
     let wait := fun (i : Nat) => if (c.act &&& dead1.kGet 7).getLsbD i then some (7, c.pc) else match (dead1.thread i).st with
       | .joinWait n _ => some (n.toNat, (dead1.thread i).pc)
       | .exited | .exec | .parked => none
     dead1.parks = [] ∧ (∀ i, i < 32 → dead1.live.getLsbD i = true → (wait i).isSome = true) ∧
     (∀ i, i < 32 → dead1.live.getLsbD i = true →
       ∃ j, j < 32 ∧ (dead1.kGet 7).getLsbD j = true ∧ dead1.live.getLsbD j = true ∧ wait j ≠ wait i) ∧
     dead1.live.getLsbD 0 = true ∧ wait 0 = some (7, 0x10000#64) ∧ wait 1 = some (7, 0x10040#64)) ∧
    CanTrap (its 0xA (fw 0 7 0 0 0) (base dead1)) (base dead1) :=
  ⟨readyIn (by decide +kernel), by decide +kernel, by unfold CanTrap; decide +kernel⟩

/-- Both threads wait at a JOIN on k7. -/
def joined : Gang :=
  { gang1 with splits := [], run := none, thr := both { at1 0x10000 with st := .joinWait 7 0 } }

theorem wit_JoinRelease : joined.joinWaiters 7 0x10000 ≠ 0#32 ∧
    (∀ i, i < 32 → (joined.kGet 7).getLsbD i = true → (joined.joinWaiters 7 0x10000).getLsbD i = true ∨ (joined.thread i).st = .exited) ∧
    ∀ q, q ≠ 0x10000#64 → joined.joinWaiters 7 q = 0#32 := by
  refine ⟨by decide +kernel, by decide +kernel, fun q hq => ?_⟩
  have h0 : joined.thread 0 = { at1 0x10000 with st := .joinWait 7 0 } := by decide +kernel
  have h1 : joined.thread 1 = { at1 0x10000 with st := .joinWait 7 0 } := by decide +kernel
  have h2 : ∀ i, i < 32 → 2 ≤ i → (joined.thread i).st = .exited := by decide +kernel
  have hn : ∀ i ∈ List.range 32, ¬ (match (joined.thread i).st with
      | .joinWait n _ => n.toNat == 7 && (joined.thread i).pc == q
      | .exited | .exec | .parked => false) = true := by
    intro i hi
    rcases i with _ | _ | i
    · rw [h0]; simpa [at1] using fun h => hq h.symm
    · rw [h1]; simpa [at1] using fun h => hq h.symm
    · rw [h2 _ (List.mem_range.1 hi) (by omega)]; simp
  unfold Gang.joinWaiters Gang.lanesWhere
  exact congrArg maskOf (List.filter_eq_nil_iff.2 hn)

/-! ## Witnesses: cross-lane words, member forms, pairs -/

theorem wit_CrossLane : ReadyIn (base gang1) [(0x90, fw 4 2 3 1 0), (0x91, fw 4 2 3 1 8), (0x91, fw 4 2 3 1 (8 + 48)), (0x95, fw 4 2 3 1 0),
      (0x92, fw 4 2 3 1 0), (0x96, fw 4 2 3 1 0), (0x97, fw 4 2 3 1 0), (0x93, fw 4 2 3 1 0), (0x94, fw 4 2 3 1 0),
      (0x93, fw 4 2 3 1 (14 * 8192)), (0x94, fw 4 2 3 1 (14 * 8192 + 2))] ∧
    Contributes (its 0x90 (fw 4 2 3 1 0) (base gang1)) (base gang1) 3#32 ∧
    Contributes (its 0x93 (fw 4 2 3 7 1) (base gang1)) (base gang1) 3#32 ∧ (its 0x93 (fw 4 2 3 1 0) (base gang1)).ty < 12 ∧
    12 ≤ (its 0x93 (fw 4 2 3 1 (14 * 8192)) (base gang1)).ty :=
  ⟨readyIn (by decide +kernel), by unfold Contributes; decide +kernel, by unfold Contributes; decide +kernel, by decide +kernel, by decide +kernel⟩

/-- Lanes 0 and 1 parked at a member reduction on k1. -/
def memberPark (id : Nat) (lanes : Mask) (i : Nat) : Park :=
  { id := id, lanes := lanes, todo := lanes, act := lanes, pc := 0x10000, lat := []
    why := .member 0x93 (fw 4 2 0 1 1) 0 [(i, { (default : Arrival) with act := true })], since := 0, left := none, ready := none }
def member1 : Gang :=
  { gang1 with splits := [], run := none, parks := [memberPark 5 1 0, memberPark 6 2 1], thr := both { at1 0x10000 with st := .parked } }

theorem wit_MemberForms : member1.parkOf 5 = some (memberPark 5 1 0) ∧
    (∀ i, i < 32 → (member1.kGet 1).getLsbD i = true →
      ((member1.memberParks 0x10000).foldl (fun m q => m ||| q.lanes) 0#32).getLsbD i = true ∨ (member1.thread i).st = .exited) ∧
    member1.fpctl = 0 := by decide +kernel

/-- The pair word 0x8201020014048700. -/
def pair1 : PairWord :=
  { h := false, a := { hop := 4, gp := 0, df := 4, src := 8, hmod := 0 }, b := { hop := 0x14, gp := 0, df := 9, src := 0x0e, hmod := 0 } }

theorem wit_PairWords : decodeNat 0x8201020014048700 = .ok (.pair pair1) ∧
    ∃ c fa fb, (base gang1).issue 0 { fw 0 0 0 0 0 with h := pair1.h } = some c ∧
      halfForm pair1.a.hop.toNat = some fa ∧ halfForm pair1.b.hop.toNat = some fb ∧
      fa.badSrc pair1.a false = false ∧ fb.badSrc pair1.b true = false ∧ pairBroken fa fb pair1 = false ∧
      (base gang1).regBad 0 0 (fa.regs pair1.a ++ fb.regs pair1.b) = none ∧ fa.op ∉ [0xA4, 0xA5] ∧ fb.op ∉ [0xA4, 0xA5] :=
  ⟨by decide +kernel, its 0 (fw 0 0 0 0 0) (base gang1), (halfForm 4).getD default, (halfForm 0x14).getD default, by decide +kernel⟩

/-! ## Witnesses: loads, stores, atomics -/

/-- Nothing is poisoned in the small state. -/
theorem clean (g : Gang) (x : Nat) : (base g).ms.poisoned x = false := by simp [MemSys.poisoned, base, State.install, State.reset, Tab.get]

/-- A record at 0x40000: 16 elements of one byte, every permission. -/
def rec1 : BitVec 256 := recOf (2 ^ 56 + 0x40000) 16 0 7

/-- Lane 1 brings index 1. -/
def withRec (d : BitVec 256) : Gang := regs [(1, 2, 1), (0, 3, 0x55), (1, 3, 0xAA)] { gang1 with d := [(1, d)] }

/-- What a word reaches through its record, with elements of sz bytes. -/
def planFor (op : Nat) (w : FullWord) (n : Need) (sz : Nat) (s : State) : Plan × State :=
  let c := its op w s
  let g := c.g s
  c.planRecord (g.dGet (w.sc.toNat % 16)) n sz (recLanes c.act (c.srcA g)) (c.release (c.warn (c.f.warns op w) s))

def planIn (op m : Nat) (d : BitVec 256) (n : Need) (sz : Nat) : Plan × State := planFor op (fw 4 2 3 1 m) n sz (base (withRec d))

theorem wit_ScratchLoads : ReadyIn (base gang1) [(0xA4, fw 4 2 3 1 1)] ∧
    maskIf (its 0xA4 (fw 4 2 3 1 1) (base gang1)).act (fun i => (base gang1).scratchAt 0 1
      (scratchAdv 1 ((its 0xA4 (fw 4 2 3 1 1) (base gang1)).srcA (gang1) i).toNat 0) 1 = .bad) = 0#32 ∧
    ∀ x, (base gang1).ms.poisoned x = false := ⟨readyIn (by decide +kernel), by decide +kernel, clean gang1⟩

/-- The last byte of a region of 64 KiB and the byte after it. -/
theorem wit_ScratchEdge : (base gang1).scratchAt 0 1 (scratchAdv 1 0xFFFF 0) 1 = .loc (locCst 0 0xFFFF) ∧
    (base gang1).scratchAt 0 1 (scratchAdv 1 0x10000 0) 1 = .bad ∧ (base gang1).scratchAt 0 1 (scratchAdv 1 0 (-1)) 1 = .bad := by
  decide +kernel

theorem wit_ScratchTrap : ReadyIn (base (regs [(1, 2, 0x10000)] gang1)) [(0xA4, fw 4 2 3 1 1)] ∧
    CanTrap (its 0xA4 (fw 4 2 3 1 1) (base (regs [(1, 2, 0x10000)] gang1))) (base (regs [(1, 2, 0x10000)] gang1)) :=
  ⟨readyIn (by decide +kernel), by unfold CanTrap; decide +kernel⟩

theorem wit_ConstantLoads : ReadyIn (base gang1) [(0xA6, fw 4 2 3 1 0)] := readyIn (by decide +kernel)

theorem wit_ScratchStores : ReadyIn (base gang1) [(0xA5, fw 4 2 3 1 1)] ∧ (its 0xA5 (fw 4 2 3 1 1) (base gang1)).mustWait (base gang1) = false :=
  ⟨readyIn (by decide +kernel), by decide +kernel⟩

theorem wit_RecordLoads : ReadyIn (base (withRec rec1)) [(0xA2, fw 4 2 3 1 0)] ∧
    (base (withRec rec1)).recTrap 0 rec1 .load 1 3#32 (recLanes 3#32 ((its 0xA2 (fw 4 2 3 1 0) (base (withRec rec1))).srcA (withRec rec1))) =
      none ∧
    (planIn 0xA2 0 rec1 .load 1).1.todo = 0#32 ∧ (planIn 0xA2 0 rec1 .load 1).1.stop = none ∧
    (planIn 0xA2 0 rec1 .load 1).1.go.map LanePlan.addr = [0x40000, 0x40001] ∧
    ((planIn 0xA2 0 rec1 .load 1).1.poison (planIn 0xA2 0 rec1 .load 1).2.ms).1 = 0#32 :=
  ⟨readyIn (by decide +kernel), by decide +kernel, by decide +kernel, by decide +kernel, by decide +kernel, by decide +kernel⟩

/-- A record of a window and one of host memory. -/
def recWin : BitVec 256 := recOf (0x10 * 2 ^ 56) 16 0 2
def recHost : BitVec 256 := recOf (2 * 2 ^ 56 + 0x40000) 16 0 2

theorem wit_RecordStores : ReadyIn (base (withRec rec1)) [(0xA3, fw 4 2 3 1 0)] ∧ ReadyIn (base (withRec recHost)) [(0xA3, fw 4 2 3 1 0)] ∧
    (planIn 0xA3 0 rec1 .store 1).1.todo = 0#32 ∧ (planIn 0xA3 0 rec1 .store 1).1.stop = none ∧
    (planIn 0xA3 0 recHost .store 1).1.todo = 0#32 ∧ (planIn 0xA3 0 recHost .store 1).1.stop = none ∧
    (its 0xA3 (fw 4 2 3 1 0) (base (withRec rec1))).mustWait (base (withRec rec1)) = false :=
  ⟨readyIn (by decide +kernel), readyIn (by decide +kernel), by decide +kernel, by decide +kernel, by decide +kernel, by decide +kernel,
   by decide +kernel⟩

theorem wit_AtomicStep : (∀ b ∈ [Byt.loc 80, .loc 88], ∃ x, b = .loc x) ∧ ({ lane := 0, addr := 0, bytes := [.loc 80, .loc 88] } : LanePlan).locs.Nodup :=
  ⟨by simp, by decide +kernel⟩

/-- A record of 64-bit elements. -/
def rec64 : BitVec 256 := recOf (2 ^ 56 + 0x40000) (16 + 6 * 2 ^ 40) 0 7

def wAtom : FullWord := fw 4 2 3 1 16384

theorem wit_Atomics : ReadyIn (base (withRec rec64)) [(0xA8, wAtom), (0xA9, wAtom), (0xAA, fw 4 2 3 1 98304)] ∧
    (planIn 0xA8 16384 rec64 .atomic 4).1.todo = 0#32 ∧ (planIn 0xA8 16384 rec64 .atomic 4).1.stop = none ∧
    ((planIn 0xA8 16384 rec64 .atomic 4).1.poison (planIn 0xA8 16384 rec64 .atomic 4).2.ms).1 = 0#32 ∧
    (base (withRec rec64)).recTrap 0 rec64 .atomic 4 3#32 (recLanes 3#32 ((its 0xA8 wAtom (base (withRec rec64))).srcA (withRec rec64))) = none ∧
    (its 0xA8 wAtom (base (withRec rec64))).mustWait (base (withRec rec64)) = false :=
  ⟨readyIn (by decide +kernel), by decide +kernel, by decide +kernel, by decide +kernel, by decide +kernel, by decide +kernel⟩

/-- Scratch address 0 of the core level. -/
theorem wit_ScratchAtomics : ReadyIn (base gang1) [(0xA8, fw 4 2 3 64 16384)] ∧
    ((base gang1).scrBad 0 1 4 [(0, scratchAdv 1 0 0), (1, scratchAdv 1 0 0)]).1 = 0#32 := ⟨readyIn (by decide +kernel), by decide +kernel⟩

/-- An MX record whose scales lie in d2: a .b8 record. -/
def recMx : BitVec 256 := recOf (2 ^ 56 + 0x40000) (64 + 0x12 * 2 ^ 40) 0 (7 + 2 ^ 31 + 2 * 2 ^ 16)
def withMx : Gang := { withRec recMx with d := [(1, recMx), (2, recOf (2 ^ 56 + 0x41000) 16 0 7)] }
def wMx : FullWord := fw 4 2 3 1 (18 * 8192)
def planMx : Plan × State := planFor 0xA8 wMx .atomic 1 (base withMx)
def scaleMx : Plan × State :=
  (its 0xA8 wMx (base withMx)).planRecord (recOf (2 ^ 56 + 0x41000) 16 0 7) .load 1 (((recLanes 3#32
    ((its 0xA8 wMx (base withMx)).srcA withMx)).filter (fun l => !RecLane.out recMx 1 l)).map (fun l => { l with el := l.el / 32 })) planMx.2

theorem wit_ScaledAtomics : ReadyIn (base withMx) [(0xA8, wMx), (0xA9, wMx)] ∧ withMx.scaleRec recMx = some (recOf (2 ^ 56 + 0x41000) 16 0 7) ∧
    planMx.1.todo = 0#32 ∧ planMx.1.stop = none ∧ (planMx.1.poison planMx.2.ms).1 = 0#32 ∧
    scaleMx.1.todo = 0#32 ∧ scaleMx.1.stop = none ∧ (scaleMx.1.poison scaleMx.2.ms).1 = 0#32 ∧ scaleMx.1.go.length = 2 :=
  ⟨readyIn (by decide +kernel), by decide +kernel⟩

/-- The record that dld reads: 32 bytes at 0x40000 hold zeros with KIND 1. -/
def withDld : State :=
  let s := base (withRec (recOf (2 ^ 56 + 0x40000) 64 0 1))
  { s with ms := { s.ms with mem := Memory.write s.ms.mem (locHbm 0x40007) 1#8 } }
def dldPlan : Plan × State :=
  let c := its 0xA0 (fw 4 2 3 1 0) withDld
  c.planRecord (recOf (2 ^ 56 + 0x40000) 64 0 1) .load 32 [{ lane := 0, idx := 0, row := 0, el := 0 }] withDld

theorem wit_Records : ReadyIn withDld [(0xA0, fw 4 2 3 1 0)] ∧ ReadyIn (base (withRec rec1)) [(0xA1, fw 4 2 1 0 0), (0xA1, fw 4 2 1 0 2)] ∧
    (dldPlan.1.go.length = 1 ∧ dldPlan.1.todo = 0#32 ∧ dldPlan.1.stop = none) ∧
    ((dldPlan.1.go.head?.map (fun q => (q.poison dldPlan.2.ms, dldPlan.2.loadLane 0 0 q))) = some (none, 2 ^ 56)) ∧
    recCheck (BitVec.ofNat 256 (2 ^ 56)) = none := ⟨readyIn (by decide +kernel), readyIn (by decide +kernel), by decide +kernel⟩

/-! ## Witnesses: fences, barriers, waits -/

theorem wit_Fences : ReadyIn (base gang1) [(0xC0, fw 4 2 3 1 0), (0xC0, fw 4 2 3 1 (6 * 1024)), (0xC1, fw 4 2 3 1 16), (0xC2, fw 4 2 3 1 0)] ∧
    (base gang1).owes (base gang1).fab.nextId ((base gang1).mine 0 0 1) = false ∧ (base gang1).prim.posted = [] :=
  ⟨readyIn (by decide +kernel), by decide +kernel, by decide +kernel⟩

/-- An object of one expected arrival at the base of the core region; v3 = 1 is a count, and v1 = 0 a timeout. -/
def withObj (x : Nat) : State :=
  let s := base (regs [(0, 3, 1), (1, 3, 1)] gang1)
  { s with ms := { s.ms with mem := (leBytes 16 x).zipIdx.foldl (fun m e => Memory.write m (locAdd (locCst 0 0) e.2) e.1) s.ms.mem } }

theorem wit_BarrierObjects : ReadyIn (withObj 0) ([0xC4, 0xC5, 0xC6, 0xC7, 0xC8].map (fun op => (op, fw 4 2 3 1 0))) ∧
    (∀ op ∈ [0xC4, 0xC5, 0xC6, 0xC7, 0xC8], ObjectAt (its op (fw 4 2 3 1 0) (withObj 0)) (withObj 0) (locCst 0 0)) ∧
    1 ≤ ((its 0xC4 (fw 4 2 3 1 0) (withObj 0)).srcB ((withObj 0).gang 0 0) 64 0).toNat ∧
    ((its 0xC7 (fw 4 2 3 1 0) (withObj 0)).rdC ((withObj 0).gang 0 0) 0) = 0#64 ∧ (withObj 0).objRead (locCst 0 0) / 2 ^ 64 % 2 ^ 32 ≠ 1 :=
  ⟨readyIn (by decide +kernel), by unfold ObjectAt; decide +kernel, by decide +kernel, by decide +kernel, by decide +kernel⟩

/-- Lane 0 alone in issue; v3 is the phase it waits for and v1 its timeout. -/
def waitAlone (v1 v3 : Nat) : State := base (regs [(0, 1, v1), (0, 3, v3)] split1)

theorem wit_BarrierWait : ReadyIn (waitAlone 5 0) [(0xC7, fw 4 2 3 1 0)] ∧
    ObjectAt (its 0xC7 (fw 4 2 3 1 0) (waitAlone 5 0)) (waitAlone 5 0) (locCst 0 0) ∧
    (waitAlone 5 0).objRead (locCst 0 0) = 0 ∧ (its 0xC7 (fw 4 2 3 1 0) (waitAlone 5 0)).rdC ((waitAlone 5 0).gang 0 0) 0 = 5#64 :=
  ⟨readyIn (by decide +kernel), by unfold ObjectAt; decide +kernel, by decide +kernel, by decide +kernel⟩

theorem wit_WiredBarrierArrival : ReadyIn (base split1) [(0xC3, fw 4 2 3 1 2048)] ∧
    hdrWbmask ((base split1).hdr 0) % 2 = 1 := ⟨readyIn (by decide +kernel), by decide +kernel⟩

/-- A gang parked at wired barrier 0 of the core scope, which its phase awaits. -/
def parkOn (why : Why) (left : Option Nat) (ready : Option Bool) : Gang :=
  { gang1 with splits := [], run := none, thr := both { at1 0x10000 with st := .parked }
               parks := [{ id := 5, lanes := 3, todo := 3, act := 3, pc := 0x10000, lat := [], why := why, since := 0, left := left, ready := ready }] }

def atBarrier : State :=
  let s := base (parkOn (.barw 0 2) none none)
  { s with sched := { s.sched with barriers := [{ (default : Barrier) with launch := 0, i := 0, scope := 2, parts := [(0, 0)], arrived := [(0, 0)] }] } }

theorem wit_WiredBarrierRelease : (atBarrier.sched.barriers[0]?.map (fun b => (atBarrier.barComplete b, b.arrived.filter b.parts.contains))) =
      some (true, [(0, 0)]) ∧ (atBarrier.wg 0).status = .running ∧
    ∃ q ∈ (atBarrier.gang 0 0).parks, q.why = .barw 0 2 ∧ q.lanes ≠ 0#32 := by decide +kernel

theorem wit_Waits : ReadyIn (base gang1) [(0xC9, fw 4 2 3 1 0), (0xCA, fw 4 2 3 1 16385)] ∧
    (∀ i, i < 32 → (its 0xCA (fw 4 2 3 1 16385) (base gang1)).act.getLsbD i = true →
      (base gang1).scratchAt 0 1 (((its 0xCA (fw 4 2 3 1 16385) (base gang1)).srcA gang1 i).toNat, true) 4 = .loc (locCst 0 0)) ∧
    (its 0xC9 (fw 4 2 3 1 0) (base gang1)).rdC gang1 0 = 0#64 := ⟨readyIn (by decide +kernel), by decide +kernel, by decide +kernel⟩

theorem wit_WaitsEnd : ((base (parkOn (.bwait 0 1 4) none (some true))).wg 0).status = .running ∧
    ((parkOn (.bwait 0 1 4) none (some true)).parkOf 5).map (fun p => (p.lanes, p.ready)) = some (3, some true) ∧
    ((parkOn (.wseq 2 0 0 6 4) none none).parkOf 5).map Park.lanes = some 3 ∧
    ((parkOn (.bwait 0 1 4) (some 0) none).parkOf 5).map (fun p => (p.ready, p.left)) = some (none, some 0) := by decide +kernel

theorem wit_WaitRechecks : ((parkOn (.wmem (fw 4 2 3 1 16385) [] []) none none).parkOf 5).map Park.act = some 3 ∧
    (((base gang1).wmemRead 0 0 (fw 4 2 3 1 16385) 2 3#32 (Tab.get []) (Tab.get [])).2 = [(0, true), (1, true)]) := by decide +kernel

/-! ## Witnesses: tile moves, tasks -/

/-- Lane 0's v2 to v5: a tile of one row of 8 bytes from scratch address 0 of the core level to 0x100. -/
def tile1 : Gang := regs [(0, 2, 0x100), (0, 3, 0), (0, 4, 2 ^ 34 + 2 ^ 32), (0, 5, 8 * 2 ^ 32 + 8),
  (1, 2, 0x100), (1, 3, 0), (1, 4, 2 ^ 34 + 2 ^ 32), (1, 5, 8 * 2 ^ 32 + 8)] gang1
def tileDesc : List Word := [0x100, 0, word (2 ^ 34 + 2 ^ 32), word (8 * 2 ^ 32 + 8)]

theorem wit_TileMoves : ReadyIn (base tile1) [(0xA7, fw 4 2 0 0 0)] ∧
    (List.range 4).map (fun j => tile1.vGet (its 0xA7 (fw 4 2 0 0 0) (base tile1)).low (2 + j)) = tileDesc ∧
    (tileOf tileDesc).shapeBad = false ∧
    endBad ((base tile1).tileEnd 0 1 8 1 (tileOf tileDesc).dstRow) = none ∧ endBad ((base tile1).tileEnd 0 1 8 1 (tileOf tileDesc).srcRow) = none ∧
    overlapAt 8 ((base tile1).tileEnd 0 1 8 1 (tileOf tileDesc).dstRow) ((base tile1).tileEnd 0 1 8 1 (tileOf tileDesc).srcRow) = none :=
  ⟨readyIn (by decide +kernel), by decide +kernel, by decide +kernel, by decide +kernel, by decide +kernel, by decide +kernel⟩

/-- The workgroup's units changed. -/
def withWg (f : Workgroup → Workgroup) (s : State) : State := s.modWg 0 f

/-- The tile move of that descriptor in flight. -/
def tileIn (mv : Xfer) : TileMove := { id := 3, desc := tileDesc, cell := 31, mv := mv }

theorem wit_TileComplete : ((withWg (fun r => { r with moves := [tileIn {}] }) (base gang1)).wg 0).tileOn 3 = some (tileIn {}) ∧
    (tileIn {}).mv.writes = [] := by decide +kernel

/-- Tasks: operation, rows less 1, columns less 1, K; operands and data at the core level; signed 8-bit operands. -/
def taskR (op m n k : Nat) : BitVec 512 :=
  taskOf [op * 2 ^ 60 + 4 * 2 ^ 56 + 4 * 2 ^ 52 + 4 * 2 ^ 41, m * 2 ^ 57 + n * 2 ^ 50 + k * 2 ^ 37, 2 ^ 62, 2 ^ 62 + 0x1000, 0, 0, 2 ^ 62, 0]
def task1 (op m n k : Nat) (begun done : Bool) : Task := { record := taskR op m n k, begun := begun, kstep := 0, done := done }
def tasks (busy : Option Nat) (l : List Task) : State :=
  let s := withWg (fun r => { r with chain := l }) (base gang1)
  { s with eng := [(0, { busy := busy, lastChain := 0, lastIris := none })] }

/-- Lane 0's v2 is word 0 of an MWAIT record; v3 = 1 record. -/
def menqG : Gang := regs [(0, 2, 4 * 2 ^ 60), (1, 2, 4 * 2 ^ 60)] gang1
def tailS : State :=
  let s := base (regs [(0, 3, 1), (1, 3, 1)] gang1)
  { s with ms := { s.ms with mem := Memory.write s.ms.mem (locCst 0 7) 0x40#8 } }

theorem wit_TaskSubmission : ReadyIn (base menqG) [(0xD0, fw 0 2 0 0 0)] ∧ ReadyIn tailS [(0xD1, fw 0 2 3 0 1)] ∧
    (base menqG).taskCheck 0 (taskOf ((List.range 8).map (fun j => (menqG.vGet 0 (2 + j)).toNat))) = none ∧ ((base menqG).wg 0).chain = [] ∧
    (match tailS.readTail 0 0 0 1 1 (0, true) [] false with | (.ok l, _) => l == [taskOf [4 * 2 ^ 60]] | _ => false) = true :=
  ⟨readyIn (by decide +kernel), readyIn (by decide +kernel), by decide +kernel, by decide +kernel, by decide +kernel⟩

theorem wit_TasksServed : ((tasks none [task1 4 0 0 0 false false]).engine 0).busy = none ∧ (tasks none [task1 4 0 0 0 false false]).nextChain 0 = some 0 ∧
    tOpc (taskR 1 127 127 0) = 1 ∧ tM (taskR 1 127 127 0) = 128 ∧ tOpc (taskR 2 0 0 0) = 2 ∧ tOpc (taskR 3 0 0 0) = 3 ∧ tOpc (taskR 4 0 0 0) = 4 ∧
    ((tasks (some 0) [task1 1 0 0 0 true false]).engine 0).busy = some 0 ∧ ((tasks (some 0) [task1 1 0 0 0 true false]).wg 0).chain = [task1 1 0 0 0 true false] := by
  decide +kernel

theorem wit_MatrixStep : let s := tasks (some 0) [task1 0 0 0 8 true false]
    (s.engine 0).busy = some 0 ∧ tOpc (taskR 0 0 0 8) = 0 ∧ tSteps (taskR 0 0 0 8) = 1 ∧ tAtype (taskR 0 0 0 8) = 4 ∧ tSmode (taskR 0 0 0 8) = 0 ∧
    tAmask (taskR 0 0 0 8) = 0 ∧ tBmask (taskR 0 0 0 8) = 0 ∧
    (s.fetchRows 0 (tAlvl (taskR 0 0 0 8)) (tAaddr (taskR 0 0 0 8)) 1 1 0 8).2 = false ∧
    (s.fetchRows 0 (tBlvl (taskR 0 0 0 8)) (tBaddr (taskR 0 0 0 8)) 1 1 0 8).2 = false := by decide +kernel

theorem wit_DahliaResets : ((tasks none [task1 4 0 0 0 false false]).wg 0).status = .running ∧ clusterOf ((tasks none [task1 4 0 0 0 false false]).wg 0).core = 0 ∧
    ((tasks none [task1 4 0 0 0 false false]).wg 0).chain ≠ [] := by decide +kernel

/-! ## Witnesses: claims, flows -/

/-- d2 and d3: device records of 64 bytes; lane 0's v1 is the length 64 of a CLAIM or FLOW. -/
def recC (a : Nat) : BitVec 256 := recOf (2 ^ 56 + a) 64 0 3
def claimG (g : Gang) : Gang := regs [(0, 1, 64), (1, 1, 64)] { g with d := [(2, recC 0x40000), (3, recC 0x41000)] }
def slotC (st : SlotState) : Slot :=
  { (default : Slot) with st := st, kind := 0, len := 64, ds := recC 0x40000, dd := recC 0x41000 }
def claimS (g : Gang) (st : SlotState) : State := withWg (fun r => { r with slots := [(4, slotC st), (2, slotC st)] }) (base (claimG g))

theorem wit_ClaimWords : ReadyIn (claimS split1 .free) [(0xD2, fw 4 2 3 1 0), (0xD4, fw 4 2 3 1 0)] ∧
    ReadyIn (claimS gang1 .live) [(0xD3, fw 4 2 3 1 0x20), (0xD3, fw 4 2 3 1 31), (0xD5, fw 4 2 3 1 0), (0xD4, fw 4 0 0 0 0)] ∧
    hdrClaims ((claimS split1 .free).hdr 0) = 8 ∧
    (claimS split1 .free).claimBad 0 ((its 0xD2 (fw 4 2 3 1 0) (claimS split1 .free)).newSlot (claimG split1)).1 = false ∧
    (claimS split1 .free).linkBad 0 ((its 0xD2 (fw 4 2 3 1 0) (claimS split1 .free)).newSlot (claimG split1)).1 = none ∧
    ((its 0xD2 (fw 4 2 3 1 0) (claimS split1 .free)).newSlot (claimG split1)).1.kindTrap
      ((its 0xD2 (fw 4 2 3 1 0) (claimS split1 .free)).newSlot (claimG split1)).2.1
      ((its 0xD2 (fw 4 2 3 1 0) (claimS split1 .free)).newSlot (claimG split1)).2.2 = none ∧
    (Tab.get ((claimS gang1 .live).wg 0).slots 2).align ∣ 64 ∧ ((claimS gang1 .live).wg 0).flows = [] :=
  ⟨readyIn (by decide +kernel), readyIn (by decide +kernel), by decide +kernel, by decide +kernel, by decide +kernel, by decide +kernel,
   by decide +kernel, by decide +kernel⟩

/-- A gang whose CLAIM of slot 4 walks. -/
def walking (x : Slot) : State := withWg (fun r => { r with slots := [(4, x)] }) (base (parkOn (.walk 4 none) none none))
def walkPark : Park :=
  { id := 5, lanes := 3, todo := 3, act := 3, pc := 0x10000, lat := [], why := .walk 4 none, since := 0, left := none, ready := none }

theorem wit_ClaimWalks : (walking (slotC .walking)).claimant 0 4 = some (0, walkPark) ∧
    (walking (slotC .walking)).expandBad 0 (slotC .walking) = none ∧ (slotC .walking).sides.findSome? ((walking (slotC .walking)).sideBad 0) = none ∧
    (match ((walking (slotC .walking)).walkPages 0 4).1 with | .go => true | _ => false) = true ∧
    (((walking (slotC .walking)).walkPages 0 4).2.gang 0 0 = (walking (slotC .walking)).gang 0 0) := by decide +kernel

/-- The destination of a claim lies beyond its region. -/
def farSlot : Slot := { slotC .walking with dd := recOf (0x20 * 2 ^ 56 + 0xFFFF) 64 0 3 }

theorem wit_ClaimWalkTraps : (walking farSlot).claimant 0 4 = some (0, walkPark) ∧
    farSlot.sides.findSome? ((walking farSlot).sideBad 0) = some (3, 0x10000) ∧ ((walking farSlot).gang 0 0).inTrap = false ∧
    codeAddr ((walking farSlot).gang 0 0).tvec ≠ 0#64 := by decide +kernel

/-- A window that admits every sender. -/
def rx1 : State := { base gang1 with fab := { (base gang1).fab with rxw := [(7, recOf (2 ^ 63 + 0xFFF) 0x40000 0 0)] } }
def hand1 (release : Bool) : Handshake := { pkg := 3, sctx := 9, rwin := 7, woff := 0, len := 4096, release := release, ask := 0 }

theorem wit_Handshakes : rx1.handCode (hand1 false) = 0 ∧ rx1.fab.credits.length < 4096 ∧ (hand1 true).release = true ∧
    (walking { slotC .walking with kind := 4, hands := [{ pkg := 3, asked := true, granted := false }] }).claimant 0 4 = some (0, walkPark) ∧
    (walking { slotC .walking with kind := 4, staged := true, hands := [{ pkg := 3, asked := true, granted := false }] }).claimant 0 4 =
      some (0, walkPark) := by decide +kernel

def flow1 (started : Bool) : Machine.Flow := { (default : Machine.Flow) with id := 5, slot := 2, off := 0, len := 64, cell := some 3, started := started }
def flows (x : Slot) (started : Bool) : State := withWg (fun r => { r with slots := [(2, x)], flows := [flow1 started] }) (base gang1)

theorem wit_Flows : ((flows (slotC .live) false).wg 0).nextFlow = some (flow1 false) ∧ ((flows (slotC .live) false).wg 0).hasRegion = true ∧
    ((flows (slotC .live) true).wg 0).flows.find? (fun y => y.id == 5 && y.started) = some (flow1 true) ∧
    (flows (slotC .live) true).flowOut 0 5 = false ∧
    (flows { slotC .live with kind := 4 } true).destLost { slotC .live with kind := 4 } = false ∧
    ({ flows { slotC .live with kind := 4 } true with prim := { (base gang1).prim with pkg := 9 } } : State).destLost { slotC .live with kind := 4 } = true := by
  decide +kernel

/-! ## Witnesses: windows, interrupts, launches, system registers -/

theorem wit_WindowFences : ReadyIn (base gang1) [(0xE0, fw 4 2 3 1 5120), (0xE0, fw 4 2 3 1 5121)] ∧
    (base gang1).fab.outst = [] := ⟨readyIn (by decide +kernel), by decide +kernel⟩

def recPull : BitVec 256 := recOf (0x10 * 2 ^ 56) 64 0 2

/-- Window 0 in the transmit window table, a page of it cached, and a record of it in d1. -/
def pullS : State :=
  let s := base { gang1 with d := [(1, recPull)] }
  { s with
    vifs := Tab.set s.vifs 0 { s.vif 0 with txw := [(0, recOf (2 ^ 63 + 0xFFF) 0 0 0)] }
    ms := { s.ms with tlb := [{ (default : TlbRow) with frame := 0xFE * 2 ^ 36, rd := true, wr := true, hrd := true, hwr := true, dirty := true }] }
    aux := { s.aux with hits := [true, true] } }
def pullPlan : Plan × State :=
  let c := its 0xE1 (fw 4 2 3 1 0) pullS
  let u := c.uniform (fun i => c.srcA (c.g pullS) i :: (List.range 8).map (fun j => (c.g pullS).vGet i (3 + j)))
    (c.warn (c.f.warns 0xE1 (fw 4 2 3 1 0)) pullS)
  (c.release u).planVirtual (c.key pullS) 0x10 .store [(c.low, 0)] 64

theorem wit_Pulls : ReadyIn pullS [(0xE1, fw 4 2 3 1 0)] ∧ recPerm recPull .store = none ∧ recKind recPull = 0x10 ∧
    RecLane.out recPull 64 { lane := 0, idx := 0, row := 0, el := 0 } = false ∧
    (its 0xE1 (fw 4 2 3 1 0) pullS).mustWait pullS = false ∧ pullPlan.1.go.map LanePlan.addr = [0] :=
  ⟨readyIn (by decide +kernel), by decide +kernel, by decide +kernel, by decide +kernel, by decide +kernel, by decide +kernel⟩

/-- Context 0 whose sender table at 0x200000 lets every sender raise vector 0, and whose vector 0 has its handler at 0x30000. -/
def uiCtx (pend : Word) : Ctx :=
  { Ctx.fresh with
    reg := [(0x300, 0x1001#64), (0x30C, 0x200000#64), (0x30D, 0x201000#64)], uimask := 1, uipend := pend, uihnd := 0, count := [(0, 1)],
    payload := [(0, 0x77#64)], pins := [(0x30C * 2 ^ 45 + 0x200, 0x201), (0x30D * 2 ^ 45 + 0x201, 0x202)] }
def uiS (g : Gang) (pend : Word) : State :=
  let s := base g
  { s with
    ctxs := [(0, uiCtx pend)]
    ms := { s.ms with mem := Memory.write (Memory.write s.ms.mem (locHbm 0x200008) 1#8) (locHbm 0x201002) 3#8 } }

/-- What a sender may raise depends on the contexts and memory alone. -/
theorem permits_same {s u : State} (h1 : u.ctxs = s.ctxs) (h2 : u.ms.mem = s.ms.mem) (key : Nat) (x : BitVec 32) (v : Nat) :
    u.uiPermits key x v = s.uiPermits key x v := by
  simp [State.uiPermits, State.creg, State.isPinned, State.pinned, State.ctx, State.physRead, MemSys.latest, h1, h2]

theorem wit_InterruptsPend : ReadyIn (uiS gang1 0) [(0xE2, fw 4 2 3 1 0), (0xE5, fw 4 2 3 1 0)] ∧ idHost 0 = false ∧
    (uiS gang1 0).idSelf 0 = true ∧ ((uiS gang1 0).ctx 0).present = true ∧ (uiS gang1 0).uiPermits 0 0 0 = true ∧
    (uiS gang1 0).uiPermits 0 0 1 = false ∧
    ∀ u : State, u.ctxs = (uiS gang1 0).ctxs → u.ms.mem = (uiS gang1 0).ms.mem →
      u.uiPermits 0 ((uiS gang1 0).ctxid 0) 0 = true :=
  ⟨readyIn (by decide +kernel), by decide +kernel, by decide +kernel, by decide +kernel, by decide +kernel, by decide +kernel,
   fun u h1 h2 => by rw [permits_same h1 h2]; decide +kernel⟩

/-- A gang in a diversion, and one between two runs. -/
def diverted : Gang := { gang1 with inUi := true, saved := some saved1 }
def idle1 : Gang := { gang1 with run := none }

theorem wit_InterruptsDeliver : ReadyIn (uiS gang1 1) [(0xE3, fw 4 2 3 1 0)] ∧ (uiS gang1 1).isHandler 0 0 0 = true ∧
    ((uiS gang1 1).ctx 0).deliverable = some 0 ∧
    ((uiS idle1 1).handlerGang 0 = some (0, 0) ∧ (uiS idle1 1).uiHandler 0 0 = 0x30000#64 ∧
      ((uiS idle1 1).gang 0 0).live = 3#32 ∧ ((uiS idle1 1).gang 0 0).uiPark = none) ∧
    ReadyIn (uiS diverted 0) [(0xE4, fw 4 2 3 1 0)] ∧ ReadyIn (base gang1) [(0xE4, fw 4 2 3 1 0)] ∧
    CanTrap (its 0xE4 (fw 4 2 3 1 0) (base gang1)) (base gang1) :=
  ⟨readyIn (by decide +kernel), by decide +kernel, by decide +kernel, by decide +kernel, readyIn (by decide +kernel), readyIn (by decide +kernel),
   by unfold CanTrap; decide +kernel⟩

/-- A header at 0x40000. -/
def launchS (h : BitVec 512) : State :=
  let s := base (regs [(0, 2, 0x40000), (1, 2, 0x40000)] gang1)
  { s with ms := { s.ms with mem := putBytes s.ms.mem (locHbm 0x40000) (leBytes 64 h.toNat) } }
def launchPlan (h : BitVec 512) : Plan × State :=
  let s := launchS h
  let c := its 0xF3 (fw 4 2 3 1 0) s
  ((c.uniform (fun i => [c.srcA (c.g s) i, c.srcB (c.g s) 64 i]) (c.warn (c.f.warns 0xF3 (fw 4 2 3 1 0)) s)).releaseAll 0 0 c.act 5).planVirtual
    (c.key s) 1 .load [(c.low, 0x40000)] 64
def headerIn (h : BitVec 512) : Option (BitVec 512) :=
  (launchPlan h).1.go.head?.map (fun q => BitVec.ofNat 512 ((launchPlan h).2.loadLane 0 0 q))
/-- A header without arguments, and one with a block of 8 bytes. -/
def hdr2 : BitVec 512 := BitVec.ofNat 512 (7 * 2 ^ 36 + 5 + 2 ^ 64 + 0x10000 * 2 ^ 256)
def hdr3 : BitVec 512 := BitVec.ofNat 512 (hdr2.toNat + 0x20000 * 2 ^ 384 + 8 * 2 ^ 448)

theorem wit_Launches : ReadyIn (launchS 0) [(0xF3, fw 4 2 3 1 0)] ∧ ReadyIn (launchS hdr2) [(0xF3, fw 4 2 3 1 0)] ∧
    headerIn 0 = some 0 ∧ hdrCheck 0 = 1 ∧ headerIn hdr2 = some hdr2 ∧ hdrCheck hdr2 = 0 ∧ hdrArglen hdr2 = 0 ∧
    headerIn hdr3 = some hdr3 ∧ hdrCheck hdr3 = 0 ∧ hdrArglen hdr3 = 8 ∧
    (((launchPlan hdr3).2.planVirtual 0 1 .load [(0, hdrArgs hdr3)] 8).1.go.length = 1) :=
  ⟨readyIn (by decide +kernel), readyIn (by decide +kernel), by decide +kernel, by decide +kernel, by decide +kernel, by decide +kernel,
   by decide +kernel, by decide +kernel, by decide +kernel, by decide +kernel, by decide +kernel⟩

/-- Context 0 at a level. -/
def privS (p : BitVec 2) : State := { base gang1 with ctxs := [(0, { Ctx.fresh with reg := [(0x300, 0x1001#64)], priv := p })] }

theorem wit_SystemRegisters : ReadyIn (privS 1) [(0xF4, fw 4 2 0 0 0x300), (0xF5, fw 0 2 0 0 0x300), (0xF5, fw 0 2 0 0 0x30F)] ∧
    sregLevel 0x300 = 1 ∧ ((privS 1).ctx 0).priv = 1 ∧ sregWriteLevel 0x30F = 2 ∧ sregRO 0x300 = false ∧
    ReadyIn (privS 0) [(0xF4, fw 4 2 0 0 0x300), (0xF5, fw 0 2 0 0 0x300)] ∧ CanTrap (its 0xF4 (fw 4 2 0 0 0x300) (privS 0)) (privS 0) :=
  ⟨readyIn (by decide +kernel), by decide +kernel, by decide +kernel, by decide +kernel, by decide +kernel, readyIn (by decide +kernel),
   by unfold CanTrap; decide +kernel⟩

theorem wit_TranslationInvalidates : ReadyIn (privS 1) [(0xF6, fw 0 2 3 1 0)] ∧ ReadyIn (privS 0) [(0xF6, fw 0 2 3 1 0)] ∧
    ((privS 1).lapsePages (tlbExt 0 0 0 0 0) 1).1 = [] ∧ CanTrap (its 0xF6 (fw 0 2 3 1 0) (privS 0)) (privS 0) :=
  ⟨readyIn (by decide +kernel), readyIn (by decide +kernel), by decide +kernel, by unfold CanTrap; decide +kernel⟩

/-! ## Witnesses: reports, parks, storage -/

/-- A report of a page fault of the parked split, with token 7 in the guest queue of context 0. -/
def report1 : Report :=
  { (default : Report) with num := 4, token := 7, queue := .guest 0, written := true, counted := true, wg := 0, gang := 0, park := 5 }
def faulted : State :=
  let s := base (parkOn (.fault 1 false true 0x40000 4) none none)
  { s with sched := { s.sched with reports := [report1] } }

theorem wit_FaultAnswers : faulted.sched.reports.find? (fun r => r.written && r.token == 7 && r.queue == .guest 0) = some report1 ∧
    faulted.sched.reports.find? (fun r => r.written && r.token == 8 && r.queue == .guest 0) = none ∧ report1.isExit = false ∧
    (faulted.wg 0).status = .running ∧ ((faulted.gang 0 0).parkOf 5).map (fun p => (p.why, p.lanes)) = some (.fault 1 false true 0x40000 4, 3) ∧
    (faulted.gang 0 0).inTrap = false ∧ codeAddr (faulted.gang 0 0).tvec ≠ 0#64 := by decide +kernel

theorem wit_ParksClear : (∀ y ∈ [Why.acks 9, .chainFull [taskOf [4 * 2 ^ 60]], .flowFull, .queueFull 3 hdr1 [1#8] (some 2) 4 false, .fence 6 9, .rfence 2 9 4 false, .persist 4 false],
      ((base (parkOn y none none)).wg 0).status = .running ∧
      (((base (parkOn y none none)).gang 0 0).parkOf 5).map (fun p => (p.why, p.lanes)) = some (y, 3)) ∧
    (base gang1).fab.outst = [] ∧ ((base gang1).wg 0).chain = [] ∧ ((base gang1).wg 0).flows = [] ∧
    Tab.get ((base gang1).vif 0).queues 3 = [] ∧ (base gang1).prim.posted = [] := by decide +kernel

def dirtyPark : Park :=
  { id := 5, lanes := 3, todo := 3, act := 3, pc := 0x10000, lat := [], why := .dirtyFull 0x40000, since := 0, left := none, ready := none }

theorem wit_DirtyTail : (base gang1).parksNow = [] ∧
    (base (parkOn (.dirtyFull 0x40000) none none)).parksNow.filter (fun e =>
      (base (parkOn (.dirtyFull 0x40000) none none)).waitsDirty 0 e.1 e.2.2) = [(0, 0, dirtyPark)] ∧
    word (4 % 2 ^ 32) ≠ (base gang1).vreg 0 0x204 := by decide +kernel

theorem wit_StorageErrors : ((base gang1).wg 0).status = .running := by decide +kernel

/-- Two posted stores of lane 0 and one of lane 1. -/
def posted1 (i lane : Nat) (pers : Bool) : Posted :=
  { id := i, wg := 0, gang := 0, lane := lane, addr := 0x1000 * i, bytes := [1#8, 2#8], pers := pers, ctx := 0, org := default, port := 0 }
def postS : State := { base gang1 with prim := { (base gang1).prim with posted := [posted1 1 0 true, posted1 2 0 false, posted1 3 1 true] } }

theorem wit_PostedStores : postS.prim.posted.find? (fun p => p.id == 3) = some (posted1 3 1 true) ∧
    (∀ q ∈ postS.prim.posted.takeWhile (fun q => q.id != 3), ¬(q.flow = none ∧ q.wg = 0 ∧ q.gang = 0 ∧ q.lane = 1)) ∧
    (postS.wg 0).hasRegion = true := by decide +kernel

/-! ## Witnesses: placement, pre-emption, contexts -/

/-- Launch 1 waits in queue 0 of interface 0; a bind record binds it to the first core of the first cluster of die 0. -/
def bind1 : BitVec 128 := BitVec.ofNat 128 ((2 ^ 60 + 2 ^ 48 + 3 * 2 ^ 40) * 2 ^ 64 + 2 ^ 63 + 15 * 2 ^ 49)
def queued (h : BitVec 512) (more : Sched → Sched) : State :=
  let s := base gang1
  { s with
    vifs := Tab.set s.vifs 0 { s.vif 0 with queues := [(0, [1])] }
    sched := more { s.sched with launches := [(0, launch1), (1, { (default : Launch) with hdr := h })], nextLaunch := 2, binds := [(0, bind1)] } }

/-- A header that no core admits: 33 gangs. -/
def hdrBig : BitVec 512 := BitVec.ofNat 512 (hdr2.toNat + 32 * 2 ^ 96)

theorem wit_Placements : (queued hdr2 id).nextHead = some 1 ∧ (queued hdr2 id).backFirst 0 = false ∧ hdrCb hdr2 = false ∧
    ((queued hdr2 id).tries 1).find? (fun c => (queued hdr2 id).admits c hdr2) = some 0 ∧
    ((queued hdrBig id).tries 1).find? (fun c => (queued hdrBig id).admits c hdrBig) = none ∧ (queued hdrBig id).boundClusters 1 = [0] := by
  decide +kernel

def pending1 (l seq n lb : Nat) : Pending := { launch := l, ords := List.range n, prio := 0, lbthr := lb, seq := seq }
def pendS : State := queued hdr2 (fun x => { x with pending := [(0, [pending1 1 0 1 0])] })

theorem wit_PendingAdmits : Tab.get pendS.sched.pending 0 = [pending1 1 0 1 0] ∧ pendS.backFirst 0 = false ∧
    ((pendS.tries 1).filter (fun c => clusterOf c == 0)).find? (fun c => pendS.admits c hdr2) = some 0 := by decide +kernel

/-- Cluster 1 holds three workgroups of launch 1, cluster 0 none. -/
def balanceS : State :=
  queued hdr2 (fun x => { x with pending := [(1, [pending1 1 0 2 1, pending1 1 1 1 1])], binds := [(0, bind1 ||| BitVec.ofNat 128 (3 * 2 ^ 112))] })

theorem wit_LoadBalance : depth (Tab.get balanceS.sched.pending 0) = 0 ∧ depth (Tab.get balanceS.sched.pending 1) = 3 ∧
    newest (Tab.get balanceS.sched.pending 1) = some (pending1 1 1 1 1) ∧ 0 ∈ balanceS.boundClusters 1 := by decide +kernel

/-- Every thread has exited. -/
def exited1 : Gang := { gang1 with splits := [], run := none, thr := both { at1 0x10000 with st := .exited } }
def statusS (st : WgStatus) : State := withWg (fun r => { r with status := st }) (queued hdr2 id)

theorem wit_WorkgroupsEnd : ((base exited1).wg 0).isDone = true ∧ ((statusS .relaunch).wg 0).status = .relaunch ∧ hdrCb hdr1 = false ∧
    ((statusS .relaunch).tries 0).find? (fun c => (statusS .relaunch).admits c hdr1) = some 0 := by decide +kernel

/-- The save area of context 0: 320 KiB at 0x300000, its pages pinned. -/
def saveS : State :=
  let s := withWg (fun r => { r with status := .saving, gangs := [(0, idle1)], slots := [(1, slotC .live)] }) (base idle1)
  { s with
    ctxs := [(0, { Ctx.fresh with
      reg := [(0x300, 0x1001#64), (0x30E, 0x300000#64), (0x30F, 5#64)]
      pins := (List.range 80).map (fun p => (0x30E * 2 ^ 45 + 0x300 + p, 0x301 + p)) })] }

theorem wit_PreemptSave : (saveS.wg 0).status = .saving ∧ (saveS.wg 0).gangs.all (fun e => e.2.run.isNone) = true ∧
    (saveS.lapseAll 0).saveReady 0 = true ∧ (saveS.lapseAll 0).saveFits 0 = true ∧ (Tab.get (saveS.wg 0).slots 1).st = .live := by
  decide +kernel

theorem wit_Preemptions : (base gang1).vacated 0 [0] = [0] ∧ ((statusS .saved).wg 0).status = .saved ∧
    ((statusS .saved).tries 0).find? (fun c => (statusS .saved).admits c hdr1) = some 0 ∧ ((statusS .saved).gang 0 0).parks = [] := by
  decide +kernel

theorem wit_Contexts : ((base gang1).ctx (1 * 1024 + 5)).present = false ∧ ((base gang1).ctx (63 * 1024 + 1022)).present = false ∧
    ((base gang1).ctx 0).present = true ∧ ((base gang1).wg 0).pending = true ∧ (base gang1).ctxKey 0 = 0 := by decide +kernel

/-! ## Witnesses: the fabric -/

/-- Package 3 stands behind slot 0 of port 2. -/
def linkS (l : Machine.Link) : State :=
  let s := base gang1
  { s with fab := { s.fab with
      ports := Tab.set s.fab.ports 2 { Port.reset with calendar := [(0, 0x8003#16), (31, 0x8003#16)], room := 300 }
      links := [(3, l)] } }
def link1 : Machine.Link := { (default : Machine.Link) with expect := 5, kept := [mkFlit 7 0 false 0 0 true [1#8], mkFlit 8 0 false 0 0 true [2#8]] }

/-- A flit with LSEQ 5, LACK 7 and its CRC. -/
def flit5 : BitVec 768 := mkFlit 5 7 true 0 0 false [9#8]

set_option maxRecDepth 20000 in
theorem wit_LinkFlits : (linkS link1).facing 2 = some 3 ∧ ((linkS link1).openSlot 2).facing 2 = some 3 ∧
    (flitOk flit5 = true ∧ flitType flit5 < 2 ∧ flitLseq flit5 = link1.expect) ∧
    flitOk (flit5 ^^^ 1) = false ∧ covered link1.lack 6 = false ∧
    (List.range 16).find? (fun p => (linkS link1).facing p == some 3) = some 2 ∧ 0 < ((linkS link1).port 2).room := by decide +kernel

/-- A write packet from package 3 to this package. -/
def packet1 (dpkg : Nat) (sent : Bool) : Packet :=
  { hdr := BitVec.ofNat 576 (2 ^ 58 + dpkg * 2 ^ 36 + 3 * 2 ^ 20), data := [1#8], tag := [], ents := [], sent := sent, since := 0 }
def packS : State := { linkS link1 with cycle := 18720, fab := { (linkS link1).fab with held := [packet1 0 false], sent := [packet1 3 true] } }

theorem wit_Packets : packS.fab.held[0]? = some (packet1 0 false) ∧ counterBad (Tab.get packS.fab.seen 3) (pkNctr (packet1 0 false).hdr) = false ∧
    pkKind (packet1 0 false).hdr = 1 ∧ pkRop (packet1 0 false).hdr < 5 ∧ packS.fab.sent[0]? = some (packet1 3 true) ∧
    packS.reachable (pkDpod (packet1 3 true).hdr) (pkDpkg (packet1 3 true).hdr) = true := by decide +kernel

/-- Port 2 with its configuration and status. -/
def portS (cfg stat : Word) : State :=
  let s := base gang1
  { s with fab := { s.fab with ports := Tab.set s.fab.ports 2 { Port.reset with cfg := cfg, stat := stat } } }

theorem wit_Light : ((1#16) &&& BitVec.ofNat 16 (statTxlit ((portS 0 0x0000FFFFFFFF0000).port 2).stat) ≠ 0) ∧
    ((1#16) &&& BitVec.ofNat 16 (statLost ((portS 0 0x0001FFFEFFFF0000).port 2).stat) ≠ 0) ∧
    (statState ((portS 0x10011 0x0000FFFFFFFF0000).port 2).stat = 0 ∧ cfgPark ((portS 0x10011 0).port 2).cfg = 1 ∧
      cfgIdle ((portS 0x10011 0).port 2).cfg = 1 ∧ (portS 0x10011 0).queuedBytes 2 = 0) ∧
    statState ((portS 0 0x00000F0FFFFF0003).port 2).stat = 3 ∧
    ((0x8000#16) &&& ~~~BitVec.ofNat 16 (statTxlit ((portS 0 0x00000F0FFFFF0003).port 2).stat) ≠ 0) := by decide +kernel

/-- A kilobyte waits for package 3 at port 2, which is parked. -/
def wakeS : State :=
  { linkS link1 with fab := { (linkS link1).fab with
      ports := Tab.set (linkS link1).fab.ports 2 { Port.reset with calendar := [(0, 0x8003#16)], cfg := 0x100000001, stat := 0x00000F0FFFFF0001 }
      rq := [{ (default : Entry) with key := { (default : QueueKey) with pkg := 3 }, bytes := List.replicate 1024 0#8 }] } }

theorem wit_Wakes : statState (wakeS.port 2).stat = 1 ∧ cfgWakeq (wakeS.port 2).cfg * 1024 ≤ wakeS.queuedBytes 2 ∧ cfgWakeq (wakeS.port 2).cfg ≠ 0 := by
  decide +kernel

/-- An entry of 2 bytes for window 7 of this package. -/
def key7 : QueueKey := { (default : QueueKey) with rwin := 7 }
def entry7 (ord : Bool) (off : Nat) : Entry :=
  { (default : Entry) with id := 1, key := key7, kind := 1, woff := off, bytes := [1#8, 2#8], ord := ord, gang := some (0, 0) }
def loopS (e : Entry) : State := { rx1 with fab := { rx1.fab with rq := [e] } }

theorem wit_Deliveries : (loopS (entry7 false 0xFFE)).loopHead key7 = [entry7 false 0xFFE] ∧
    (loopS (entry7 true 0)).loopHead key7 = [entry7 true 0] ∧ (runParcel [entry7 true 0]).ord = true ∧ (loopS (entry7 false 0xFFE)).parcelCode (runParcel [entry7 false 0xFFE]) = 0 ∧
    ((List.range 2).map (fun j => (loopS (entry7 false 0xFFE)).windowLoc 7 (0xFFE + j))).Nodup ∧
    (loopS (entry7 false 0xFFF)).parcelCode (runParcel [entry7 false 0xFFF]) = 2 ∧ ((loopS (entry7 false 0xFFF)).wg 0).hasRegion = true := by
  decide +kernel

/-- A receive window entry of context 0, over one mapped page and over an address beyond what is mapped. -/
def rxe (a : Nat) : BitVec 256 := recOf (2 ^ 63 + 0xFFF) a 0 0

theorem wit_ReceiveWindows : rxValid (rxe 0x40000) = true ∧ (base gang1).idSelf (BitVec.ofNat 32 (rxOwner (rxe 0x40000))) = true ∧
    ((base gang1).ctx (rxKey (rxe 0x40000))).present = true ∧ (match ((base gang1).pinWindow 0 [0x40]).1 with | .ok l => l.length == 1 | .error _ => false) = true ∧
    (match ((base gang1).pinWindow 0 [0x400000]).1 with | .error b => b == false | .ok _ => false) = true := by decide +kernel

/-- A pull record for window 7, whose grant 0 lets every sender read 64 bytes of device memory at 0x42000 into transmit window 0. -/
def pull1 : Pull := { rwin := 7, sctx := 9, record := BitVec.ofNat 512 (2 ^ 56 + 64 * 2 ^ 64 + 0x100 * 2 ^ 256), woff := 0, org := default }
def grant1 : Nat := (recOf (2 ^ 56 + 0x42000) 64 0 1).toNat + 2 ^ 63 * 2 ^ 256
def serveS : State :=
  { rx1 with
    ms := { rx1.ms with mem := putBytes rx1.ms.mem (locHbm 0x40000) (leBytes 64 grant1) }
    vifs := Tab.set rx1.vifs 0 { rx1.vif 0 with txw := [(0, recOf (2 ^ 63 + 0xFFF) 0 0 0)] }
    fab := { rx1.fab with pulls := [pull1] } }

theorem wit_PullServe : serveS.fab.pulls.find? (fun p => serveS.servingDie p.rwin.toNat == 3) = some pull1 ∧
    (serveS.serviceOf 3 pull1).isSome = true := by decide +kernel

/-! ## Witnesses: the host side, Primrose, ordering -/

/-- A spawn record whose header stands at 0x40000 and which asks for a status word. -/
def spawn1 : BitVec 512 := BitVec.ofNat 512 (0x40000 + 0x200 * 2 ^ 131 + 7 * 2 ^ 256)
def spawnS : State := { launchS hdr2 with prim := { (launchS hdr2).prim with pairs := [(0, { (default : Pair) with leader := true, buffer := spawn1 })] } }

theorem wit_Spawns : spawnS.prim.locked = false ∧ (spawnS.ctx (spawnField spawn1 1 32 10)).present = true ∧
    (match (spawnS.spawnRead 0 (spawnField spawn1 0 0 57) 64).1 with | .ok x => x == hdr2.toNat | _ => false) = true ∧
    (spawnS.spawnRead 0 (spawnField spawn1 0 0 57) 64).2.queueLen 0 0 < 64 ∧ (spawnS.ctx (1024 + 0)).present = false ∧
    (spawnS.pair 0).leader = true ∧ (spawnS.pair 0).healthy = true := by decide +kernel

def joinS : State :=
  let s := base gang1
  { s with sched := { s.sched with launches := [(0, { launch1 with join := some 0x5000#64, isOver := true })] } }

theorem wit_JoinCounters : (joinS.launch 0).join = some 0x5000#64 ∧ (joinS.launch 0).isOver = true := by decide +kernel

theorem wit_HostAccesses : (base gang1).prim.locked = false ∧ (∀ j, j < 4 → (base gang1).inPartition 0 (0x40000 + j) = true) ∧
    (uiS gang1 0).uiPermits 0 ((uiS gang1 0).ctxid (0 * 1024 + 0x3FF)) 0 = true ∧ ((base gang1).ctx 0).present = true ∧
    (0 : BitVec 2).toNat % 4 ≠ 3 ∧ 1 ∈ (base gang1).vifDies (vifOf 0) ∧ Word.bits (sregNew 0x302 0 0x0501) 0 7 + Word.bits (sregNew 0x302 0 0x0501) 8 7 ≤ 96 ∧
    (∀ k ∈ Tab.keys (base gang1).ctxs, k = 0) := by decide +kernel

def layoutS (c : Commit) (code : BitVec 3) (since : Nat) : State :=
  let s := base gang1
  { s with cycle := 13000000, prim := { s.prim with commit := c, shadow := code, since := since, shadowDies := [3] } }

theorem wit_Layouts : (layoutS .steady 0 0).prim.locked = false ∧ (layoutS .staged 7 0).badLayout = true ∧ (layoutS .staged 0 0).badLayout = false ∧
    (layoutS .quiesce 0 0).diesEmpty = true ∧ (layoutS .quiesce 0 0).prim.since + 13000000 ≤ (layoutS .quiesce 0 0).cycle := by decide +kernel

def pairS (leader : Bool) : State :=
  let s := base gang1
  { s with cycle := 13000000, prim := { s.prim with pairs := [(0, { (default : Pair) with leader := leader })] } }

theorem wit_ServicePairs : ((pairS true).pair 0).leader = true ∧ ((pairS true).pair 0).healthy = true ∧
    ((pairS true).pair 0).beat + 13000000 ≤ (pairS true).cycle ∧ ((pairS false).pair 0).leader = false ∧ ((pairS false).pair 0).healthy = true := by
  decide +kernel

theorem wit_Boots : State.reset.prim.started = false ∧ State.reset.prim.locked = false ∧
    ({ State.reset.prim with locked := true } : Prim).started = false ∧ ({ State.reset.prim with recovery := true } : Prim).locked = false ∧
    ((privS 2).ctx 0).priv = 2 ∧ ((privS 2).ctx 0).present = true := by decide +kernel

theorem wit_Alarms : State.reset.prim.throttle ≤ 3 ∧ ((base gang1).wg 0).pending = true ∧ State.reset.prim.plim = 3200 := by decide +kernel

theorem wit_FreeMoves : hasClass (.lane 0 0 0) .thread = true ∧ hasClass (.clus 0) .matrix = true ∧ hasClass (.dev 0) .host = true := by decide +kernel

/-! ## Further witnesses: engines, claims, flows -/

/-- The same with a full chain, lane 1 in another split. -/
def fullChain (s : State) : State := withWg (fun r => { r with chain := List.replicate 64 (task1 4 0 0 0 false false) }) s
def menqS : State := fullChain (base (regs [(0, 2, 4 * 2 ^ 60), (0, 3, 1)] split1))
def tailFull : State := { fullChain (base (regs [(0, 3, 1)] split1)) with ms := tailS.ms }

theorem wit_FullChains : ReadyIn menqS [(0xD0, fw 0 2 0 0 0)] ∧ ReadyIn tailFull [(0xD1, fw 0 2 3 0 1)] ∧
    menqS.taskCheck 0 (taskOf ((List.range 8).map (fun j => ((menqS.gang 0 0).vGet 0 (2 + j)).toNat))) = none ∧
    64 ≤ (menqS.wg 0).chain.length ∧
    ((its 0xD0 (fw 0 2 0 0 0) menqS).lanes.getLsbD 1 = false ∧ ((menqS.gang 0 0).thread 1).st = .exec) ∧
    ((its 0xD1 (fw 0 2 3 0 1) tailFull).srcB (tailFull.gang 0 0) 64 (its 0xD1 (fw 0 2 3 0 1) tailFull).low).toNat = 1 ∧
    (match tailFull.readTail 0 0 0 1 1 ((((its 0xD1 (fw 0 2 3 0 1) tailFull).srcA (tailFull.gang 0 0) 0).toNat, true)) [] false with
      | (.ok l, _) => l.length == 1 | _ => false) = true :=
  ⟨readyIn (by decide +kernel), readyIn (by decide +kernel), by decide +kernel, by decide +kernel, by decide +kernel, by decide +kernel,
   by decide +kernel⟩

/-- A walk as its step takes it up. -/
def taken (s : State) : State :=
  s.modGang 0 0 (fun y => { y with parks := y.parks.map (fun z => if z.id = 5 then { z with ready := none } else z) })

theorem wit_WalkEnds : walkPark.why = .walk 4 none ∧ ((walking (slotC .walking)).gang 0 0).parkOf 5 = some walkPark ∧ walkPark.lanes ≠ 0#32 ∧
    (match (taken (walking (slotC .walking))).walkPages 0 4 with
      | (.go, u) => decide (u.gang 0 0 = (taken (walking (slotC .walking))).gang 0 0)
      | _ => false) = true ∧
    (match (taken (walking farSlot)).walkPages 0 4 with
      | (.bad cause a, u) => decide (cause = 3 ∧ a = 0x10000 ∧ u.gang 0 0 = (taken (walking farSlot)).gang 0 0)
      | _ => false) = true := by decide +kernel

/-- The source of a claim lies beyond its region. -/
def farSource : Slot := { slotC .walking with ds := recOf (0x20 * 2 ^ 56 + 0xFFFF) 64 0 3, dd := recOf (0x20 * 2 ^ 56) 64 0 3 }

theorem wit_SourceFirst : (farSource.sides.head?.map (fun e => (taken (walking farSource)).sideBad 0 e)) = some (some (3, 0x10000)) := by
  decide +kernel

/-- A window unit whose credits are all taken. -/
def fullUnit : State := { rx1 with fab := { rx1.fab with credits := List.replicate 4096 { die := rx1.servingDie 7, hand := hand1 false } } }

set_option maxRecDepth 20000 in
theorem wit_HandshakeAnswers : rx1.handCode (hand1 false) = 0 ∧
    (rx1.fab.credits.filter (fun c => c.die == rx1.servingDie (hand1 false).rwin.toNat)).length < 4096 ∧
    4096 ≤ (fullUnit.fab.credits.filter (fun c => c.die == fullUnit.servingDie (hand1 false).rwin.toNat)).length ∧ fullUnit.handCode (hand1 false) = 0 ∧
    (base gang1).handCode (hand1 false) = 2 ∧ (hand1 true).release = true := by decide +kernel

/-- A walk to a window of one member, package 3, which has been asked. -/
def asking (staged : Bool) : State :=
  walking { slotC .walking with kind := 4, staged := staged, hands := [{ pkg := 3, asked := true, granted := false, ask := 1 }]
                                win := recOf (2 ^ 63 + 3 * 2 ^ 35 + 0xFFF) 0 0 0 }
def askedHand (granted : Bool) (refused : BitVec 8) : Hand := { pkg := 3, asked := true, granted := granted, ask := 1, refused := refused }

theorem wit_HandshakeResponses : (∀ b, (Tab.get ((asking b).wg 0).slots 4).st = .walking ∧
      (Tab.get ((asking b).wg 0).slots 4).hands.any (fun h => h.pkg.toNat == 3 && h.waits) = true ∧
      (asking b).claimant 0 4 = some (0, walkPark) ∧ (Tab.get ((asking b).wg 0).slots 4).staged = b) ∧
    txMembers (Tab.get ((asking true).wg 0).slots 4).win = [3] ∧
    [askedHand true 0].all (fun h => h.refused == 0) = true ∧ [askedHand true 0].any (fun h => h.pkg.toNat == 3 && h.granted) = true ∧
    (((asking true).freeWalk 0 4).gang 0 0).inTrap = false ∧ codeAddr (((asking true).freeWalk 0 4).gang 0 0).tvec ≠ 0#64 ∧
    (Tab.get ((asking true).wg 0).slots 4).hands.any (fun h => h.waits &&
      !(asking true).fab.hands.any (fun q => q.ask.toNat == h.ask && q.sctx == (asking true).ctxid ((asking true).ctxKey 0))) = true := by
  decide +kernel

/-- The bytes of a 64-byte flow have been read; they are written as one unit, or sent as one packet. -/
def reflectMv : Xfer := { got := (List.range 64).map (fun b => (2 * b, some (BitVec.ofNat 8 b, false))), writes := [(List.range 64).map (2 * ·)] }

/-- A flow of 64 bytes in progress to a window, as one packet still to be sent. -/
def reflectS (kind : BitVec 3) : State :=
  let s := flows { slotC .live with kind := kind, dd := recOf (0x10 * 2 ^ 56) 64 0 2, win := recOf (2 ^ 63 + 3 * 2 ^ 35 + 0xFFF) 0 0 0,
                                    pins := [{ vpage := 0, gpage := 0, frame := 0xFE * 2 ^ 36, gbits := 12, hbits := 12, disc := false, dst := true }] } true
  { withWg (fun r => { r with flows := [{ flow1 true with mv := reflectMv }] }) s with
    vifs := Tab.set s.vifs 0 { s.vif 0 with txw := [(0, recOf (2 ^ 63 + 3 * 2 ^ 35 + 0xFFF) 0 0 0)] } }

theorem wit_ReflectFlows : ∀ k ∈ [4#3, 5#3],
    (let x := Tab.get ((reflectS k).wg 0).slots 2
     let f := { flow1 true with mv := reflectMv }
     x.kind = k ∧ ((reflectS k).wg 0).flowOn 5 = some f ∧ f.mv.writes = (0 :: ((List.range 63).map (fun b => 2 * b + 2))) :: [] ∧
     (∀ y ∈ (0 :: ((List.range 63).map (fun b => 2 * b + 2))), Tab.get f.mv.got y ≠ none) ∧
     (match (reflectS k).flowByte 0 x x.dd true 0 with
       | .win e off => decide (txCount e = 1 ∧ off = 0)
       | _ => false) = true) := by decide +kernel

theorem wit_FlowsEnd :
    (let s := flows (slotC .live) true
     (s.wg 0).flowOn 5 = some (flow1 true) ∧ (flow1 true).mv.writes = [] ∧ s.flowOut 0 5 = false ∧ (s.wg 0).hasRegion = true ∧
     (Tab.get (s.wg 0).slots 2).bl = false ∧ (Tab.get (s.wg 0).slots 2).st = .live ∧ (Tab.get (s.wg 0).slots 2).why = 0) ∧
    (let s := { flows (slotC .live) true with prim := { (base gang1).prim with posted := [{ (default : Posted) with flow := some (0, 5) }] } }
     s.flowOut 0 5 = true) := by decide +kernel

/-- The two pages of the claim, pinned. -/
def pinned2 (st : SlotState) : Slot :=
  { slotC st with pins := [{ vpage := 0x40, gpage := 0x40, frame := 0x40, gbits := 12, hbits := 12, disc := false, dst := false },
                           { vpage := 0x41, gpage := 0x41, frame := 0x41, gbits := 12, hbits := 12, disc := false, dst := true }] }
/-- The copy flow as it starts, and with a turn: one unit of 64 bytes to read and one to write. -/
def movingS (mv : Xfer) : State := withWg (fun r => { r with flows := [{ flow1 true with mv := mv }] }) (flows (pinned2 .live) true)

theorem wit_FlowUnits :
    (let v := (flows (pinned2 .live) false).flowXfer 0 (pinned2 .live) (flow1 false)
     v.reads = [(List.range 64).map (2 * ·)] ∧ v.writes = [(List.range 64).map (2 * ·)] ∧ v.got = [] ∧ v.quota = 0) ∧
    (let mv := { (flows (pinned2 .live) false).flowXfer 0 (pinned2 .live) (flow1 false) with quota := 4096 }
     ((movingS mv).wg 0).flowOn 5 = some { flow1 true with mv := mv } ∧ mv.got.length < mv.quota ∧
     Tab.get mv.got 0 = none ∧ (movingS mv).flowWrite 0 5 0 = movingS mv) ∧
    ((movingS reflectMv).wg 0).flowOn 5 = some { flow1 true with mv := reflectMv } ∧ reflectMv.quota ≤ reflectMv.got.length ∧
    (∀ b ∈ (List.range 64).map (2 * ·), b % 2 = 0 ∧ Tab.get reflectMv.got b ≠ none) ∧
    (∀ b, b < 64 → (movingS reflectMv).flowByte 0 (pinned2 .live) (pinned2 .live).dd true b = .loc (locHbm (0x41000 + b))) ∧
    (byAddress (recC 0x41000) 0 64) = List.range 64 := by decide +kernel

/-! ## Further witnesses: interrupts, system registers -/

/-- A gang whose two threads wait at UIWAIT. -/
def uiParked : Gang := parkOn (.uiwait 4 5) none none

theorem wit_InterruptsReachWaits : ReadyIn (uiS gang1 0) [(0xE3, fw 4 5 0 0 0)] ∧ (uiS gang1 0).isHandler 0 0 0 = true ∧
    ((uiS gang1 0).ctx 0).deliverable = none ∧ ((uiS gang1 0).gang 0 0).parks = [] ∧
    ((uiS uiParked 1).ctx 0).deliverable = some 0 ∧ (uiS uiParked 1).handlerGang 0 = some (0, 0) ∧ uiParked.live = 3#32 ∧
    (uiParked.uiPark.map (fun e => (e.1.lanes, e.2.1, e.2.2))) = some (3#32, 4#7, 5#7) :=
  ⟨readyIn (by decide +kernel), by decide +kernel⟩

/-- What a diversion left of a gang between two runs, its handler's UIRET in issue. -/
def diverted1 : Gang := { idle1.divert 0x30000 0 with run := some { split := 1, count := 1 }, uivec := 0x10000, uipay := 0x77 }

theorem wit_InterruptsReturn : ReadyIn (atHandler diverted1 0x30000) [(0xE4, fw 0 0 0 0 0)] ∧
    (its 0xE4 (fw 0 0 0 0 0) (atHandler diverted1 0x30000)).g (atHandler diverted1 0x30000) = diverted1 ∧ idle1.saved = none ∧
    idle1.inUi = false ∧ idle1.inTrap = false ∧ idle1.run = none ∧ (idle1.thread 0).st = .exec ∧ diverted1.inUi = true ∧ diverted1.saved.isSome = true :=
  ⟨readyIn (by decide +kernel), by decide +kernel⟩

/-- Context 0 at level 2, v2 of both lanes a value. -/
def sysS (v : Nat) : State :=
  { base (regs [(0, 2, v), (1, 2, v)] gang1) with ctxs := [(0, { Ctx.fresh with reg := [(0x300, 0x1001#64)], priv := 2 })] }
/-- Ports 0 to 3 are STATIC. -/
def staticS : State :=
  { sysS 5 with fab := { (sysS 5).fab with ports := (List.range 16).map (fun p => (p, { Port.reset with cfg := if p < 4 then 5 else 1 })) } }

theorem wit_SystemWrites : ([0x307, 0x30B, 0x30F, 0x200, 0x201, 0x202, 0x205, 0x207, 0x209, 0x20B, 0x204, 0x10A, 0x310, 0x300, 0x305, 0x309, 0x30C, 0x30D,
      0x30E].all (fun i => isReady 0xF5 (fw 0 2 0 0 i) (sysS 0) && decide (sregWriteLevel i ≤ ((sysS 0).ctx 0).priv.toNat) && !sregRO i)) = true ∧
    ReadyIn (sysS 0) [(0xF5, fw 0 2 0 0 0x306)] ∧ sregRO 0x306 = true ∧ CanTrap (its 0xF5 (fw 0 2 0 0 0x306) (sysS 0)) (sysS 0) ∧
    (∀ i, (its 0xF5 (fw 0 2 0 0 0x10A) (sysS 0)).on i →
      cfgStatic ((its 0xF5 (fw 0 2 0 0 0x10A) (sysS 0)).srcA ((sysS 0).gang 0 0) i) = false) ∧
    ReadyIn staticS [(0xF5, fw 0 2 0 0 0x10A)] ∧
    (∀ i, (its 0xF5 (fw 0 2 0 0 0x10A) staticS).on i → cfgStatic ((its 0xF5 (fw 0 2 0 0 0x10A) staticS).srcA (staticS.gang 0 0) i) = true) ∧
    4 ≤ ((List.range 16).filter (fun q => q != 10 && cfgStatic ((staticS.port q).pend.getD (staticS.port q).cfg))).length :=
  ⟨by decide +kernel, readyIn (by decide +kernel), by decide +kernel, by unfold CanTrap; decide +kernel, onAll (by decide +kernel),
   readyIn (by decide +kernel), onAll (by decide +kernel), by decide +kernel⟩

/-- Lane 0 alone writes the base of event ring: an address that translates. -/
def baseS : State := { sysS 0x40001 with wgs := [(0, wg1 (regs [(0, 2, 0x40001)] split1))] }

theorem wit_SystemBases : ReadyIn baseS [(0xF5, fw 0 2 0 0 0x305)] ∧ lanesOf (its 0xF5 (fw 0 2 0 0 0x305) baseS).act = [0] ∧
    (match (baseS.hostPages 0 [0x40]).1 with | .ok l => l.length == 1 | .error _ => false) = true :=
  ⟨readyIn (by decide +kernel), by decide +kernel⟩

/-- A TLBI of the page at v2, by a gang whose context is at level 1, with more of the state changed. -/
def tlbS (g : Gang) (more : Workgroup → Workgroup) : State := withWg more { privS 1 with wgs := [(0, wg1 g)] }
def tlbG : Gang := regs [(0, 2, 0x40000), (1, 2, 0x40000)] gang1
def pinned1 (st : SlotState) : Slot :=
  { slotC st with pins := [{ vpage := 0x40, gpage := 0x40, frame := 0x40, gbits := 12, hbits := 12, disc := false, dst := false }] }

theorem wit_InvalidatedClaims :
    ReadyIn (tlbS tlbG id) [(0xF6, fw 0 2 3 1 0)] ∧
    (let s := tlbS tlbG (fun r => { r with slots := [(2, pinned1 .live)] })
     let x := tlbExt 0 0 0x40000 0 0
     (Tab.get (s.wg 0).slots 2).pins.any (x.covers (s.ctxKey 0)) = true ∧ (Tab.get (s.wg 0).slots 2).st = .live ∧ (s.lapsePages x 1).1 = []) ∧
    (let s := tlbS tlbG (fun r => { r with slots := [(2, pinned1 .live)], flows := [flow1 true] })
     (s.lapsePages (tlbExt 0 0 0x40000 0 0) 1).1 = [(0, 5)]) ∧
    ((tlbS tlbG id).gang 0 0).parks = [] :=
  ⟨readyIn (by decide +kernel), by decide +kernel⟩

/-- Lane 0 in issue, lane 1 parked with DISCARD_WRITE. -/
def discardG : Gang :=
  { split1 with
    splits := [{ id := 0, lanes := 1, replay := none }], thr := [(0, at1 0x10000), (1, { at1 0x10000 with st := .parked })]
    parks := [{ id := 5, lanes := 2, todo := 2, act := 2, pc := 0x10000, lat := [], why := .fault 2 false true 0x40000 4, since := 0, left := none,
                ready := none }] }
/-- Its page: no longer discarded, or discarded still. -/
def discardS (disc : Bool) : State :=
  let s := tlbS (regs [(0, 2, 0x40000)] discardG) id
  if disc then { s with ms := { s.ms with mem := Memory.write s.ms.mem (locHbm 0x3007) 8#8 } } else s

theorem wit_DiscardsRevalidate : (∀ b, ReadyIn (discardS b) [(0xF6, fw 0 2 3 1 0)]) ∧
    (∀ b, (((discardS b).gang 0 0).parkOf 5).map (fun p => (p.why, p.lanes)) = some (.fault 2 false true 0x40000 4, 2#32) ∧
      ((discardS b).wg 0).status = .running ∧ (discardS b).stillDiscarded 0 0x40000 = b ∧
      (match (discardS b).guestWalk 0 0x40000 with
        | .ok g => (tlbExt 0 0 0x40000 0 0).meets 0x40 (sizeBits g.size)
        | _ => false) = true ∧ ((discardS b).lapsePages (tlbExt 0 0 0x40000 0 0) 1).1 = [] ∧ (discardS b).sched.reports = []) ∧
    ((2 : Mask) &&& (its 0xF6 (fw 0 2 3 1 0) (discardS true)).lanes) = 0#32 :=
  ⟨fun b => by cases b <;> exact readyIn (by decide +kernel), by decide +kernel, by decide +kernel⟩

def farTlb : State := tlbS (regs [(0, 2, 0x40000), (0, 3, 2 ^ 57)] split1) id

theorem wit_InvalidationBeyond : ReadyIn farTlb [(0xF6, fw 0 2 3 1 2)] ∧ (fw 0 2 3 1 2).xb / 2 % 4 = 1 ∧
    2 ^ 57 < ((its 0xF6 (fw 0 2 3 1 2) farTlb).srcA (farTlb.gang 0 0) 0).toNat + ((its 0xF6 (fw 0 2 3 1 2) farTlb).srcB (farTlb.gang 0 0) 64 0).toNat ∧
    CanTrap (its 0xF6 (fw 0 2 3 1 2) farTlb) farTlb := ⟨readyIn (by decide +kernel), by decide +kernel, by decide +kernel, by unfold CanTrap; decide +kernel⟩

/-! ## Further witnesses: dirty log, links, packets -/

/-- A writer that waits for room in the dirty ring and may replay. -/
def dirtyS (ready : Option Bool) : State := base (parkOn (.dirtyFull 0x40000) none ready)

theorem wit_DirtyOrder : (dirtyS (some true)).dirtyFirst 0 0 { dirtyPark with ready := some true } = true ∧
    ((dirtyS (some true)).gang 0 0).parkOf 5 = some { dirtyPark with ready := some true } ∧
    ((dirtyS none).gang 0 0).parkOf 5 = some dirtyPark ∧ dirtyPark.ready.isNone = true ∧
    (base { parkOn (.dirtyFull 0x40000) none (some true) with splits := [{ id := 9, lanes := 1, replay := some 1, turn := true }] }).dirtyFirst 0 0
      { dirtyPark with ready := some true } = false := by decide +kernel

/-- A flow's write among a thread's stores. -/
def flowPost : Posted := { posted1 4 1 false with flow := some (0, 5) }

theorem wit_PostedFlows : ({ postS with prim := { postS.prim with posted := [posted1 3 1 true, flowPost] } } : State).prim.posted.find? (fun p => p.id == 4) =
      some flowPost ∧ flowPost.flow ≠ none := by decide +kernel

/-- A preamble with its CRC, which acknowledges the flit with LSEQ 7. -/
def pre1 (crc : BitVec 16) : Preamble := { txlit := 0xFFFF, firstSeq := 5, ack := 7, free := [1, 2, 3, 4], reach := 9, loss := 0, crc := crc }
def preGood : Preamble := pre1 (BitVec.ofNat 16 (crc16 (preambleBytes (pre1 0))))

set_option maxRecDepth 20000 in
theorem wit_Preambles : (crc16 (preambleBytes preGood) == preGood.crc.toNat) = true ∧
    (crc16 (preambleBytes { preGood with crc := preGood.crc + 1 }) == ({ preGood with crc := preGood.crc + 1 } : Preamble).crc.toNat) = false ∧
    ((linkS link1).link 3).kept.map (fun f => covered preGood.ack.toNat (flitLseq f)) = [true, false] ∧
    ((linkS link1).openSlot 2).facing 2 = some 3 := by decide +kernel

set_option maxRecDepth 20000 in
theorem wit_Naks : (linkS link1).facing 2 = some 3 ∧ flitOk (flit5 ^^^ 1) = false ∧ ((linkS link1).link 3).nak = false ∧ 0 < ((linkS link1).port 2).room := by
  decide +kernel

/-- A write packet of one byte from package 3, sealed; and the same with a counter seen before. -/
def hdrP : BitVec 576 := (packet1 0 false).hdr
def sealed : Packet :=
  let r := gcmSeal 0 (packetIv hdrP) (hdrAuth hdrP) [1#8]
  { packet1 0 false with data := r.1, tag := r.2 }
def sealS (seen : List Nat) : State :=
  { linkS link1 with fab := { (linkS link1).fab with held := [sealed, packet1 0 false], seen := [(3, seen)] } }

theorem wit_PacketsOpen : (gcmOpen ((sealS []).hdrKeyOf hdrP) (packetIv hdrP) (hdrAuth hdrP) sealed.data sealed.tag).isSome = true := by
  have h : (sealS []).hdrKeyOf hdrP = 0 := by decide +kernel
  rw [h]; simp [gcmOpen, sealed, gcmSeal]
theorem wit_PacketsShut : gcmOpen ((sealS []).hdrKeyOf hdrP) (packetIv hdrP) (hdrAuth hdrP) [1#8] [] = none := by decide +kernel
theorem wit_PacketCounters : (sealS []).fab.held[0]?.map Packet.hdr = some hdrP ∧ pkNctr hdrP = 0 ∧ counterBad (Tab.get (sealS []).fab.seen 3) 0 = false ∧
   counterBad (Tab.get (sealS [0]).fab.seen 3) 0 = true ∧ (pkSpod hdrP * 512 + pkSpkg hdrP = 3) ∧ pkKind hdrP = 1 ∧ pkRop hdrP < 5 := by decide +kernel


/-! ## Further witnesses: deliveries, pulls, the host side -/

/-- A reduction at window 7, which takes reductions, and a packet of package 3 in its turn there. -/
def red7 : Entry := { entry7 false 0 with kind := 3, rop := 1, bytes := [0#8, 0#8, 0x80#8, 0x3F#8] }
def redS : State := { loopS red7 with fab := { (loopS red7).fab with rxw := [(7, recOf (2 ^ 63 + 2 ^ 62 + 2 ^ 61 + 0xFFF) 0x40000 0 0)] } }
def in7 (off : Nat) : Inbound :=
  { hdr := hdrPut (hdrPut (packet1 0 false).hdr 2 52 12 7) 2 0 32 off, data := [1#8], since := 0 }
def inS (off : Nat) : State := { rx1 with fab := { rx1.fab with inbound := [in7 off] } }

theorem wit_Arrivals : (redS.parcelCode (runParcel [red7]) = 0 ∧ redS.loopHead key7 = [red7] ∧ (runParcel [red7]).kind = 3) ∧
    (let q := hdrKey (in7 0).hdr
     (inS 0).loopHead q = [] ∧ (inS 0).inboundHead q = some (in7 0) ∧ pkOrd (in7 0).hdr = false ∧
     (inS 0).parcelCode ((inS 0).inParcel (in7 0)) = 0 ∧ ((List.range 1).map (fun j => (inS 0).windowLoc 7 j)).Nodup) ∧
    (inS 0x1000).inboundHead (hdrKey (in7 0x1000).hdr) = some (in7 0x1000) ∧ (inS 0x1000).parcelCode ((inS 0x1000).inParcel (in7 0x1000)) = 2 := by
  decide +kernel

/-- A valid window entry of context 0 takes effect where none stood. -/
theorem wit_WindowFirst : rxValid (Tab.get (base gang1).fab.rxw 7) = false ∧ rxValid (Tab.get rx1.fab.rxw 7) = true := by decide +kernel

/-- The service claim of the pull. -/
def service1 : Service := (serveS.serviceOf 3 pull1).getD default
def served (f : Service → Service) : State := { serveS with fab := { serveS.fab with services := [f { service1 with live := true }] } }

theorem wit_PullServices : (serveS.fab.services.filter (fun x => x.die == 3)).length < 8 ∧ serveS.serviceOf 3 pull1 = some service1 ∧
    (match (({ serveS with fab := { serveS.fab with pulls := [], services := [service1], nextId := serveS.fab.nextId + 1 } } : State).walkSource service1) with
      | (.ok _, u) => !u.windowLost service1.tx
      | (.error _, _) => false) = true ∧
    txMembers service1.tx = [0] ∧
    serveS.serviceOf 3 { pull1 with record := 0 } = none ∧ serveS.idSelf pull1.sctx = true ∧
    ({ serveS with prim := { serveS.prim with pkg := 9 } } : State).idSelf pull1.sctx = false ∧
    8 ≤ ((List.replicate 8 { service1 with die := 3 }).filter (fun x => x.die == 3)).length := by decide +kernel

theorem wit_PullFlows :
    (match (served (fun x => { x with mv := { reads := [[0, 1]], writes := [[0, 1]], quota := 4096 } })).fab.services.find? (fun y => y.id == service1.id) with
      | some x => x.live && x.mv.reads[0]? == some [0, 1] && decide (x.mv.got.length < x.mv.quota) && x.mv.writes == [[0, 1]] && (Tab.get x.mv.got 0).isNone
      | none => false) = true ∧
    (match (served (fun x => { x with mv := { got := [(0, some (1#8, false))], writes := [[0]] } })).fab.services.find? (fun y => y.id == service1.id) with
      | some x => x.live && x.mv.writes == [[0]] && (Tab.get x.mv.got 0).isSome
      | none => false) = true ∧
    ((served id).fab.services.find? (fun y => y.id == service1.id)).map (fun x => (x.live, x.mv.writes, x.last)) = some (true, [], false) ∧
    (served (fun x => { x with last := true })).serviceDone service1.id = true ∧ txCount service1.tx = 1 := by decide +kernel

/-- The host side of interface 0, which is enabled, with a range of CXL.mem. -/
def hostS : State := { spawnS with prim := { spawnS.prim with cxl := [(0x40000, 0x1000)] } }

theorem wit_HostRanges : Word.bit (hostS.vreg 0 0x200) 0 = true ∧ (∃ r ∈ hostS.prim.cxl, r.1 ≤ 0x40000 ∧ 0x40000 + 4 ≤ r.1 + r.2) ∧
    (∀ j, j < 4 → hostS.inPartition 0 (0x40000 + j) = true) ∧ hostS.prim.locked = false ∧ hostS.exposed 0 0x50000 4 = false ∧
    Word.bit (hostS.vreg 5 0x200) 0 = false ∧ hdrCheck hdr2 = 0 ∧ hdrArglen hdr2 = 0 := by decide +kernel

/-- The structure that a value of a base register of context 0 names translates. -/
def basePages (s : State) (v : Word) (i : Nat) : Bool :=
  let new := sregNew i (s.creg 0 i) v
  let base := Nat.land new.toNat (sregMask i / 2 * 2)
  let size := if i = 0x300 ∧ Word.bit new 0 = false then 0 else s.structSize 0 i
  match (s.hostPages 0 ((List.range ((base + size + 4095) / 4096 - base / 4096)).map (base / 4096 + ·))).1 with
  | .ok _ => true
  | .error _ => false

theorem wit_HostBases : (∀ i ∈ [0x300, 0x305, 0x309, 0x30C, 0x30D, 0x30E], basePages (privS 2) 0x40001 i = true) ∧
    ((privS 2).ctx 0).present = true ∧ (match ((privS 2).hostPages 0 [0x40000000]).1 with | .error b => b == false | .ok _ => false) = true := by
  decide +kernel

theorem wit_Unlocked : (queued hdr2 id).prim.locked = false ∧ (portS 0 0).prim.locked = false ∧ (layoutS .staged 0 0).prim.locked = false ∧
    (pairS true).prim.locked = false ∧ State.reset.prim.locked = false ∧ (base gang1).prim.locked = false ∧ (privS 2).prim.locked = false ∧
    ((base gang1).ctx 0).ending = none ∧ ((uiS gang1 0).ctx 0).ending = none := by decide +kernel

/-- Package reset is the next move. -/
def resetS : State := { base gang1 with aux := { (base gang1).aux with agenda := [.outside .reset] } }
theorem wit_Reset : resetS.aux.agenda = .outside .reset :: [] ∧ resetS.wgs ≠ [] := by decide +kernel

/-- A context that is being torn down. -/
def endingS : State := (base gang1).modCtx 0 (fun x => { x with ending := some (tearRec 8) })
theorem wit_Ending : (endingS.ctx 0).present = true ∧ (endingS.ctx 0).ending.isSome = true := by decide +kernel

/-- Contexts with and without a gang in a run; a launch of the context in a queue. -/
theorem wit_Teardowns : (base gang1).ctxRuns 0 = true ∧ ((base gang1).ctx 0).ending = none ∧ (base idle1).ctxRuns 0 = false ∧
    ((base idle1).ctx 0).present = true ∧ 0 ∈ Tab.keys (base idle1).sched.launches ∧ ((base idle1).launch 0).ctx = 0 ∧
    (base gang1).prim.locked = false := by decide +kernel

/-! ## Further witnesses: issue, checks, control flow -/

/-- The next step is a turn that leaves accesses in Q(t). -/
def lateS (n : Nat) : State := { fetches n with aux := { (fetches n).aux with agenda := [.issueLate 0] } }

/-- No access waits in the small state. -/
theorem noQueue (g : Gang) (h : g.queue = []) (v i : Nat) : ((base g).gang v i).queue = [] := by
  rcases v with _ | v <;> rcases i with _ | i <;> first | exact h | rfl

theorem wit_LateWords : (lateS 0x28C000201C086050).aux.agenda = [.issueLate 0] ∧ (lateS 0).prim.throttle < 2 ∧
    ({ lateS 0 with aux := { (lateS 0).aux with agenda := [] } } : State).slotPick 0 = some (0, 0) ∧
    defers (.stb (fw 0 8 7 2 0x6050)) = true ∧ defers (.add (fw 4 2 5 0 0xE000)) = false ∧
    (∀ v h, ((base gang1).gang v h).queue = []) := by
  refine ⟨by decide +kernel, by decide +kernel, by decide +kernel, by decide +kernel, by decide +kernel, noQueue gang1 rfl⟩

/-- A launch of 16 registers. -/
def fewRegs : State :=
  { base gang1 with sched := { (base gang1).sched with launches := [(0, { launch1 with hdr := BitVec.ofNat 512 (hdr1.toNat - 7 * 2 ^ 36) })] } }

theorem wit_RegisterChecks :
    (let w := fw 4 2 3 1 (31 * 8192)
     (Instr.add w).word = some (0x22, w) ∧ (base gang1).issue 0x22 w = some (its 0x22 w (base gang1)) ∧
     ((form 0x22 w).map (fun f => f.illegal w)) = some true ∧ CanTrap (its 0x22 w (base gang1)) (base gang1)) ∧
    (let w := fw 4 17 16 0 24576
     (Instr.add w).word = some (0x22, w) ∧ fewRegs.issue 0x22 w = some (its 0x22 w fewRegs) ∧ hdrRegs (fewRegs.hdr 0) = 16 ∧
     ((form 0x22 w).map (fun f => (f.illegal w, f.regs w))) = some (false, [4, 17, 16]) ∧ CanTrap (its 0x22 w fewRegs) fewRegs) := by
  unfold CanTrap; decide +kernel

/-- v2 and v3 of both lanes. -/
def pairV (a b : Nat) : State := base (regs [(0, 2, a), (1, 2, a), (0, 3, b), (1, 3, b)] gang1)

theorem wit_OwnChecks :
    (∀ b ∈ [0, 65], ReadyIn (pairV 0 b) [(0xD1, fw 0 2 3 0 1), (0xE2, fw 0 2 3 4 0)] ∧ (b = 0 ∨ 64 < b)) ∧
    ReadyIn (pairV 0 64) [(0xE2, fw 0 2 3 4 0)] ∧
    (∀ b ∈ [0, 65536], ReadyIn (pairV 0 b) [(0xC4, fw 4 2 3 1 0)] ∧ (pairV 0 b).scratchAt 0 1 (scratchAdv 1 0 0) 16 ≠ .bad) ∧
    (ReadyIn (pairV 8 1) ([0xC4, 0xC5, 0xC6, 0xC7, 0xC8].map (fun op => (op, fw 4 2 3 1 0))) ∧
      (pairV 8 1).scratchAt 0 1 (scratchAdv 1 8 0) 16 ≠ .bad ∧ (scratchAdv 1 8 0).1 % 2 ^ offBits 1 % 16 = 8) := by
  refine ⟨fun b hb => ?_, readyIn (by decide +kernel), fun b hb => ?_, readyIn (by decide +kernel), by decide +kernel, by decide +kernel⟩
  · simp only [List.mem_cons, List.not_mem_nil, or_false] at hb
    rcases hb with rfl | rfl <;> exact ⟨readyIn (by decide +kernel), by decide +kernel⟩
  · simp only [List.mem_cons, List.not_mem_nil, or_false] at hb
    rcases hb with rfl | rfl <;> exact ⟨readyIn (by decide +kernel), by decide +kernel⟩

/-- A tile of level 0; of two ends in HBM; of pitches, addresses that are no multiples of 8; of rows that overlap. -/
def badTiles : List (List Nat) := [[0x100, 0, 2 ^ 32, 0], [0x100, 0, 15 * 2 ^ 32, 0], [0x100, 0, 5 * 2 ^ 32, 4], [0x104, 0, 5 * 2 ^ 32, 0],
  [0x100, 0, 5 * 2 ^ 32 + 1, 8]]
def badTile (l : List Nat) : State :=
  base (regs ([0, 1].flatMap (fun i => l.zipIdx.map (fun e => (i, 2 + e.2, e.1)))) gang1)

theorem wit_TileShapes : ∀ l ∈ badTiles, isReady 0xA7 (fw 4 2 0 0 0) (badTile l) = true ∧
    (let x := tileOf ((List.range 4).map (fun j => ((badTile l).gang 0 0).vGet 0 (2 + j)))
     x.dlvl = 0 ∨ x.slvl = 0 ∨ (x.dlvl = 3 ∧ x.slvl = 3) ∨ x.spitch % 8 ≠ 0 ∨ x.dst % 2 ^ offBits x.dlvl % 8 ≠ 0 ∨
     (1 < x.rows ∧ x.dpitch < x.bytes)) := by decide +kernel

theorem wit_SystemChecks : (base gang1).isHandler 0 0 0 = false ∧
    ReadyIn (base gang1) [(0xE3, fw 4 2 3 1 0)] ∧ ReadyIn (pairV 4 0) [(0xF3, fw 4 2 3 1 0)] ∧
    (its 0xF3 (fw 4 2 3 1 0) (pairV 4 0)).srcA ((pairV 4 0).gang 0 0) 0 = 4#64 ∧
    ReadyIn (base (withRec rec1)) [(0xA8, fw 4 2 3 1 (18 * 8192)), (0xA9, fw 4 2 3 1 (18 * 8192)), (0xE1, fw 4 2 3 1 0)] ∧ recEfmt rec1 = 0 ∧
    recPerm rec1 .store = none ∧ recKind rec1 ≠ 0x10 :=
  ⟨by decide +kernel, readyIn (by decide +kernel), readyIn (by decide +kernel), by decide +kernel, readyIn (by decide +kernel), by decide +kernel,
   by decide +kernel, by decide +kernel⟩

/-- A context whose fault queue and event ring are enabled, at 0x310000 and 0x320000. -/
def ringCtx (head : Nat) : Ctx :=
  { Ctx.fresh with
    reg := [(0x300, 0x1001#64), (0x305, 0x310001#64), (0x306, word head), (0x309, 0x320001#64), (0x30A, word head)]
    pins := (List.range 4).map (fun p => (0x305 * 2 ^ 45 + 0x310 + p, 0x311 + p)) ++ (List.range 2).map (fun p => (0x309 * 2 ^ 45 + 0x320 + p, 0x321 + p)) }
def ringS (head : Nat) : State := { base gang1 with ctxs := [(0, ringCtx head)] }

theorem wit_KillRecords : ((ringS 510).launch 0).failed = false ∧ ((ringS 510).ctx 0).present = true ∧ RingTakes (ringS 510) 0 fqRing 2 ∧
    (ringS 510).sched.reports = [] ∧ ((ringS 510).wg 0).status = .running ∧ hdrIdem ((ringS 510).hdr 0) = false := by
  unfold RingTakes; decide +kernel

theorem wit_Rings : ((ringS 511).ctx 0).present = true ∧ RingTakes (ringS 511) 0 fqRing 1 ∧ RingTakes (ringS 255) 0 evRing 1 ∧
    ¬RingTakes (ringS 512) 0 fqRing 1 ∧ ¬RingTakes (ringS 256) 0 evRing 1 ∧ ¬RingTakes (base gang1) 0 fqRing 1 := by
  unfold RingTakes; decide +kernel

/-- Lane 1 waits at the JOIN in issue, which lane 0 comes to. -/
def last1 : Gang := { dead1 with thr := [(0, at1 0x10000), (1, { at1 0x10000 with st := .joinWait 7 1 })] }

theorem wit_JoinLast : ReadyIn (base last1) [(0xA, fw 0 7 0 0 0)] ∧
    (let c := its 0xA (fw 0 7 0 0 0) (base last1)
     let wait := fun (i : Nat) => if (c.act &&& last1.kGet 7).getLsbD i then some (7, c.pc) else match (last1.thread i).st with
       | .joinWait n _ => some (n.toNat, (last1.thread i).pc)
       | .exited | .exec | .parked => none
     (∀ i, i < 32 → last1.live.getLsbD i = true → (wait i).isSome = true) ∧ wait 0 = some (7, 0x10000#64) ∧
     ∀ j, j < 32 → (last1.kGet 7).getLsbD j = true → last1.live.getLsbD j = true → wait j = some (7, 0x10000#64)) :=
  ⟨readyIn (by decide +kernel), by decide +kernel⟩

theorem wit_StackTraps : ReadyIn (base (deep 32)) [(0x14, fw 0 2 0 0 6)] ∧ ReadyIn (base (deep 0)) [(0x13, fw 4 0 0 0 6)] ∧
    CanTrap (its 0x14 (fw 0 2 0 0 6) (base (deep 32))) (base (deep 32)) ∧
    maskIf (its 0x14 (fw 0 2 0 0 6) (base (deep 32))).act (fun i => 32 ≤ (((base (deep 32)).gang 0 0).thread i).rstack.length) ≠ 0#32 ∧
    maskIf (its 0x13 (fw 4 0 0 0 6) (base (deep 0))).act (fun i => (((base (deep 0)).gang 0 0).thread i).rstack.isEmpty) ≠ 0#32 :=
  ⟨readyIn (by decide +kernel), readyIn (by decide +kernel), by unfold CanTrap; decide +kernel, by decide +kernel, by decide +kernel⟩

theorem wit_CallTraps : ReadyIn (tables (regs [(1, 2, 2)] gang1)) [(6, fw 0 2 0 0 4)] ∧
    maskIf (its 6 (fw 0 2 0 0 4) (tables (regs [(1, 2, 2)] gang1))).act (fun i => 2 ≤
      ((its 6 (fw 0 2 0 0 4) (tables (regs [(1, 2, 2)] gang1))).srcA ((tables (regs [(1, 2, 2)] gang1)).gang 0 0) i).toNat) = 2#32 ∧
    ReadyIn (tables (regs [(1, 2, 1)] (deep 32))) [(6, fw 0 2 0 0 4)] ∧
    ((tables (regs [(1, 2, 1)] (deep 32))).fetchAll 0 [0x10020, 0x10028]).1 = ([0x0100000000000007, 0x0100000000000007], none) ∧
    (((tables (regs [(1, 2, 1)] (deep 32))).gang 0 0).thread 1).rstack.length = 32 :=
  ⟨readyIn (by decide +kernel), by decide +kernel, readyIn (by decide +kernel), by decide +kernel, by decide +kernel⟩

/-! ## Further witnesses: scratch memory, translation, records -/

/-- The word at scratch address 0 of the core level is poisoned, and that at 0x40000. -/
def sickS (g : Gang) : State := (base g).modMs (fun m => m.mark (locCst 0 0 :: locs (locHbm 0x40000) 1))

theorem wit_ScratchPoison : ReadyIn (sickS gang1) [(0xA4, fw 4 2 3 1 1)] ∧
    (∀ i, i < 2 → (sickS gang1).scratchAt 0 1 (scratchAdv 1 ((its 0xA4 (fw 4 2 3 1 1) (sickS gang1)).srcA gang1 i).toNat 0) 1 = .loc (locCst 0 0)) ∧
    (sickS gang1).ms.poisoned (locCst 0 0) = true ∧ CanTrap (its 0xA4 (fw 4 2 3 1 1) (sickS gang1)) (sickS gang1) :=
  ⟨readyIn (by decide +kernel), by decide +kernel, by decide +kernel, by unfold CanTrap; decide +kernel⟩

theorem wit_ScratchStoreTrap : let s := base (regs [(1, 2, 0x10000)] gang1)
    ReadyIn s [(0xA5, fw 4 2 3 1 1)] ∧ CanTrap (its 0xA5 (fw 4 2 3 1 1) s) s ∧
    maskIf (its 0xA5 (fw 4 2 3 1 1) s).act (fun i => s.scratchAt 0 1 (scratchAdv 1 ((its 0xA5 (fw 4 2 3 1 1) s).srcA (s.gang 0 0) i).toNat 0) 1 = .bad) =
      2#32 := ⟨readyIn (by decide +kernel), by unfold CanTrap; decide +kernel, by decide +kernel⟩

/-- Eight bytes at some addresses of the small state's memory. -/
def withTables (es : List (Nat × Nat)) (s : State) : State :=
  { s with ms := { s.ms with mem := es.foldl (fun m e => putBytes m (locHbm e.1) (leBytes 8 e.2)) s.ms.mem } }

/-- Virtual addresses from 2^30 on have a table of level 4 at 0x4000 and one of level 5 at 0x5000 with these entries; those from 2^31 on
the entry e of level 3. -/
def deepTables (e : Nat) (es : List Nat) : State :=
  withTables ([(0x3008, 0x40B9), (0x3010, e), (0x4000, 0x50B9)] ++ es.zipIdx.map (fun x => (0x5000 + 8 * x.2, x.1))) (base gang1)

/-- The tables of the small state lead to level 3. -/
theorem table3 {rd : Nat → Nat → Prop} (h1 : rd 0x1000 0x20B9) (h2 : rd 0x2000 0x30B9) (va : Nat) (hv : va < 2 ^ 39) :
    TableAt rd 0x1000 va 3 0x3000 true true true := by
  have d1 : 0x1000 + va / 2 ^ (57 - 9 * 1) % 512 * 8 = 0x1000 := by omega
  have d2 : 0x2000 + va / 2 ^ (57 - 9 * 2) % 512 * 8 = 0x2000 := by omega
  exact .down 2 0x2000 0x30B9 true true true (.down 1 0x1000 0x20B9 true true true .top (by decide) (by rwa [d1]) rfl rfl rfl) (by decide)
    (by rwa [d2]) rfl rfl rfl

/-- The deeper tables lead to level 5. -/
theorem table5 {rd : Nat → Nat → Prop} (h1 : rd 0x1000 0x20B9) (h2 : rd 0x2000 0x30B9) (h3 : rd 0x3008 0x40B9) (h4 : rd 0x4000 0x50B9) :
    TableAt rd 0x1000 (2 ^ 30) 5 0x5000 true true true :=
  .down 4 0x4000 0x50B9 true true true (.down 3 0x3000 0x40B9 true true true (table3 h1 h2 _ (by decide)) (by decide) h3 rfl rfl rfl) (by decide)
    h4 rfl rfl rfl

/-- A leaf of a page at a frame; and in a group of 64 KiB. -/
def leafAt (f : Nat) : Nat := f * 2 ^ 12 + 0x1F9
def groupAt (f : Nat) : Nat := leafAt f + 512

/-- Level 5: no entry; a reserved bit; a pointer; a leaf; a group; a broken group. -/
def level5 : List (List Nat) := [[0], [leafAt 7 + 2], [0x70B9], [leafAt 7], (List.range 16).map (fun j => groupAt (32 + j)),
  (List.range 16).map (fun _ => groupAt 32)]

theorem wit_TableWalks : (∀ es ∈ level5, ∀ e ∈ [leafAt 0, leafAt 1], let s := deepTables e es
      ((s.vreg 0 0x201).toNat = 0x1001 ∧ (s.creg 0 0x300).toNat = 0x1001) ∧
      (s.physRead 0x1000 8 = 0x20B9 ∧ s.physRead 0x2000 8 = 0x30B9 ∧ s.physRead 0x3008 8 = 0x40B9 ∧ s.physRead 0x4000 8 = 0x50B9 ∧
       s.physRead 0x3010 8 = e ∧ s.physRead 0x5000 8 = es.getD 0 0) ∧
      ([0x1000, 0x2000, 0x3008, 0x4000].all (fun a => match s.hostWalk 0 a with
        | .ok l => l.rd && s.frameOk 0 1 l.addr && l.addr == a
        | _ => false)) = true) ∧
    leafAt 1 / 2 ^ 12 % 2 ^ 44 * 2 ^ 12 % 2 ^ 30 ≠ 0 ∧ entReserved (leafAt 7) = false ∧ leafAt 7 / 512 % 2 = 0 ∧ groupAt 32 / 512 % 2 = 1 := by
  decide +kernel

/-- The state with a plain leaf at level 5. -/
def plainTables : State := deepTables (leafAt 0) [leafAt 7]

theorem wit_TableAt : TableAt (fun a x => plainTables.physRead a 8 = x) 0x1000 (2 ^ 30) 5 0x5000 true true true ∧
    TableAt (fun a x => plainTables.physRead a 8 = x) 0x1000 (2 ^ 31) 3 0x3000 true true true := by
  have h1 : plainTables.physRead 0x1000 8 = 0x20B9 := by decide +kernel
  have h2 : plainTables.physRead 0x2000 8 = 0x30B9 := by decide +kernel
  have h3 : plainTables.physRead 0x3008 8 = 0x40B9 := by decide +kernel
  have h4 : plainTables.physRead 0x4000 8 = 0x50B9 := by decide +kernel
  exact ⟨table5 h1 h2 h3 h4, table3 h1 h2 _ (by decide)⟩

/-- Both stages map 0x40000, the leaf without D; the dirty log at 0x330000, with its head there. -/
def dirtyLog (en head : Nat) (e : Nat) : State :=
  let s := withTables [(0x3000, e)] (base gang1)
  { s with vifs := Tab.set s.vifs 0 { s.vif 0 with reg := [(0x200, 1#64), (0x201, 0x1001#64), (0x202, word (0x330000 + en)), (0x203, word head)] } }
def rwAcc : Access := { rd := true, wr := true, ex := false }

theorem wit_Translates :
    (∀ e ∈ [(1, 0, 0x0F9), (1, 4096, 0x0F9), (0, 4096, 0x0F9), (1, 4096, 0x1F9)], let s := dirtyLog e.1 e.2.1 e.2.2
      s.cached 0 0x40000 rwAcc = none ∧ (match s.guestWalk 0 0x40000 with
        | .ok g => g.rd && g.wr && g.addr == 0x40000 && canTouch g.refs true
        | _ => false) = true ∧
      (match s.hostWalk 0 0x40000 with
        | .ok h => h.rd && h.wr && (h.dirty == (e.2.2 == 0x1F9)) && s.frameOk 0 rwAcc.kind h.addr
        | _ => false) = true) ∧
    (let s := withTables [(0x3000, 0x1E9)] (base gang1)
     s.cached 0 0x40000 rwAcc = none ∧ (match s.guestWalk 0 0x40000 with | .ok g => g.rd && !g.wr | _ => false) = true) ∧
    ((dirtyLog 1 0 0x0F9).logDirty 0 0x40000 0).isSome = true ∧ ((dirtyLog 1 4095 0x0F9).vreg 0 0x203).toNat % 4096 = 4095 := by decide +kernel

/-- Lane 1's line lies beyond what the tables map. -/
def gapS : Nat → Nat × Nat := fun i => (i, 0x3FFFFFFF + i)
theorem wit_LinesStop : (let r := (base gang1).planVirtual 0 1 .load [gapS 0, gapS 1] 1
    r.1.todo = 2#32 ∧ r.1.stop.map Prod.fst = some 0x40000000 ∧ r.1.go.map LanePlan.lane = [0]) ∧
    ([gapS 0, gapS 1].map Prod.fst).Nodup := by decide +kernel

/-! ## Further witnesses: records that trap, and lines that stop a word -/

/-- Records that a load or an atomic may not use: of an MX format, of host memory, of a window, without permissions, with an element out of it
and OOBT = 1, of scratch memory at its end. -/
def badRecs : List (BitVec 256) := [recOf (2 ^ 56 + 0x40000) (16 + 0x14 * 2 ^ 40) 0 7, recOf (2 * 2 ^ 56 + 0x40000) 16 0 7, recOf (3 * 2 ^ 56 + 0x40000) 16 0 7,
  recOf (0x10 * 2 ^ 56) 16 0 7, recOf (2 ^ 56 + 0x40000) 16 0 0, recOf (2 ^ 56 + 0x40000) 1 0 15, recOf (0x20 * 2 ^ 56 + 0xFFFF) 16 0 7]

theorem wit_RecordTraps : (∀ i, i < 7 → let d := badRecs.getD i 0
      ReadyIn (base (withRec d)) [(0xA2, fw 4 2 3 1 0), (0xA3, fw 4 2 3 1 0)] ∧
      CanTrap (its 0xA2 (fw 4 2 3 1 0) (base (withRec d))) (base (withRec d)) ∧
      ((base (withRec d)).recTrap 0 d .load 1 3#32 (recLanes 3#32 ((its 0xA2 (fw 4 2 3 1 0) (base (withRec d))).srcA (withRec d)))).isSome = true) ∧
    badRecs.map (fun d => (decide (recEfmt d < 0x14), recKind d, recR d, recOobt d, recOut d 0 1 1)) =
      [(false, 1, true, false, false), (true, 2, true, false, false), (true, 3, true, false, false), (true, 0x10, true, false, false),
       (true, 1, false, false, false), (true, 1, true, true, true), (true, 0x20, true, false, false)] ∧
    kindLevel 0x20 = some 1 ∧ (base gang1).scratchAt 0 1 (scratchAdv 1 0xFFFF 0) 1 ≠ .bad ∧ (base gang1).scratchAt 0 1 (scratchAdv 1 0xFFFF 1) 1 = .bad := by
  refine ⟨fun i hi => ⟨readyIn ?_, ?_, ?_⟩, by decide +kernel, by decide +kernel, by decide +kernel, by decide +kernel⟩
  · revert i; decide +kernel
  · revert i; unfold CanTrap; decide +kernel
  · revert i; decide +kernel

theorem wit_AtomTraps : ∀ i, i < 7 → let d := badRecs.getD i 0
    ReadyIn (base (withRec d)) [(0xA8, wAtom), (0xA9, wAtom), (0xAA, fw 4 2 3 1 98304)] ∧ wAtom.type < 18 ∧
    wAtom.sc.toNat / 64 = 0 := by
  refine fun i hi => ⟨readyIn ?_, by decide +kernel, by decide +kernel⟩
  revert i; decide +kernel

/-- The record over a poisoned word. -/
def sickRec (d : BitVec 256) : State := sickS (withRec d)

theorem wit_RecordPoison : ReadyIn (sickRec rec1) [(0xA2, fw 4 2 3 1 0)] ∧ CanTrap (its 0xA2 (fw 4 2 3 1 0) (sickRec rec1)) (sickRec rec1) ∧
    (sickRec rec1).recTrap 0 rec1 .load 1 3#32 (recLanes 3#32 ((its 0xA2 (fw 4 2 3 1 0) (sickRec rec1)).srcA (withRec rec1))) = none ∧
    (let r := planFor 0xA2 (fw 4 2 3 1 0) .load 1 (sickRec rec1)
     r.1.stop = none ∧ (r.1.poison r.2.ms).1 = 3#32 ∧ (r.1.poison r.2.ms).2 = 0x40000) ∧
    ReadyIn (sickRec rec64) [(0xA8, wAtom), (0xA9, wAtom), (0xAA, fw 4 2 3 1 98304)] ∧
    (sickRec rec64).recTrap 0 rec64 .atomic 4 3#32 (recLanes 3#32 ((its 0xA8 wAtom (sickRec rec64)).srcA (withRec rec64))) = none ∧
    (its 0xA8 wAtom (sickRec rec64)).mustWait (sickRec rec64) = false ∧
    (let r := planFor 0xA8 wAtom .atomic 4 (sickRec rec64)
     r.1.stop = none ∧ (r.1.poison r.2.ms).1 ≠ 0#32) :=
  ⟨readyIn (by decide +kernel), by unfold CanTrap; decide +kernel, by decide +kernel, by decide +kernel, readyIn (by decide +kernel),
   by decide +kernel, by decide +kernel, by decide +kernel⟩

/-- A record whose element 1 lies beyond what the tables map, and one whose lines a corrupted entry stops; a record on a discarded page. -/
def recGap : BitVec 256 := recOf (2 ^ 56 + 0x3FFFFFFF) 16 0 7
def recGap64 : BitVec 256 := recOf (2 ^ 56 + 0x3FFFFFFC) (16 + 6 * 2 ^ 40) 0 7
def gapIn (e : Nat) (d : BitVec 256) : State := withTables [(0x3008, e)] (base (withRec d))
/-- The dirty ring is full, and the page's leaf without D. -/
def fullDirty : State := { base (withRec rec1) with vifs := (dirtyLog 1 4096 0x0F9).vifs, ms := (dirtyLog 1 4096 0x0F9).ms }

/-- What stops the plan, as a number: its kind and line. -/
def stopOf (r : Plan × State) : Option (Nat × Nat) := r.1.stop.map (fun e => (match e.2 with
  | .fault false => 0
  | .fault true => 1
  | .discard _ => 2
  | .dirty _ => 3
  | .corrupt => 4, e.1))

theorem wit_RecordParks :
    (∀ e ∈ [0, 3], ReadyIn (gapIn e recGap) [(0xA2, fw 4 2 3 1 0), (0xA3, fw 4 2 3 1 0)] ∧
      (gapIn e recGap).recTrap 0 recGap .load 1 3#32 (recLanes 3#32 ((its 0xA2 (fw 4 2 3 1 0) (gapIn e recGap)).srcA (withRec recGap))) = none ∧
      (let r := planFor 0xA2 (fw 4 2 3 1 0) .load 1 (gapIn e recGap)
       stopOf r = some (if e = 0 then 0 else 4, 0x40000000) ∧ r.2.sched.reports = [] ∧ (e = 0 → r.1.go.map LanePlan.lane = [0])) ∧
      (let r := planFor 0xA3 (fw 4 2 3 1 0) .store 1 (gapIn e recGap)
       stopOf r = some (if e = 0 then 0 else 4, 0x40000000) ∧ r.2.sched.reports = [])) ∧
    (let s := gapIn (2 ^ 59 + 2 ^ 30 + 0x1F9) recGap
     ReadyIn s [(0xA3, fw 4 2 3 1 0)] ∧ (its 0xA3 (fw 4 2 3 1 0) s).mustWait s = false ∧
     stopOf (planFor 0xA3 (fw 4 2 3 1 0) .store 1 s) = some (2, 0x40000000) ∧ stopOf (planFor 0xA2 (fw 4 2 3 1 0) .load 1 s) = none) ∧
    (ReadyIn fullDirty [(0xA3, fw 4 2 3 1 0)] ∧ stopOf (planFor 0xA3 (fw 4 2 3 1 0) .store 1 fullDirty) = some (3, 0x40000)) := by
  refine ⟨fun e he => ⟨readyIn ?_, ?_, ?_, ?_⟩, ⟨readyIn (by decide +kernel), by decide +kernel, by decide +kernel, by decide +kernel⟩,
    readyIn (by decide +kernel), by decide +kernel⟩ <;> revert e <;> decide +kernel

theorem wit_AtomParks : ReadyIn (gapIn 0 recGap64) [(0xA8, wAtom), (0xA9, wAtom), (0xAA, fw 4 2 3 1 98304)] ∧
    (gapIn 0 recGap64).recTrap 0 recGap64 .atomic 4 3#32 (recLanes 3#32 ((its 0xA8 wAtom (gapIn 0 recGap64)).srcA (withRec recGap64))) = none ∧
    (its 0xA8 wAtom (gapIn 0 recGap64)).mustWait (gapIn 0 recGap64) = false ∧
    (let r := planFor 0xA8 wAtom .atomic 4 (gapIn 0 recGap64)
     stopOf r = some (0, 0x40000000) ∧ r.2.sched.reports = [] ∧ r.1.go.map LanePlan.lane = [0]) :=
  ⟨readyIn (by decide +kernel), by decide +kernel, by decide +kernel, by decide +kernel⟩

/-- A store of two lanes through window 0. -/
def winS : State := { pullS with wgs := [(0, wg1 (withRec recWin))] }
def winStore : FullWord := fw 4 2 3 1 0

theorem wit_WindowStores : ReadyIn winS [(0xA3, winStore)] ∧
    winS.recTrap 0 recWin .store 1 3#32 (recLanes 3#32 ((its 0xA3 winStore winS).srcA (withRec recWin))) = none ∧
    (let r := planFor 0xA3 winStore .store 1 winS
     r.1.todo = 0#32 ∧ r.1.stop = none ∧ r.1.go.length = 2 ∧
     (r.1.go.all (fun q => match q.bytes with
       | [.win e off] => decide (txCount e = 1 ∧ off = q.lane)
       | _ => false)) = true) :=
  ⟨readyIn (by decide +kernel), by decide +kernel, by decide +kernel⟩

theorem wit_PostedPlans : (let r := planIn 0xA3 0 recHost .store 1
     (r.1.go.all (fun q => match q.bytes with
       | [.host a] => decide (a = 0x40000 + q.lane)
       | _ => false)) = true ∧ r.1.go.length = 2) ∧
    ((base (withRec recHost)).recTrap 0 recHost .store 1 3#32 (recLanes 3#32 ((its 0xA3 (fw 4 2 3 1 0) (base (withRec recHost))).srcA (withRec recHost)))) =
      none := by decide +kernel

/-- DMOD of a field whose value has bits beyond it; and with lanes that differ. -/
theorem wit_RecordWarns : ReadyIn (base (regs [(0, 2, 2 ^ 40), (1, 2, 5)] { gang1 with d := [(1, rec1)] })) [(0xA1, fw 4 2 1 0 0)] ∧
    dmodField 0 = (0, 56, 8) ∧ 2 ^ 8 ≤ (word (2 ^ 40)).toNat := ⟨readyIn (by decide +kernel), by decide +kernel, by decide +kernel⟩

/-! ## Further witnesses: barriers, claims, tasks -/

/-- Wired barrier 0 of the core, broken or not; the gang of the small state takes part. -/
def barS (broken : Bool) (g : Gang) : State :=
  let s := base g
  let b : Barrier := { (default : Barrier) with launch := 0, i := 0, scope := 2, inst := s.barInst 0 2, broken := broken, parts := [(0, 0)], arrived := [] }
  { s with sched := { s.sched with barriers := [b] } }

theorem wit_BarrierArrives : (∀ b : Bool, ReadyIn (barS b gang1) [(0xC3, fw 4 2 3 1 2048)]) ∧
    (let c := its 0xC3 (fw 4 2 3 1 2048) (barS true gang1)
     (∀ l, l < 32 → gang1.live.getLsbD l = true → c.act.getLsbD l = true) ∧ c.act = 3#32 ∧ gang1.parks = [] ∧ CanTrap c (barS true gang1)) ∧
    (barS false gang1).sched.barriers.map (fun b => ((barS false gang1).isBar 0 0 2 b, b.broken)) = [(true, false)] ∧
    (barS true gang1).sched.barriers.map (fun b => ((barS true gang1).isBar 0 0 2 b, b.broken)) = [(true, true)] :=
  ⟨fun b => by cases b <;> exact readyIn (by decide +kernel), by unfold CanTrap; decide +kernel, by decide +kernel, by decide +kernel⟩

theorem wit_BarrierChecks : ReadyIn (base gang1) ([0, 1, 5, 6].map (fun sc => (0xC3, fw 4 2 3 1 (sc * 1024)))) ∧
    ([0, 1, 5, 6].map (fun sc => (fw 4 2 3 1 (sc * 1024)).scope)) = [0, 1, 5, 6] ∧
    ReadyIn (base gang1) [(0xC3, fw 4 2 3 1 2049)] ∧ (fw 4 2 3 1 2049).scope = 2 ∧
    hdrWbmask ((base gang1).hdr 0) / 2 ^ ((fw 4 2 3 1 2049).xb % 8) % 2 = 0 ∧ CanTrap (its 0xC3 (fw 4 2 3 1 2049) (base gang1)) (base gang1) :=
  ⟨readyIn (by decide +kernel), by decide +kernel, readyIn (by decide +kernel), by decide +kernel, by decide +kernel, by unfold CanTrap; decide +kernel⟩

/-- A gang has arrived at a barrier that is broken. -/
def brokenS : State :=
  let s := barS true (parkOn (.barw 0 2) none none)
  { s with sched := { s.sched with barriers := s.sched.barriers.map (fun b => { b with arrived := [(0, 0)] }) } }

theorem wit_BarrierBroken : (brokenS.sched.barriers[0]?.map (fun b => (b.broken, b.arrived.filter (fun p => (brokenS.wg p.1).status == .running &&
      (brokenS.gang p.1 p.2).barAll == some (b.i, b.scope))))) = some (true, [(0, 0)]) ∧
    (brokenS.gang 0 0).inTrap = false ∧ (brokenS.gang 0 0).inUi = false ∧ codeAddr (brokenS.gang 0 0).tvec ≠ 0#64 ∧
    (brokenS.wg 0).status = .running := by decide +kernel

/-- A CLAIM of slot n with d2, d3, v1 and the state of slot 4. -/
def claimOn (ds dd : BitVec 256) (len : Nat) (st : SlotState) : State :=
  withWg (fun r => { r with slots := [(4, slotC st)] }) (base { regs [(0, 1, len), (1, 1, len)] gang1 with d := [(2, ds), (3, dd)] })

/-- The record of 64 bytes of a kind, with W and R. -/
def recK (k : Nat) : BitVec 256 := recOf (k * 2 ^ 56 + 0x40000) 64 0 3

/-- Claims that trap: the word's modifier, the two records, the length operand, the slot's state. -/
def claimTraps : List (Nat × BitVec 256 × BitVec 256 × Nat × SlotState) :=
  [(6, recK 1, recK 1, 64, .free), (0, recK 1, recK 1, 0, .free), (0, recK 1, recK 1, 65, .free), (0, recK 1, recK 1, 64 + 8 * 2 ^ 32 + 2 ^ 63, .free),
   (0, recK 1, recK 1, 64 + 65536 * 2 ^ 32 + 2 ^ 63, .free), (0, recK 0x10, recK 1, 64, .free), (0, recK 0, recK 1, 64, .free),
   (0, recK 1, recK 0x11, 64, .free), (0, recK 1, recK 0x10, 64, .free), (4, recK 1, recK 1, 64, .free),
   (4, recPut (recK 1) 3 0 1 0, recK 0x10, 64, .free), (4, recK 1, recPut (recK 0x10) 3 1 1 0, 64, .free), (0, recK 1, recK 1, 64, .live),
   (0, recK 1, recK 1, 64, .walking)]

/-- Which check of CLAIM fails: the operands, the barrier link, the records' kinds and permissions, the slot's state. -/
def claimFails (e : Nat × BitVec 256 × BitVec 256 × Nat × SlotState) : Nat × Option (Nat × Nat) :=
  let s := claimOn e.2.1 e.2.2.1 e.2.2.2.1 e.2.2.2.2
  let c := its 0xD2 (fw 4 2 3 1 e.1) s
  let x := (c.newSlot (s.gang 0 0)).1
  if s.claimBad 0 x then (1, none)
  else match s.linkBad 0 x with
    | some t => (2, some t)
    | none => match x.kindTrap (c.newSlot (s.gang 0 0)).2.1 (c.newSlot (s.gang 0 0)).2.2 with
      | some t => (3, some t)
      | none => (4, none)

theorem wit_ClaimTraps : claimTraps.all (fun e => isReady 0xD2 (fw 4 2 3 1 e.1) (claimOn e.2.1 e.2.2.1 e.2.2.2.1 e.2.2.2.2)) = true ∧
    claimTraps.map claimFails = [(1, none), (1, none), (1, none), (2, some (0x01, 6)), (2, some (0x03, 65536)), (3, some (0x0D, 0x40000)),
      (3, some (0x05, 0)), (3, some (0x0D, 0x40000)), (3, some (0x05, 0)), (3, some (0x05, 0)), (3, some (0x0D, 0x40000)), (3, some (0x0D, 0x40000)),
      (4, none), (4, none)] ∧
    CanTrap (its 0xD2 (fw 4 2 3 1 0) (claimOn (recK 1) (recK 1) 64 .live)) (claimOn (recK 1) (recK 1) 64 .live) := by
  unfold CanTrap; decide +kernel

theorem wit_SlotTraps : ReadyIn (claimS gang1 .live) [(0xD2, fw 8 2 3 1 0), (0xD3, fw 4 8 3 1 0), (0xD4, fw 8 0 0 0 0), (0xD5, fw 4 8 0 0 0)] ∧
    ReadyIn (claimS gang1 .walking) [(0xD4, fw 4 0 0 0 0)] ∧ (Tab.get ((claimS gang1 .walking).wg 0).slots 4).st = .walking ∧
    (∀ l ∈ [0, 0x100001, 65], isReady 0xD3 (fw 4 2 3 4 0) (withWg (fun r => { r with slots := [(2, slotC .live)] })
      (base (regs [(0, 4, l), (1, 4, l)] (claimG gang1)))) = true) ∧
    (ReadyIn (withWg (fun r => { r with flows := List.replicate 64 (flow1 false) }) (claimS split1 .live)) [(0xD3, fw 4 2 3 1 0)] ∧
      ((claimS split1 .live).hdr 0 = hdr1 ∧ hdrClaims hdr1 = 8)) :=
  ⟨readyIn (by decide +kernel), readyIn (by decide +kernel), by decide +kernel, by decide +kernel, readyIn (by decide +kernel), by decide +kernel⟩

/-- An MMA of BF16 elements, of FP8 elements with 32-bit scales, and with MX scales. -/
def taskF (ty mode k : Nat) : BitVec 512 :=
  taskOf [ty * 2 ^ 56 + ty * 2 ^ 52 + mode * 2 ^ 50, k * 2 ^ 37, 2 ^ 62, 2 ^ 62 + 0x1000, 0, 0, 0x2000, 0]
def floatTask (ty mode k : Nat) : State := tasks (some 0) [{ record := taskF ty mode k, begun := true, kstep := 0, done := false }]

theorem wit_FloatTasks : ∀ e ∈ [(2, 0, 32, 1), (0, 1, 128, 1), (0, 2, 32, 1), (0, 2, 33, 2)], let s := floatTask e.1 e.2.1 e.2.2.1
    let t := taskF e.1 e.2.1 e.2.2.1
    (s.engine 0).busy = some 0 ∧ (s.wg 0).chain.map Task.record = [t] ∧ tOpc t = 0 ∧ tSteps t = 1 ∧ tAtype t = e.1 ∧ tAtype t ≠ 4 ∧ tSmode t = e.2.1 ∧
    tGroups t = e.2.2.2 ∧
    (s.fetchRows 0 (tAlvl t) (tAaddr t) (tM t) (tEs t) 0 (tRowBytes t)).2 = false ∧
    (s.fetchRows 0 (tBlvl t) (tBaddr t) (tN t) (tEs t) 0 (tRowBytes t)).2 = false ∧
    (scaleBytes t 0 (tGroups t)).all (fun y => !s.ms.poisoned (locScl 0 y)) = true := by decide +kernel

theorem wit_GroupValues : FvFin (.fin false 1 0) ∧ fvNum (.fin false 1 0) + fvNum (.fin true 1 0) = 0 ∧ fvNum (.fin false 1 0) + fvNum (.fin false 1 0) ≠ 0 ∧
    (fmtOf 14).decode 0x3F800000 = .fin false 8388608 (-23) ∧ (fmtOf 14).decode 0x7F800000 = .inf false ∧
    ((fmtOf 14).decode 0x7FC00000).isNan = true ∧ (FV.fin false 0 0).isZero = true ∧
    (let v := elProd ((fmtOf 13).decode 0x3F80) ((fmtOf 13).decode 0x3F80)
     FvFin v ∧ fvNum v ≠ 0 ∧ ((max (0x3F80 / 2 ^ 7 % 2 ^ 8) 1 : Nat) : Int) - 127 = 0) := by
  have h : elProd ((fmtOf 13).decode 0x3F80) ((fmtOf 13).decode 0x3F80) = .fin false 16384 (-14) := by decide +kernel
  refine ⟨⟨_, _, _, rfl⟩, by norm_num [fvNum], by norm_num [fvNum], by decide +kernel, by decide +kernel, by decide +kernel, by decide +kernel, ?_⟩
  rw [h]
  exact ⟨⟨_, _, _, rfl⟩, by norm_num [fvNum], by decide⟩

/-- The tile move of the descriptor as it starts, with a turn, and with its bytes read. -/
def tileMv : Xfer := (base tile1).tileXfer 0 (tileOf tileDesc)
def tileS (mv : Xfer) : State := withWg (fun r => { r with moves := [tileIn mv] }) (base tile1)

theorem wit_TileUnits : tileMv.reads = [List.range 8] ∧ tileMv.writes = [List.range 8] ∧ tileMv.quota ≤ tileMv.got.length ∧
    ((tileS { tileMv with quota := 4096 }).wg 0).tileOn 3 = some (tileIn { tileMv with quota := 4096 }) ∧ Tab.get tileMv.got 0 = none ∧
    (let mv := { tileMv with reads := [], got := (List.range 8).map (fun b => (b, some (1#8, false))) }
     ((tileS mv).wg 0).tileOn 3 = some (tileIn mv) ∧ ∀ p ∈ List.range 8, Tab.get mv.got p ≠ none) ∧
    tileMv.writes ≠ [] := by decide +kernel

/-- A copy claim of MX records, with their scales in records. -/
def mxSlot : Slot :=
  { slotC .live with ds := recOf (2 ^ 56 + 0x40000) (64 + 0x12 * 2 ^ 40) 0 3, dd := recOf (2 ^ 56 + 0x41000) (64 + 0x12 * 2 ^ 40) 0 3
                     ls := recOf (2 ^ 56 + 0x42000) 2 0 1, ld := recOf (2 ^ 56 + 0x43000) 2 0 2
                     pins := (List.range 4).map (fun k => { vpage := 0x40 + k, gpage := 0x40 + k, frame := 0x40 + k, gbits := 12, hbits := 12, disc := false, dst := k % 2 == 1 }) }

theorem wit_MxFlows : mxSlot.kind = 0 ∧ isMx (recEfmt mxSlot.dd) = true ∧ (flow1 false).scales mxSlot ≠ [] ∧
    (((flow1 false).scales mxSlot)[0]?.map (fun e => e.2 == scaleOf mxSlot.dd mxSlot.ld 0)) = some true ∧ 1 ∈ (flow1 false).targets mxSlot ∧
    (((flows mxSlot false).flowXfer 0 mxSlot (flow1 false)).writes.any (fun u => u.contains 0 && u.contains 1)) = true := by decide +kernel

/-! ## Further witnesses: deliveries, links, Q(t) -/

/-- The delivery of an entry to window 7 under way. -/
def landS (e : Entry) : State := (loopS e).beginLanding key7
/-- What the delivery of window 7 still writes; whether it stands at a flag in its turn, with bytes at locations of their own. -/
def landLeft (s : State) : List (List (Nat × Nat)) := ((s.landingOf key7).map Landing.left).getD []
def landBits (s : State) : Option (Bool × Bool × Bool) :=
  (s.landingOf key7).map (fun l => (l.atFlag, s.flagReady l, decide (l.locs.Nodup ∧ l.locs.length = l.parcel.data.length)))

theorem wit_Landings : landLeft (landS (entry7 false 0xFFE)) = [[(0, 2)]] ∧ landBits (landS (entry7 false 0xFFE)) = some (false, true, true) ∧
    landLeft (landS (entry7 true 0)) = [[(0, 2)]] ∧ landBits (landS (entry7 true 0)) = some (true, true, true) ∧
    landLeft (redS.beginLanding key7) = [[(0, 4)]] ∧ landBits (redS.beginLanding key7) = some (false, true, true) ∧
    (landS (entry7 false 0)).fab.clearing = [] ∧
    ((landS (entry7 false 0)).fab.landing.any (fun l => l.parcel.rwin == 7)) = true ∧ (loopS (entry7 false 0)).landingOf key7 = none := by
  decide +kernel

/-- A window that is being cleared; a run of two entries; a packet of another package in delivery. -/
def clearingS : State := { loopS (entry7 false 0) with fab := { (loopS (entry7 false 0)).fab with clearing := [7] } }

theorem wit_LandingForms : clearingS.landingOf key7 = none ∧ clearingS.fab.clearing.contains key7.rwin.toNat = true ∧
    (takeRun key7 0 0 false [entry7 false 0, { entry7 true 2 with id := 2 }, { entry7 false 4 with id := 3 }]).map (fun e => (e.id, e.ord)) =
      [(1, false), (2, true)] ∧
    (let s := (inS 0).beginLanding (hdrKey (in7 0).hdr)
     (s.landingOf (hdrKey (in7 0).hdr)).map (fun l => (l.hdr.isSome, l.left)) = some (true, [[(0, 1)]])) := by decide +kernel

/-- A static port; a link that waits for what its NAK named; a port without room. -/
def staticLink : State := { linkS link1 with fab := { (linkS link1).fab with ports := Tab.set (linkS link1).fab.ports 2 { Port.reset with cfg := 5, calendar := [(0, 0x8003#16)] } } }
def nakLink : State := linkS { link1 with nak := true }
def noRoom : State := { linkS link1 with fab := { (linkS link1).fab with ports := Tab.set (linkS link1).fab.ports 2 { Port.reset with calendar := [(0, 0x8003#16), (31, 0x8003#16)], room := 0 } } }

/-- A flit out of its turn. -/
def flit6 : BitVec 768 := mkFlit 6 7 true 0 0 false [9#8]

set_option maxRecDepth 20000 in
theorem wit_LinkNaks : cfgStatic (staticLink.port 2).cfg = true ∧ 0 < (staticLink.port 2).takes 1 ∧ (noRoom.port 2).takes 1 = 0 ∧
    (nakLink.link 3).nak = true ∧ (flitOk flit6 = true ∧ flitType flit6 < 2) ∧ flitLseq flit6 ≠ (nakLink.link 3).expect ∧
    covered (nakLink.link 3).lack (flitLseq flit6) = false ∧
    nakLink.facing 2 = some 3 ∧ noRoom.facing 2 = some 3 := by decide +kernel

/-- Accesses of lanes 0 and 1 of one word, and of lane 0 of a later one, in Q(t). -/
def planQ (lane a n : Nat) : LanePlan := { lane := lane, addr := a, bytes := (locs (locHbm a) n).map .loc }
def entryQ (num lane a n : Nat) (act : QAct) : QEntry :=
  { num := num, lane := lane, plan := planQ lane a n, act := act, rel := none, acq := none, run := false }
def queueS (l : List QEntry) : State := base { gang1 with queue := l }
def someQueue : List QEntry := [entryQ 1 0 0x40000 1 (.store [5#8] []), entryQ 1 1 0x40008 1 (.store [6#8] []), entryQ 2 0 0x40000 1 (.load 4 false 0),
  entryQ 3 1 0x40010 4 (.rmw (.atom 1 2 4 7) 5 false 2), entryQ 4 0 0x40020 1 (.load 6 true 0)]

theorem wit_Entries : ((queueS someQueue).gang 0 0).queue = someQueue ∧ someQueue.all (fun e => e.rel.isNone && e.acq.isNone && !e.bank && !e.run) = true ∧
    (List.range 5).map (fun k => (someQueue.take k).any (fun a => a.before (someQueue.getD k default))) = [false, false, true, false, false] ∧
    ((entryQ 1 0 0x40000 1 (.store [5#8] [])).before { entryQ 2 0 0x41000 1 (.store [5#8] []) with rel := some 2 } = true) ∧
    (({ entryQ 1 0 0x40000 1 (.load 4 false 0) with acq := some 2 } : QEntry).before (entryQ 2 0 0x41000 1 (.load 4 false 0)) = true) ∧
    ((entryQ 1 0 0x40000 1 (.window [5#8] 0 false default)).before (entryQ 2 0 0x41000 1 (.window [5#8] 0 false default)) = true) := by decide +kernel

/-- A load, a store and an atomic of the small state whose accesses are to stay in Q(t). -/
theorem wit_Deferred :
    (∀ e ∈ [(0xA2, fw 4 2 3 1 0), (0xA3, fw 4 2 3 1 0)], let s := base (withRec rec1)
      isReady e.1 e.2 s = true ∧ (its e.1 e.2 s).late s.deferring = true ∧ its e.1 e.2 s.deferring = its e.1 e.2 s ∧
      (its e.1 e.2 s).mustWait s.deferring = false ∧
      (let r := planFor e.1 e.2 (if e.1 = 0xA2 then .load else .store) 1 s.deferring
       r.1.todo = 0#32 ∧ r.1.stop = none ∧ (r.1.poison r.2.ms).1 = 0#32 ∧ r.1.go.length = 2)) ∧
    (∀ e ∈ [(0xA8, wAtom), (0xA9, wAtom), (0xAA, fw 4 2 3 1 98304)], let s := base (withRec rec64)
      isReady e.1 e.2 s = true ∧ (its e.1 e.2 s).late s.deferring = true ∧
      (let r := planFor e.1 e.2 .atomic 4 s.deferring
       r.1.todo = 0#32 ∧ r.1.stop = none ∧ (r.1.poison r.2.ms).1 = 0#32 ∧ r.1.go.length = 2)) ∧
    (∀ e ∈ [(0xA4, fw 4 2 3 1 1), (0xA5, fw 4 2 3 1 1)], let s := base gang1
      isReady e.1 e.2 s = true ∧ (its e.1 e.2 s).late s.deferring = true ∧ (its e.1 e.2 s).mustWait s.deferring = false ∧
      (s.scrBad 0 1 1 [(0, scratchAdv 1 0 0), (1, scratchAdv 1 0 0)]).1 = 0#32) := by decide +kernel

/-- A flow in progress on the Iris of cluster 0. -/
theorem wit_IrisTurns : (movingS { reads := [[0]], writes := [[0]] }).nextXfer 0 = some (.flow 0 5) ∧
    ((movingS { reads := [[0]], writes := [[0]] }).wgs.map Prod.fst).Nodup := by decide +kernel

/-- The tables of context 0 map a page of window 0. -/
def eventS : State :=
  let s := withTables [(0x6000, 0x70B9), (0x7000, 0x80B9), (0x8008, 2 ^ 30 + 0x1F9), (0x3008, 0xFE * 2 ^ 48 + 0x1F9)] (base gang1)
  { s with
    ctxs := [(0, { ringCtx 0 with reg := Tab.set (ringCtx 0).reg 0x300 0x6001#64 })]
    vifs := Tab.set s.vifs 0 { s.vif 0 with txw := [(0, recOf (2 ^ 63 + 0xFFF) 0 0 0)] } }

theorem wit_EventRecords : (Tab.keys eventS.ctxs) = [0] ∧ RingTakes eventS 0 evRing 1 := by unfold RingTakes; decide +kernel
theorem wit_EventWindow : eventS.hasTxWindow 0 = true := by decide +kernel

/-! ## Ill-formed terms are refused, each by its check -/

theorem test_illFormed : (Instr.add (fw 4 2 3 1 (31 * 8192))).wellFormed = false ∧  -- TYPE not accepted (check 2)
    (Instr.vtbl (fw 8 2 3 4 3)).wellFormed = false ∧ (Instr.vtbl (fw 8 2 3 4 2)).wellFormed = true ∧
    (Instr.kopOr (fw 4 2 3 1 0)).wellFormed = false ∧  -- SOP 0 is KOP.SET
    (Instr.pair { pair1 with a := { pair1.a with hop := 0x7F } }).wellFormed = false ∧  -- no half form (check 3)
    (Instr.stbWindow (fw 4 2 3 1 0)).wellFormed = false ∧  -- no word of its own
    (Instr.mma 48).wellFormed = false ∧ (Instr.mma 47).wellFormed = true ∧
    (Instr.joinRelease 0 0 8).wellFormed = false ∧ (Instr.supplyDroop 4).wellFormed = false ∧
    (Instr.slotPreamble 16 none).wellFormed = false ∧ (Instr.bindRecordWrite 256 0).wellFormed = false ∧
    (Instr.rxWindowClear 4096).wellFormed = false ∧ (Instr.dltailWrite 64 0).wellFormed = false ∧
    (Instr.contextCreate 0 1024).wellFormed = false ∧ (Instr.plimSet 1199).wellFormed = false ∧ (Instr.plimSet 3200).wellFormed = true := by
  decide +kernel

/-! ## Words written out from the encoding tables (R116 to R130), one of every family and the worked examples of spec/ -/

/-- `vtbl.hi v8, v2, v3, v4` and `shfi.xor v6, v5, 1` as spec/17_isa_vector.md works them. -/
theorem test_decode_worked : decodeNat 0x14C020080C100002 = .ok (.vtbl (fw 8 2 3 4 2)) ∧
    decodeNat 0x2440181404000028 = .ok (.shfi (fw 6 5 1 0 0x28)) := by decide +kernel
theorem test_decode_control : decodeNat 0x00C0001400000038 = .ok (.brx (fw 0 5 0 0 0x38)) ∧
    decodeNat 0x7C0800000000002A = .ok (.trap { fw 0 0 0 0 42 with h := true, gp := 1 }) := by decide +kernel
theorem test_decode_integer : decodeNat 0x088010081400E000 = .ok (.add (fw 4 2 5 0 0xE000)) ∧
    decodeNat 0x0D80401C24206005 = .ok (.fshf (fw 16 7 9 8 0x6005)) := by decide +kernel
theorem test_decode_packed : decodeNat 0x1380584780010058 = .ok (.vcmp (fw 22 17 224 0 0x10058)) := by decide +kernel
theorem test_decode_memory : decodeNat 0x28C000201C086050 = .ok (.stb (fw 0 8 7 2 0x6050)) ∧
    decodeNat 0x2A40140019016500 = .ok (.cas (fw 5 0 6 0x40 0x16500)) := by decide +kernel
theorem test_decode_waits : decodeNat 0x32400C041C2C0CC0 = .ok (.wseq (fw 3 1 7 11 0xCC0)) := by decide +kernel
theorem test_decode_engines : decodeNat 0x3400006000000000 = .ok (.menq (fw 0 24 0 0 0)) ∧
    decodeNat 0x348000080C100000 = .ok (.claim (fw 0 2 3 4 0)) ∧ decodeNat 0x34C0040020240001 = .ok (.flow (fw 1 0 8 9 1)) := by decide +kernel
theorem test_decode_fabric : decodeNat 0x3800380000001400 = .ok (.rfence (fw 14 0 0 0 0x1400)) ∧
    decodeNat 0x38800008100C0000 = .ok (.uint (fw 0 2 4 3 0)) := by decide +kernel
theorem test_decode_pair : decodeNat 0x8201020014048700 = .ok (.pair pair1) := by decide +kernel
theorem test_decode_reserved : decodeNat 0x3FC0000000000000 = .error .opcode := by decide +kernel

/-! ## Single steps -/

/-- The gang after an instruction. -/
def after (i : Instr) (s : State) : Gang := match exec i s with
  | .next t => t.gang 0 0
  | .fault _ | .refused _ => default

def vs (a b c : Nat) : State := base (regs [(0, 2, a), (0, 3, b), (0, 1, c)] gang1)
def ones : Nat := 2 ^ 64 - 1
/-- v4 of lane 0 after a word. -/
def v4 (i : Instr) (s : State) : Nat := ((after i s).vGet 0 4).toNat

theorem test_add_wraps : v4 (.add (fw 4 2 3 1 57344)) (vs ones 2 0) = 1 := by decide +kernel
theorem test_sub_saturates : v4 (.sub (fw 4 2 3 1 (11 * 8192 + 512))) (vs 0 1 0) = 0 := by decide +kernel
theorem test_mulh_signed : v4 (.mulh (fw 4 2 3 1 57344)) (vs ones 1 0) = ones := by decide +kernel
theorem test_addc_carry : v4 (.addc (fw 4 2 3 1 57344)) (vs ones 1 0) = 0 ∧ (after (.addc (fw 4 2 3 1 57344)) (vs ones 1 0)).pGet 0 1 = true := by
  decide +kernel
theorem test_div_zero : v4 (.div (fw 4 2 3 0 57344)) (vs 7 0 0) = ones ∧ (after (.div (fw 4 2 3 0 57344)) (vs 7 0 0)).warns = 2#64 := by
  decide +kernel
theorem test_div_truncates : v4 (.div (fw 4 2 3 1 57344)) (vs (2 ^ 64 - 7) 2 0) = 2 ^ 64 - 3 := by decide +kernel
theorem test_shl_modulo : v4 (.shl (fw 4 2 3 1 57344)) (vs 5 65 0) = 10 := by decide +kernel
theorem test_sar_sign : v4 (.sar (fw 4 2 3 1 57344)) (vs (2 ^ 63) 63 0) = ones := by decide +kernel
theorem test_clz_zero : v4 (.clz (fw 4 2 3 1 57360)) (vs 0 0 0) = 64 := by decide +kernel
theorem test_bfe_signed : v4 (.bfe (fw 4 2 3 1 57344)) (vs 0xF0 4 4) = ones := by decide +kernel
theorem test_cmp_signed : (after (.cmp (fw 7 2 3 1 57376)) (vs ones 0 0)).pGet 0 7 = true := by decide +kernel
theorem test_movi_sign : v4 (.movi (fw 4 0 0xFF 0xFF 0x3FFFC)) (vs 0 0 0) = ones := by decide +kernel
theorem test_vadd_lanes : v4 (.vadd (fw 4 2 3 1 0)) (vs 0x01FF 0x0101 0) = 0x0200 := by decide +kernel

/-- R35: a tie rounds to even (spec/04_numbers_notes.md). -/
theorem test_fadd_tie : v4 (.fadd (fw 4 2 3 1 (14 * 8192))) (vs 0x4B800000 0x3F800000 0) = 0x4B800000 := by decide +kernel
theorem test_fadd_exact : v4 (.fadd (fw 4 2 3 1 (14 * 8192))) (vs 0x40000000 0x4B800000 0) = 0x4B800001 := by decide +kernel
/-- Part 1 of the packing example of spec/17_isa_vector.md: 448 and 500 to E4M3, the second overflows to NaN. -/
theorem test_fcvt_part : v4 (.fcvt (fw 4 2 1 0 (16 * 8192 + 2 * 16 + 8))) (vs 0x43FA000043E00000 0 0) = 0x7F7E0000 := by decide +kernel
/-- The reduction of spec/17_isa_vector.md without its third contributor. -/
theorem test_red_tree : v4 (.red (fw 4 2 0 0 (14 * 8192))) (base (regs [(0, 2, 0x4B800000), (1, 2, 0x3F800000)] gang1)) = 0x4B800000 := by
  decide +kernel

/-- R289: `trap 42` in lane 3 alone at 0x2008. -/
def trapG : Gang :=
  { gang1 with thr := (List.range 4).map (fun i => (i, at1 0x2008)), splits := [{ id := 0, lanes := 15, replay := none }], p := [(3, 2#8)] }
def trapS : State := { base trapG with aux := { (base trapG).aux with cur := some { wg := 0, gang := 0, split := 0, pc := 0x2008, replay := none } } }
theorem test_trap_next : (after (.trap { fw 0 0 0 0 42 with gp := 1 }) trapS).tpc = 0x2010#64 ∧
    (after (.trap { fw 0 0 0 0 42 with gp := 1 }) trapS).tinfo = 0x2A#64 ∧
    (after (.trap { fw 0 0 0 0 42 with gp := 1 }) trapS).tmask = 8#64 := by decide +kernel
theorem test_call_pushes : ((after (.call (fw 0 0 0 0 16)) (base gang1)).thread 0).rstack = [0x10008#64] ∧
    ((after (.call (fw 0 0 0 0 16)) (base gang1)).thread 0).pc = 0x10020#64 := by decide +kernel
theorem test_ret_pops : ((after (.ret (fw 0 0 0 0 0)) (base (deep 1))).thread 0).pc = 0x10008#64 ∧
    ((after (.ret (fw 0 0 0 0 0)) (base (deep 1))).thread 0).rstack = [] := by decide +kernel
theorem test_exit_ends : ((after (.exit (fw 0 0 0 0 0)) (base gang1)).thread 1).st = .exited := by decide +kernel
theorem test_rfence_result : v4 (.rfence (fw 4 0 0 0 0x1400)) (base { gang1 with fCode := 4, fMask := 4 }) = 0x40004 := by decide +kernel
/-- R120: the classes thread and copy of 0x70 of spec/22_prog_claim.md. -/
theorem test_classes : clsOf (fw 3 1 7 11 0xCC0) = 3 := by decide +kernel
/-- R18: targets 0x3000 of lane 0 and 0x2000 of lane 1, in ascending order after the split. -/
theorem test_targets : (gang1.scatter 0 3#32 0x10008 (fun i => if i = 0 then 0x3000 else 0x2000)).splits.map (·.lanes) =
    [0#32, 2#32, 1#32] := by decide +kernel
/-- R286: die 1, cluster 4, core 2 of package 9 (spec/28_prog_uint.md). -/
def placedS : State := { withWg (fun r => { r with core := 96 + 4 * 8 + 2 }) (base gang1) with prim := { (base gang1).prim with pkg := 9 } }
theorem test_sysid : v4 (.sysrd (fw 4 0 0 0 0)) placedS = 0x910009 := by decide +kernel
theorem test_ldc_bounds : v4 (.ldc (fw 4 2 0 0 (3 * 8192))) (vs 0 0 0) = 0x0102030405060708 ∧ v4 (.ldc (fw 4 2 0 0 (3 * 8192))) (vs 57 0 0) = 0 := by
  decide +kernel
theorem test_sts_then_lds : (match exec (.sts (fw 4 2 0 0 (2 * 8192 + 1))) (base (regs [(0, 2, 8), (0, 4, 0x80000001), (1, 2, 16)] gang1)) with
    | .next t => Memory.read t.ms.mem (locCst 0 8) == 1#8 && Memory.read t.ms.mem (locCst 0 11) == 0x80#8
    | _ => false) = true := by decide +kernel
theorem test_step_adds : (match step (fetches 0x088010081400E000) with
    | .next t => ((t.gang 0 0).thread 0).pc == 0x10008#64
    | _ => false) = true := by decide +kernel

/-- FIPS 197, the example of AES-256. -/
theorem test_aes : aes256 (List.range 32) ((List.range 16).map (17 * ·)) =
    [0x8E, 0xA2, 0xB7, 0xCA, 0x51, 0x67, 0x45, 0xBF, 0xEA, 0xFC, 0x49, 0x90, 0x4B, 0x49, 0x60, 0x89] := by decide +kernel

end Sys2Proof.Tests
end

/-! SUPPORT. Integer instructions as their statements write them: exact integers, delivered in the word's type (R155 to R158). -/

namespace Sys2Proof.Machine

open Sys2Proof

/-! ## What a ready word is -/

/-- The fields of a ready word are those that exec was given. -/
theorem Ready.word_eq {op : Nat} {w : FullWord} {s : State} {c : Issue} (h : Ready op w s c) : c.w = w :=
  (State.issue_form op w s c h.issued).2.1

/-- A ready word of the 64-bit integer types reads and delivers in one of them: .b64, .s64 or .n64 (R154). -/
theorem Ready.ty64 {op : Nat} {w : FullWord} {s : State} {c : Issue} (h : Ready op w s c)
    (hf : (form op w).bind Form.types = some Sys2Proof.ty64) : c.ty ∈ Sys2Proof.ty64 := by
  have htypes : c.f.types = some Sys2Proof.ty64 := by simpa [h.formed] using hf
  have hlegal := h.legal
  simp only [Form.illegal, htypes, Bool.or_eq_false_iff, Bool.not_eq_false'] at hlegal
  obtain ⟨⟨⟨-, hmem⟩, -⟩, -⟩ := hlegal
  simp only [Sys2Proof.ty64, List.contains_eq_mem, List.mem_cons, List.not_mem_nil, or_false, decide_eq_true_eq] at hmem
  simp only [Issue.ty, Form.typeEff, h.word_eq, Sys2Proof.ty64]
  rcases hmem with e | e | e <;> rw [e] <;> split <;> simp_all [Form.bSubst]

/-! ## Lane-wise words, from what each lane gives -/

/-- A ready lane-wise word that raises no flag performs, and each lane gives what out says. The lanes' results depend on no
warning. -/
theorem laneWord_gives {op : Nat} {w : FullWord} {s : State} {c : Issue} {f : Issue → Gang → Nat → LaneOut} {out : Nat → LaneOut}
    (h : Ready op w s c) (hf : ∀ a b, f c { c.g s with warns := a, warnpc := b } = f c (c.g s)) (ho : ∀ i, f c (c.g s) i = out i)
    (hq : ∀ i, (out i).flags = 0) (hp : ∀ i n x, (out i).pred = some (n, x) → n < 8) :
    ∃ t, laneWord op w s f = .next t ∧ LaneDone c s t out := by
  obtain rfl : f c (c.g s) = out := funext ho
  refine laneWord_ready op w s c f h (fun bits => ?_) (fun i _ => ?_) hp
  · rw [Gang.warn_eq]; exact hf _ _
  · rw [hq i]; exact Nat.zero_and _

/-- The same for a v result alone. -/
theorem laneVal_gives {op : Nat} {w : FullWord} {s : State} {c : Issue} {f : Issue → Gang → Nat → Word} {out : Nat → Word}
    (h : Ready op w s c) (hf : ∀ a b, f c { c.g s with warns := a, warnpc := b } = f c (c.g s)) (ho : ∀ i, f c (c.g s) i = out i) :
    ∃ t, laneVal op w s f = .next t ∧ LaneDone c s t (fun i => .v (out i)) :=
  laneWord_gives h (fun a b => by simp only [hf a b]) (fun i => by simp only [ho i]) (fun _ => rfl) (fun _ _ _ e => nomatch e)

/-! ## Integers read and delivered (R33, R155) -/

/-- Two's complement reading of the low n bits. -/
theorem sextN_eq_toInt (n x : Nat) (hn : 0 < n) : sextN n x = (BitVec.ofNat n x).toInt := by
  obtain ⟨m, rfl⟩ : ∃ m, n = m + 1 := ⟨n - 1, by omega⟩
  have hlt : x % 2 ^ (m + 1) < 2 ^ m ↔ 2 * (x % 2 ^ (m + 1)) < 2 ^ (m + 1) := by rw [Nat.pow_succ]; omega
  simp only [sextN, BitVec.toInt_eq_toNat_cond, BitVec.toNat_ofNat, Nat.add_sub_cancel, hlt]
  push_cast
  rfl

theorem readIn_eq_readT (c : Issue) (x : Word) (h : c.ty ∈ Sys2Proof.ty64) : readIn c.ty x.toNat = readT c x := by
  have hw : (x.toNat : Int) % 18446744073709551616 = x.toNat := by have := x.isLt; omega
  simp only [Sys2Proof.ty64, List.mem_cons, List.not_mem_nil, or_false] at h
  rcases h with e | e | e
  · simp [readIn, readT, e, ewidth, esize, hw]
  · simp [readIn, readT, e, ewidth, esize, sextN_eq_toInt]
  · simp [readIn, readT, e, ewidth, esize, hw]

/-- The low 64 bits of an exact integer, as a word. -/
theorem word_lowBits (x : Int) : word (lowBits 64 x) = BitVec.ofInt 64 x := by
  apply BitVec.eq_of_toNat_eq
  simp only [word, lowBits, BitVec.toNat_ofNat, BitVec.toNat_ofInt]
  omega

/-- Sat(x, T) as the nearest value of the type. -/
theorem satInt_eq (ty : Nat) (x : Int) (h : intMin ty ≤ intMax ty) : satInt ty x = max (intMin ty) (min (intMax ty) x) := by
  unfold satInt
  split
  · omega
  · split <;> omega

theorem Issue.res_eq (c : Issue) (x : Int) (h : c.ty ∈ Sys2Proof.ty64) : c.res x = deliverT c x := by
  have hw : ewidth c.ty = 64 := by revert h; generalize c.ty = ty; revert ty; decide
  have hlo : intMin c.ty = if c.ty = 7 then -2 ^ 63 else 0 := by revert h; generalize c.ty = ty; revert ty; decide
  have hhi : intMax c.ty = if c.ty = 7 then 2 ^ 63 - 1 else 2 ^ 64 - 1 := by revert h; generalize c.ty = ty; revert ty; decide
  have hle : intMin c.ty ≤ intMax c.ty := by rw [hlo, hhi]; split <;> decide
  simp only [Issue.res, deliver, hw, word_lowBits, satInt_eq _ _ hle, hlo, hhi, deliverT]
  split
  · split <;> rfl
  · rfl

section Lanes
variable {op : Nat} {w : FullWord} {s : State} {c : Issue} (h : Ready op w s c)
  (hf : (form op w).bind Form.types = some Sys2Proof.ty64)
include h hf

theorem Ready.iA (g : Gang) (i : Nat) : c.iA g i = readT c (c.srcA g i) := readIn_eq_readT c _ (h.ty64 hf)
theorem Ready.iB (g : Gang) (i : Nat) : c.iB g i = readT c (c.srcB g 64 i) := readIn_eq_readT c _ (h.ty64 hf)
theorem Ready.iC (g : Gang) (i : Nat) : c.iC g i = readT c (c.srcC g 64 i) := readIn_eq_readT c _ (h.ty64 hf)
theorem Ready.res (x : Int) : c.res x = deliverT c x := c.res_eq x (h.ty64 hf)

end Lanes

/-! ## Carries and divisions (R157, R158) -/

/-- The name that a field gives to a predicate is one of the eight. -/
theorem nameOf_lt (f : BitVec 8) : nameOf f 3 < 8 := Nat.mod_lt _ (by decide)

theorem Issue.carry_eq (c : Issue) (g : Gang) (i : Nat) : c.carry g i = (g.pGet i (c.w.sc.toNat % 8)).toNat := by
  cases h : g.pGet i (c.w.sc.toNat % 8) <;> simp [Issue.carry, bitN, nameOf, h]

/-- ADDC in one lane: the sum of three, and whether it passes 64 bits. -/
theorem Issue.addcLane_eq (c : Issue) (g : Gang) (i : Nat) :
    let x := (c.srcA g i).toNat + (c.srcB g 64 i).toNat + (g.pGet i (c.w.sc.toNat % 8)).toNat
    c.addcLane g i = { val := some (BitVec.ofNat 64 x), pred := some (c.w.sc.toNat % 8, decide (2 ^ 64 ≤ x)) } := by
  simp only [Issue.addcLane, Issue.carry_eq, Issue.uA, Issue.uB, word, nameOf, Nat.reducePow]

/-- SUBB in one lane: the difference, and whether it is below 0. -/
theorem Issue.subbLane_eq (c : Issue) (g : Gang) (i : Nat) :
    let a := (c.srcA g i).toNat
    let b := (c.srcB g 64 i).toNat
    let cin := (g.pGet i (c.w.sc.toNat % 8)).toNat
    c.subbLane g i = { val := some (BitVec.ofInt 64 ((a : Int) - b - cin)), pred := some (c.w.sc.toNat % 8, decide (a < b + cin)) } := by
  intro a b cin
  have hborrow : ((a : Int) - b - cin < 0) = (a < b + cin) := propext (by omega)
  simp only [Issue.subbLane, Issue.carry_eq, Issue.uA, Issue.uB, word_lowBits, nameOf]
  simp only [← hborrow]
  rfl

/-- The quotient of a lane with its warning. -/
def Issue.divOut (c : Issue) (g : Gang) (i : Nat) : LaneOut := { val := some (c.quot g i), warns := c.divz g i }

/-- The remainder of a lane with its warning. -/
def Issue.remOut (c : Issue) (g : Gang) (i : Nat) : LaneOut := { val := some (c.rmdr g i), warns := c.divz g i }

section Divisions
variable {op : Nat} {w : FullWord} {s : State} {c : Issue} (h : Ready op w s c)
  (hf : (form op w).bind Form.types = some Sys2Proof.ty64)
include h hf

theorem Ready.divOut_eq (g : Gang) (i : Nat) :
    c.divOut g i = if readT c (c.srcB g 64 i) = 0 then { val := some 0xFFFFFFFFFFFFFFFF#64, warns := 2 }
      else .v (deliverT c (Int.tdiv (readT c (c.srcA g i)) (readT c (c.srcB g 64 i)))) := by
  unfold Issue.divOut Issue.quot Issue.divz
  rw [h.iA hf, h.iB hf, h.res hf]
  split <;> rfl

theorem Ready.remOut_eq (g : Gang) (i : Nat) :
    c.remOut g i = if readT c (c.srcB g 64 i) = 0 then { val := some 0xFFFFFFFFFFFFFFFF#64, warns := 2 }
      else .v (BitVec.ofInt 64 (readT c (c.srcA g i) -
        readT c (c.srcB g 64 i) * Int.tdiv (readT c (c.srcA g i)) (readT c (c.srcB g 64 i)))) := by
  unfold Issue.remOut Issue.rmdr Issue.divz
  rw [h.iA hf, h.iB hf, word_lowBits, Int.tmod_def]
  split <;> rfl

end Divisions

/-- A choice between two v results raises no flag and gives no predicate. -/
theorem LaneOut.ite_v (p : Prop) [Decidable p] (x y : Word) (n : Nat) :
    (if p then { val := some x, warns := n } else LaneOut.v y).flags = 0 ∧
    (if p then { val := some x, warns := n } else LaneOut.v y).pred = none := by
  split <;> exact ⟨rfl, rfl⟩

/-! ## Settling the statement -/

/-- Settles O12: each word is a lane-wise word, and each lane's result is the exact integer of R156 to R158, delivered in the
word's type. -/
theorem integerResults : Obligations.IntegerResults := by
  unfold Obligations.IntegerResults
  refine ⟨fun w s c => ?_, fun w s c => ?_⟩
  · refine ⟨fun h => ?_, fun h => ?_, fun h => ?_, fun h => ?_, fun h => ?_, fun h => ?_, fun h => ?_, fun h => ?_, fun h => ?_,
      fun h => ?_⟩
    · exact laneVal_gives (f := Issue.movLane) h (fun _ _ => rfl) (fun _ => rfl)
    · refine laneVal_gives (f := Issue.addLane) h (fun _ _ => rfl) (fun i => ?_)
      rw [Issue.addLane, h.iA rfl, h.iB rfl, h.res rfl]
    · refine laneVal_gives (f := Issue.subLane) h (fun _ _ => rfl) (fun i => ?_)
      rw [Issue.subLane, h.iA rfl, h.iB rfl, h.res rfl]
    · refine laneVal_gives (f := Issue.mulLane) h (fun _ _ => rfl) (fun i => ?_)
      rw [Issue.mulLane, h.iA rfl, h.iB rfl, h.res rfl]
    · refine laneVal_gives (f := Issue.mulhLane) h (fun _ _ => rfl) (fun i => ?_)
      rw [Issue.mulhLane, h.iA rfl, h.iB rfl, word_lowBits]; rfl
    · refine laneVal_gives (f := Issue.madLane) h (fun _ _ => rfl) (fun i => ?_)
      rw [Issue.madLane, h.iA rfl, h.iB rfl, h.iC rfl, h.res rfl]
    · refine laneVal_gives (f := Issue.minLane) h (fun _ _ => rfl) (fun i => ?_)
      rw [Issue.minLane, h.iA rfl, h.iB rfl, word_lowBits, min_def]
    · refine laneVal_gives (f := Issue.maxLane) h (fun _ _ => rfl) (fun i => ?_)
      rw [Issue.maxLane, h.iA rfl, h.iB rfl, word_lowBits, max_def]
    · refine laneVal_gives (f := Issue.absLane) h (fun _ _ => rfl) (fun i => ?_)
      rw [Issue.absLane, h.iA rfl, h.res rfl, Int.natCast_natAbs]
    · refine laneVal_gives (f := Issue.negLane) h (fun _ _ => rfl) (fun i => ?_)
      rw [Issue.negLane, h.iA rfl, h.res rfl]
  · refine ⟨fun h => ?_, fun h => ?_, fun h => ?_, fun h => ?_⟩
    · obtain rfl := h.word_eq
      refine laneWord_gives (f := Issue.addcLane) h (fun _ _ => rfl) (fun i => c.addcLane_eq (c.g s) i) (fun _ => rfl) ?_
      rintro i n x ⟨⟩
      exact nameOf_lt c.w.sc
    · obtain rfl := h.word_eq
      refine laneWord_gives (f := Issue.subbLane) h (fun _ _ => rfl) (fun i => c.subbLane_eq (c.g s) i) (fun _ => rfl) ?_
      rintro i n x ⟨⟩
      exact nameOf_lt c.w.sc
    · exact laneWord_gives (f := Issue.divOut) h (fun _ _ => rfl) (h.divOut_eq rfl (c.g s)) (fun _ => (LaneOut.ite_v _ _ _ _).1)
        (fun _ _ _ e => nomatch (LaneOut.ite_v _ _ _ _).2.symm.trans e)
    · exact laneWord_gives (f := Issue.remOut) h (fun _ _ => rfl) (h.remOut_eq rfl (c.g s)) (fun _ => (LaneOut.ite_v _ _ _ _).1)
        (fun _ _ _ e => nomatch (LaneOut.ite_v _ _ _ _).2.symm.trans e)

end Sys2Proof.Machine

/-! SUPPORT. Logic, shifts, bits and fields as their statements write them: bit vectors for the numbers of the model (R159 to R162). -/

namespace Sys2Proof.Machine

open Sys2Proof

/-! ## Shifts, rotations, funnel shifts (R159) -/

theorem word_toNat (a : Word) : word a.toNat = a := by simp [word]

theorem word_shiftLeft (a : Word) (n : Nat) : word (a.toNat * 2 ^ n) = a <<< n := by
  apply BitVec.eq_of_toNat_eq
  simp [word, Nat.shiftLeft_eq]

theorem word_shiftRight (a : Word) (n : Nat) : word (a.toNat / 2 ^ n) = a >>> n := by
  apply BitVec.eq_of_toNat_eq
  have := Nat.lt_of_le_of_lt (Nat.div_le_self a.toNat (2 ^ n)) a.isLt
  simp only [word, BitVec.toNat_ofNat, BitVec.toNat_ushiftRight, Nat.shiftRight_eq_div_pow, Nat.mod_eq_of_lt this]

theorem ofInt_sshiftRight (a : Word) (n : Nat) : BitVec.ofInt 64 (sextN 64 a.toNat / (2 ^ n : Nat)) = a.sshiftRight n := by
  rw [sextN_eq_toInt 64 _ (by decide), BitVec.ofNat_toNat, BitVec.setWidth_eq, BitVec.sshiftRight, Int.shiftRight_eq_div_pow]

/-- The two parts of a rotation lie side by side. -/
theorem word_rotl (a : Word) (k : Nat) (hk : k < 64) : word (rotl 64 a.toNat k) = a.rotateLeft k := by
  have hlt : a.toNat / 2 ^ (64 - k) < 2 ^ k := by
    rw [Nat.div_lt_iff_lt_mul (Nat.two_pow_pos _), ← Nat.pow_add]
    rw [show k + (64 - k) = 64 by omega]; exact a.isLt
  apply BitVec.eq_of_toNat_eq
  rw [BitVec.toNat_rotateLeft, Nat.mod_eq_of_lt hk, word, rotl, BitVec.toNat_ofNat, Nat.mod_mod, Nat.shiftLeft_eq, Nat.shiftRight_eq_div_pow,
    Nat.mul_comm, Nat.two_pow_add_eq_or_of_lt hlt, Nat.or_mod_two_pow, Nat.mod_eq_of_lt (a := a.toNat / _)]
  exact Nat.lt_trans hlt (Nat.pow_lt_pow_right (by decide) hk)

/-- The funnel shift acts on the 128 bits of both sources. -/
theorem fshf_eq (left : Bool) (a b : Word) (m : Nat) : fshf left a.toNat b.toNat m =
    if left then ((a ++ b : BitVec 128) <<< m).extractLsb' 64 64 else ((a ++ b : BitVec 128) >>> m).setWidth 64 := by
  have hab : (a ++ b : BitVec 128).toNat = a.toNat * 2 ^ 64 + b.toNat := by
    rw [BitVec.toNat_append, Nat.shiftLeft_eq, Nat.mul_comm, Nat.two_pow_add_eq_or_of_lt b.isLt]
  apply BitVec.eq_of_toNat_eq
  cases left
  · simp [fshf, word, hab, Nat.shiftRight_eq_div_pow]
  · simp [fshf, word, hab, Nat.shiftRight_eq_div_pow, Nat.shiftLeft_eq]
    omega

/-! ## Counting and reversing bits (R159) -/

/-- Trailing zeros: the first position with a 1 bit, or n. -/
theorem trailZeros_eq (n x : Nat) :
    trailZeros n x = (((List.range n).filter (fun j => x.testBit j)).head?).getD n := by
  induction n with
  | zero => rfl
  | succ n ih =>
    unfold trailZeros at ih ⊢
    rw [List.range_succ, List.filter_append, List.head?_append, List.takeWhile_append]
    cases hh : ((List.range n).filter (fun j => x.testBit j)).head? with
    | none =>
      rw [hh] at ih
      simp only [Option.getD_none] at ih
      cases hb : x.testBit n <;> simp [ih, hb]
    | some j =>
      have hj : j ∈ (List.range n).filter (fun j => x.testBit j) := List.mem_of_head? hh
      have hjn : j < n := by simpa using (List.mem_filter.1 hj).1
      rw [hh] at ih
      simp only [Option.getD_some] at ih
      simp [ih, Nat.ne_of_lt hjn]

/-- The positions from the highest down. -/
theorem leadZeros_reverse (n x : Nat) : leadZeros n x = ((List.range n).reverse.takeWhile (fun j => !x.testBit j)).length := by
  have hrev : (List.range n).reverse = (List.range n).map (fun j => n - 1 - j) := by
    apply List.ext_getElem <;> simp
  rw [hrev, List.takeWhile_map, List.length_map]
  rfl

/-- Leading zeros: counted from the last position with a 1 bit, or n. -/
theorem leadZeros_eq (n x : Nat) :
    leadZeros n x = (((List.range n).filter (fun j => x.testBit j)).getLast?).elim n (fun j => n - 1 - j) := by
  rw [leadZeros_reverse]
  induction n with
  | zero => rfl
  | succ n ih =>
    rw [List.range_succ, List.filter_append, List.getLast?_append, List.reverse_append, List.reverse_singleton,
      List.singleton_append]
    cases hb : x.testBit n
    · rw [List.takeWhile_cons_of_pos (by simp [hb]), List.length_cons, ih]
      simp only [List.filter_singleton, hb, cond_false, List.getLast?_nil, Option.none_or]
      cases hl : ((List.range n).filter (fun j => x.testBit j)).getLast? with
      | none => rfl
      | some j =>
        have hjn : j < n := List.mem_range.1 (List.mem_filter.1 (List.mem_of_getLast? hl)).1
        simp only [Option.elim_some]
        omega
    · simp [hb]

/-- One more bit on top of a number. -/
theorem testBit_add_two_pow (a m i : Nat) (ha : a < 2 ^ m) : (a + 2 ^ m).testBit i = (decide (i = m) || a.testBit i) := by
  have h := Nat.testBit_two_pow_mul_add 1 ha i
  rw [Nat.mul_one, Nat.add_comm] at h
  rw [h]
  by_cases hi : i < m
  · simp [hi, Nat.ne_of_lt hi]
  · have hbit : a.testBit i = false := Nat.testBit_lt_two_pow (Nat.lt_of_lt_of_le ha (Nat.pow_le_pow_right (by decide) (by omega)))
    rw [if_neg hi, hbit, Bool.or_false, Bool.eq_iff_iff, Nat.testBit_one_eq_true_iff_self_eq_zero, decide_eq_true_iff]
    omega

/-- The low m bits of the reversal, as the fold builds them. -/
theorem revBits_fold (n x m : Nat) :
    let a := (List.range m).foldl (fun a j => if x.testBit (n - 1 - j) then a + 2 ^ j else a) 0
    a < 2 ^ m ∧ ∀ i, a.testBit i = (decide (i < m) && x.testBit (n - 1 - i)) := by
  induction m with
  | zero => simp
  | succ m ih =>
    obtain ⟨hlt, hbit⟩ := ih
    simp only [List.range_succ, List.foldl_append, List.foldl_cons, List.foldl_nil]
    generalize (List.range m).foldl _ 0 = a at hlt hbit
    have hpow : 2 ^ (m + 1) = 2 ^ m + 2 ^ m := by rw [Nat.pow_succ]; omega
    cases hb : x.testBit (n - 1 - m)
    · refine ⟨by simp only [Bool.false_eq_true, if_false]; omega, fun i => ?_⟩
      rw [if_neg (by decide), hbit i]
      by_cases e : i = m
      · subst e; simp [hb]
      · simp [show i < m + 1 ↔ i < m by omega]
    · refine ⟨by simp only [if_true]; omega, fun i => ?_⟩
      rw [if_pos rfl, testBit_add_two_pow _ _ _ hlt, hbit i]
      by_cases e : i = m
      · subst e; simp [hb]
      · simp [e, show i < m + 1 ↔ i < m by omega]

theorem word_revBits (a : Word) : word (revBits 64 a.toNat) = a.reverse := by
  obtain ⟨-, hbit⟩ := revBits_fold 64 a.toNat 64
  apply BitVec.eq_of_getLsbD_eq
  intro i hi
  rw [BitVec.getLsbD_reverse, BitVec.getMsbD, word, BitVec.getLsbD_ofNat, revBits, hbit i]
  simp [hi, BitVec.getLsbD]

/-! ## Fields (R160, R161) -/

theorem toNat_extractLsb'_eq_fld (a : Word) (p l : Nat) : (a.extractLsb' p l).toNat = fld a.toNat p l := by
  rw [BitVec.extractLsb'_toNat, Nat.shiftRight_eq_div_pow, fld]

/-- Sign extension is the reading in two's complement. -/
theorem ofInt_sextN {n : Nat} (b : BitVec n) (hn : 0 < n) : BitVec.ofInt 64 (sextN n b.toNat) = b.signExtend 64 := by
  rw [sextN_eq_toInt _ _ hn, BitVec.ofNat_toNat, BitVec.setWidth_eq, BitVec.signExtend]

theorem bfe_eq (signed : Bool) (a : Word) (p l : Nat) :
    bfe signed a.toNat p l = if fieldLen p l = 0 then 0
      else if signed then (a.extractLsb' p (fieldLen p l)).signExtend 64 else (a.extractLsb' p (fieldLen p l)).setWidth 64 := by
  simp only [bfe, ← toNat_extractLsb'_eq_fld]
  split
  · rfl
  · next hl => rw [ofInt_sextN _ (Nat.pos_of_ne_zero hl), word, BitVec.ofNat_toNat]

/-- A field replaced: the bits below it, its new bits, the bits above it. -/
theorem field_put (a b p l : Nat) : b - fld b p l * 2 ^ p + a % 2 ^ l * 2 ^ p =
    2 ^ p * (2 ^ l * (b / 2 ^ (p + l)) + a % 2 ^ l) + b % 2 ^ p := by
  have h1 := Nat.div_add_mod b (2 ^ p)
  have h2 := Nat.div_add_mod (b / 2 ^ p) (2 ^ l)
  rw [Nat.div_div_eq_div_mul, ← Nat.pow_add] at h2
  have h3 : b = 2 ^ p * (2 ^ l * (b / 2 ^ (p + l))) + fld b p l * 2 ^ p + b % 2 ^ p := by
    conv_lhs => rw [← h1, ← h2]
    rw [fld]; ring
  have h4 : 2 ^ p * (2 ^ l * (b / 2 ^ (p + l)) + a % 2 ^ l) =
    2 ^ p * (2 ^ l * (b / 2 ^ (p + l))) + a % 2 ^ l * 2 ^ p := by ring
  omega

theorem testBit_field_put (a b p l i : Nat) : (b - fld b p l * 2 ^ p + a % 2 ^ l * 2 ^ p).testBit i =
    if p ≤ i ∧ i < p + l then a.testBit (i - p) else b.testBit i := by
  rw [field_put, Nat.testBit_two_pow_mul_add _ (Nat.mod_lt _ (Nat.two_pow_pos p)),
    Nat.testBit_two_pow_mul_add _ (Nat.mod_lt _ (Nat.two_pow_pos l)), Nat.testBit_mod_two_pow, Nat.testBit_mod_two_pow,
    Nat.testBit_div_two_pow]
  by_cases h1 : i < p
  · simp [h1, show ¬p ≤ i by omega]
  · by_cases h2 : i - p < l
    · simp [h1, h2, show p ≤ i ∧ i < p + l by omega]
    · simp [h1, h2, show ¬(p ≤ i ∧ i < p + l) by omega, show i - p - l + (p + l) = i by omega]

/-- The mask of a field. -/
theorem getLsbD_fieldMask (p l i : Nat) (hi : i < 64) :
    (BitVec.ofNat 64 ((2 ^ l - 1) * 2 ^ p)).getLsbD i = decide (p ≤ i ∧ i < p + l) := by
  rw [BitVec.getLsbD_ofNat, Nat.testBit_mul_two_pow, Nat.testBit_two_pow_sub_one]
  by_cases h : p ≤ i
  · simp [hi, h, show i - p < l ↔ i < p + l by omega]
  · simp [h]

theorem bfi_eq (a z : Word) (p l : Nat) :
    bfi a.toNat z.toNat p l =
      (let m : Word := BitVec.ofNat 64 ((2 ^ fieldLen p l - 1) * 2 ^ p)
       if fieldLen p l = 0 then z else (z &&& ~~~m) ||| ((a <<< p) &&& m)) := by
  simp only [bfi, word_toNat]
  split
  · rfl
  · apply BitVec.eq_of_getLsbD_eq
    intro i hi
    rw [word, BitVec.getLsbD_ofNat, testBit_field_put]
    simp only [BitVec.getLsbD_or, BitVec.getLsbD_and, BitVec.getLsbD_not, BitVec.getLsbD_shiftLeft, getLsbD_fieldMask _ _ _ hi, hi]
    by_cases h : p ≤ i ∧ i < p + fieldLen p l
    · simp [h, Nat.not_lt.2 h.1, BitVec.getLsbD]
    · simp [h, BitVec.getLsbD]

theorem sext_eq (a : Word) (n : Nat) (hn : 0 < n) : BitVec.ofInt 64 (sextN n a.toNat) = (a.setWidth n).signExtend 64 := by
  rw [← ofInt_sextN _ hn, BitVec.toNat_setWidth, sextN, sextN]
  simp

theorem zext_eq (a : Word) (n : Nat) : word (a.toNat % 2 ^ n) = (a.setWidth n).setWidth 64 := by
  apply BitVec.eq_of_toNat_eq
  simp [word]

theorem ewidth_pos (ty : Nat) : 0 < ewidth ty := by
  unfold ewidth esize
  split
  · exact Nat.mul_pos (by decide) (Nat.two_pow_pos _)
  · split
    · decide
    · split
      · decide
      · split <;> decide

/-- Multiplication by a power of two. -/
theorem word_two_pow_mul (b : Word) (n : Nat) : word (2 ^ n) * b = b <<< n := by
  apply BitVec.eq_of_toNat_eq
  simp [word, Nat.shiftLeft_eq, Nat.mul_comm]

/-- A word from its upper and its lower half. -/
theorem word_halves (x y : BitVec 32) : word (x.toNat * 2 ^ 32 + y.toNat) = (x ++ y : BitVec 64) := by
  have hx := x.isLt
  have hy := y.isLt
  apply BitVec.eq_of_toNat_eq
  rw [BitVec.toNat_append, Nat.shiftLeft_eq, Nat.mul_comm x.toNat, ← Nat.two_pow_add_eq_or_of_lt hy, word, BitVec.toNat_ofNat]
  omega

/-- The constant of MOVI above the lower half of what the register held. -/
theorem word_above (imm : BitVec 32) (nw : Bool) (old : Word) :
    word (imm.toNat * 2 ^ 32 + if nw then 0 else old.toNat % 2 ^ 32) = (imm ++ (if nw then 0 else old.setWidth 32) : BitVec 64) := by
  rw [← word_halves]
  cases nw
  · simp only [Bool.false_eq_true, if_false, BitVec.toNat_setWidth]
  · rfl

/-! ## Settling the statement -/

/-- Settles O13: each word is a lane-wise word, and each lane's result is the bit vector of R159 to R162. -/
theorem logicAndFields : Obligations.LogicAndFields := by
  unfold Obligations.LogicAndFields
  refine ⟨fun w s c => ?_, fun w s c => ?_⟩
  · refine ⟨fun h => ?_, fun h => ?_, fun h => ?_, fun h => ?_, fun h => ?_, fun h => ?_, fun h => ?_, fun h => ?_, fun h => ?_,
      fun h => ?_⟩
    · exact laneVal_gives (f := Issue.andLane) h (fun _ _ => rfl) (fun _ => rfl)
    · exact laneVal_gives (f := Issue.orLane) h (fun _ _ => rfl) (fun _ => rfl)
    · exact laneVal_gives (f := Issue.xorLane) h (fun _ _ => rfl) (fun _ => rfl)
    · exact laneVal_gives (f := Issue.andnLane) h (fun _ _ => rfl) (fun _ => rfl)
    · exact laneVal_gives (f := Issue.notLane) h (fun _ _ => rfl) (fun _ => rfl)
    · exact laneVal_gives (f := Issue.shlLane) h (fun _ _ => rfl) (fun _ => word_shiftLeft _ _)
    · exact laneVal_gives (f := Issue.shrLane) h (fun _ _ => rfl) (fun _ => word_shiftRight _ _)
    · exact laneVal_gives (f := Issue.sarLane) h (fun _ _ => rfl) (fun _ => ofInt_sshiftRight _ _)
    · exact laneVal_gives (f := Issue.rotLane) h (fun _ _ => rfl) (fun _ => word_rotl _ _ (Nat.mod_lt _ (by decide)))
    · obtain rfl := h.word_eq
      refine laneVal_gives (f := Issue.fshfLane) h (fun _ _ => rfl) (fun i => ?_)
      simp only [Issue.fshfLane, Issue.uA, Issue.uB, fshf_eq, beq_iff_eq]
  · refine ⟨fun h => ?_, fun h => ?_, fun h => ?_, fun h => ?_, fun h => ?_, fun h => ?_, fun h => ?_, fun h => ?_, fun h => ?_,
      fun h => ?_, fun h => ?_⟩
    · exact laneVal_gives (f := Issue.popcLane) h (fun _ _ => rfl) (fun _ => rfl)
    · refine laneVal_gives (f := Issue.clzLane) h (fun _ _ => rfl) (fun i => ?_)
      simp only [Issue.clzLane, leadZeros_eq, Issue.uA, BitVec.getLsbD]
      split <;> next hfound => rw [hfound]; rfl
    · refine laneVal_gives (f := Issue.ctzLane) h (fun _ _ => rfl) (fun i => ?_)
      simp only [Issue.ctzLane, trailZeros_eq, Issue.uA, BitVec.getLsbD]
      split <;> next hfound => rw [hfound]; rfl
    · exact laneVal_gives (f := Issue.brevLane) h (fun _ _ => rfl) (fun _ => word_revBits _)
    · refine laneVal_gives (f := Issue.bfeLane) h (fun _ _ => rfl) (fun i => ?_)
      simp only [Issue.bfeLane, Issue.uA, bfe_eq, beq_iff_eq]
      rfl
    · refine laneVal_gives (f := Issue.bfiLane) h (fun _ _ => rfl) (fun i => ?_)
      simp only [Issue.bfiLane, Issue.uA, Issue.uB, Issue.uC, bfi_eq, fld, Nat.pow_zero, Nat.div_one]
      rfl
    · obtain rfl := h.word_eq
      exact laneVal_gives (f := Issue.selLane) h (fun _ _ => rfl) (fun _ => rfl)
    · exact laneVal_gives (f := Issue.sextLane) h (fun _ _ => rfl) (fun _ => sext_eq _ _ (ewidth_pos _))
    · exact laneVal_gives (f := Issue.zextLane) h (fun _ _ => rfl) (fun _ => zext_eq _ _)
    · obtain rfl := h.word_eq
      refine laneVal_gives (f := Issue.addrLane) h (fun _ _ => rfl) (fun i => ?_)
      rw [Issue.addrLane, word_two_pow_mul]
    · obtain rfl := h.word_eq
      refine laneVal_gives (f := Issue.moviLane) h (fun _ _ => rfl) (fun i => ?_)
      rcases hm : c.w.m2 with _ | _ | n <;> simp only [Issue.moviLane, hm, word_above]

end Sys2Proof.Machine

/-! SUPPORT. Rejoin masks, EXIT, JOIN and its release: what each does to a gang (R20, R143, R145 to R147). -/

namespace Sys2Proof.Machine

open Sys2Proof

/-! ## Words that change registers of their gang at most -/

/-- A ready word performs its body, and then its gang settles. -/
theorem Ready.settles {op : Nat} {w : FullWord} {s t : State} {c : Issue} (h : Ready op w s c) {body : Issue → State → State}
    (hb : body c (c.warn (c.f.warns op w) s) = t) : runWord op w s body = .next (t.settleGang c.wg c.gang) := by
  rw [runWord_ready op w s c h, hb]

/-- With a thread of the gang still in EXEC there is nothing to settle. -/
theorem Ready.runs {op : Nat} {w : FullWord} {s t : State} {c : Issue} (h : Ready op w s c) {body : Issue → State → State}
    (hb : body c (c.warn (c.f.warns op w) s) = t) (he : ∃ i, i < 32 ∧ ((c.g t).thread i).st = .exec) :
    runWord op w s body = .next t := by
  rw [h.settles hb, State.settleGang_exec _ _ _ he]

theorem SameSystem.warn (g : Gang) (bits : Nat) (pc : Word) : SameSystem g (g.warn bits pc) := by
  rw [Gang.warn_eq]; constructor <;> rfl

theorem SameRegisters.warn (g : Gang) (bits : Nat) (pc : Word) : SameRegisters g (g.warn bits pc) := by
  rw [Gang.warn_eq]; constructor <;> rfl

@[simp] theorem Gang.thr_warn (g : Gang) (bits : Nat) (pc : Word) : (g.warn bits pc).thr = g.thr := by rw [Gang.warn_eq]
@[simp] theorem Gang.k_warn (g : Gang) (bits : Nat) (pc : Word) : (g.warn bits pc).k = g.k := by rw [Gang.warn_eq]
@[simp] theorem Gang.thread_warn (g : Gang) (bits : Nat) (pc : Word) (i : Nat) : (g.warn bits pc).thread i = g.thread i := by
  simp [Gang.thread]
@[simp] theorem Gang.live_warn (g : Gang) (bits : Nat) (pc : Word) : (g.warn bits pc).live = g.live := by
  simp [Gang.live, Gang.lanesWhere]
@[simp] theorem Gang.kGet_warn (g : Gang) (bits : Nat) (pc : Word) (n : Nat) : (g.warn bits pc).kGet n = g.kGet n := by
  simp [Gang.kGet]

@[simp] theorem Issue.g_warn (c : Issue) (bits : Nat) (s : State) : c.g (c.warn bits s) = (c.g s).warn bits c.pc :=
  Issue.g_mod _ _ _

/-- A gang put in place of the issuing one that keeps what WordDone asks for. -/
theorem WordDone.setGang {op : Nat} {w : FullWord} {s : State} {c : Issue} (h : Ready op w s c) {x y : Gang}
    (hsys : SameSystem (c.g s) y) (hregs : SameRegisters x y) (hwarns : y.warns = ((c.g s).warn (c.f.warns op w) c.pc).warns)
    (hwarnpc : y.warnpc = ((c.g s).warn (c.f.warns op w) c.pc).warnpc) : WordDone c s (s.setGang c.wg c.gang y) x := by
  obtain ⟨rfl, rfl, -⟩ := State.issue_form op w s c h.issued
  obtain ⟨hv, hb, hp, hk, hd, hf⟩ := hregs
  refine ⟨OnlyGang.setGang _ _ _ _, ?_, ?_, ?_, ?_, ?_, ?_, ?_, ?_⟩ <;> rw [Issue.g_setGang]
  exacts [hsys, hv, hb, hp, hk, hd, hf, ⟨hwarns, hwarnpc⟩]

/-- Counting a word after a change of the gang: splits and the run are new. -/
theorem Issue.count_mod (c : Issue) (e : Bool) (s : State) (f : Gang → Gang) :
    ∃ a b r n, c.count e (c.mod s f) =
      s.setGang c.wg c.gang { f (c.g s) with splits := a, last := b, run := r, readyAt := n } := by
  obtain ⟨a, b, r, n, h⟩ := c.count_eq e (c.mod s f)
  rw [Issue.g_mod, Issue.mod_eq, State.setGang_setGang] at h
  exact ⟨a, b, r, n, h⟩

/-- A word that is done after a change of the gang: its split stands at the next word as well. -/
theorem Issue.done_mod (c : Issue) (s : State) (f : Gang → Gang) :
    ∃ t a b r n, c.done (c.mod s f) =
        s.setGang c.wg c.gang { f (c.g s) with thr := t, splits := a, last := b, run := r, readyAt := n } ∧
      NextWord c (f (c.g s)) { f (c.g s) with thr := t } := by
  obtain ⟨t, a, b, r, n, h, ht⟩ := c.done_eq (c.mod s f)
  rw [Issue.g_mod] at h ht
  rw [Issue.mod_eq, State.setGang_setGang] at h
  exact ⟨t, a, b, r, n, h, ht⟩

/-- A ready word that changes registers and goes on to the next word performs. -/
theorem Ready.word_done {op : Nat} {w : FullWord} {s : State} {c : Issue} (h : Ready op w s c) {body : Issue → State → State}
    {f : Gang → Gang} {x : Gang} (hb : body c (c.warn (c.f.warns op w) s) = c.done (c.mod s f))
    (hthr : (f (c.g s)).thr = (c.g s).thr) (hsys : SameSystem (c.g s) (f (c.g s))) (hregs : SameRegisters x (f (c.g s)))
    (hwarns : (f (c.g s)).warns = ((c.g s).warn (c.f.warns op w) c.pc).warns)
    (hwarnpc : (f (c.g s)).warnpc = ((c.g s).warn (c.f.warns op w) c.pc).warnpc) :
    ∃ t, runWord op w s body = .next t ∧ WordDone c s t x ∧ NextWord c (c.g s) (c.g t) := by
  obtain ⟨t, a, b, r, n, hd, ht⟩ := c.done_mod s f
  have hnext : NextWord c (c.g s) { f (c.g s) with thr := t, splits := a, last := b, run := r, readyAt := n } := by
    intro i hi
    have hthread : (f (c.g s)).thread i = (c.g s).thread i := by rw [Gang.thread, hthr, Gang.thread]
    rw [← hthread]
    exact ht i hi
  rw [← c.g_setGang s { f (c.g s) with thr := t, splits := a, last := b, run := r, readyAt := n }] at hnext
  exact ⟨_, h.runs (hb.trans hd) (hnext.exec _ _ _ h.exec), WordDone.setGang h { hsys with } { hregs with } hwarns hwarnpc, hnext⟩

/-! ## KOP and KRD (R146, R147) -/

/-- A word that writes one rejoin mask performs: the mask holds the lanes given but for those that have exited. -/
theorem kWrite_ready {w : FullWord} {s : State} {c : Issue} (h : Ready 0x0B w s c) (m : Mask) {body : Issue → State → State}
    (hb : body c (c.warn (c.f.warns 0x0B w) s) = c.kWrite m (c.warn (c.f.warns 0x0B w) s)) :
    ∃ t, runWord 0x0B w s body = .next t ∧
      WordDone c s t { c.g s with k := Tab.set (c.g s).k (w.dst.toNat % 8) (m &&& (c.g s).live) } ∧ NextWord c (c.g s) (c.g t) := by
  rw [Issue.kWrite, Issue.warn, Issue.mod_mod] at hb
  obtain rfl := h.word_eq
  have hregs := SameRegisters.warn (c.g s) (c.f.warns 0x0B c.w) c.pc
  refine h.word_done hb (Gang.thr_warn _ _ _) { SameSystem.warn (c.g s) (c.f.warns 0x0B c.w) c.pc with } ?_ rfl rfl
  exact { hregs with k := by rw [Gang.k_warn, Gang.live_warn]; rfl }

/-- KOP (R146): each form writes kD from the active lanes and, but for SET and LOAD, from kA. -/
theorem kop_ready {w : FullWord} {s : State} {c : Issue} (h : Ready 0x0B w s c) :
    let a := (c.g s).kGet (w.sb.toNat % 8)
    let done := fun (o : Host.Outcome State Fault Refusal) (m : Mask) => ∃ t, o = .next t ∧
      WordDone c s t { c.g s with k := Tab.set (c.g s).k (w.dst.toNat % 8) (m &&& (c.g s).live) } ∧ NextWord c (c.g s) (c.g t)
    done (exec (.kopSet w) s) c.act ∧ done (exec (.kopOr w) s) (a ||| c.act) ∧ done (exec (.kopAnd w) s) (a &&& c.act) ∧
    done (exec (.kopAndn w) s) (a &&& ~~~c.act) ∧ done (exec (.kopCopy w) s) a ∧
    done (exec (.kopLoad w) s) ((c.srcA (c.g s) c.low).setWidth 32) := by
  have hk : c.kSrc (c.warn (c.f.warns 0x0B w) s) = (c.g s).kGet (w.sb.toNat % 8) := by
    rw [Issue.kSrc, Issue.g_warn, Gang.kGet_warn, h.word_eq]; rfl
  refine ⟨kWrite_ready h _ rfl, kWrite_ready h _ ?_, kWrite_ready h _ ?_, kWrite_ready h _ ?_, kWrite_ready h _ ?_,
    kWrite_ready h _ ?_⟩
  · rw [hk]
  · rw [hk]
  · rw [hk]
  · rw [hk]
  · rw [Issue.srcA, Issue.g_warn, Gang.src_warn]; rfl

/-- KRD (R147). -/
theorem krd_ready {w : FullWord} {s : State} {c : Issue} (h : Ready 0x0C w s c) : ∃ t, exec (.krd w) s = .next t ∧
    LaneDone c s t (fun _ => .v (((c.g s).kGet (w.sa.toNat % 8)).setWidth 64)) :=
  laneVal_gives (f := fun _ g _ => (g.kGet (nameOf w.sa 3)).setWidth 64) h (fun _ _ => rfl) (fun _ => rfl)

/-! ## Lanes of masks -/

theorem getLsbD_maskIf (m : Mask) (p : Nat → Bool) (i : Nat) (hi : i < 32) : (maskIf m p).getLsbD i = (m.getLsbD i && p i) := by
  rw [maskIf, maskOf, mem_maskOf _ _ _ hi]
  simp [hi]

theorem lt_of_getLsbD (m : Mask) (i : Nat) (h : m.getLsbD i = true) : i < 32 := by
  by_contra hge
  rw [BitVec.getLsbD_of_ge _ _ (by omega)] at h
  cases h

theorem mask_ne_zero_iff (m : Mask) : m ≠ 0#32 ↔ ∃ i, i < 32 ∧ m.getLsbD i = true := by
  constructor
  · intro h
    by_contra hno
    push Not at hno
    exact h (BitVec.eq_of_getLsbD_eq fun i hi => by simpa using hno i hi)
  · rintro ⟨i, -, hi⟩ rfl
    simp at hi

/-- The lowest lane of a mask. -/
theorem lowest_eq_some (m : Mask) (l : Nat) (hl : m.getLsbD l = true) (hlow : ∀ i, i < l → m.getLsbD i = false) :
    lowest m = some l := by
  have hlt := lt_of_getLsbD m l hl
  rw [lowest, lanesOf, List.head?_filter, List.find?_range_eq_some]
  exact ⟨hl, List.mem_range.2 hlt, fun j hj => by rw [hlow j hj]; rfl⟩

/-- Only lanes of the issuing split are active. -/
theorem Ready.act_lanes {op : Nat} {w : FullWord} {s : State} {c : Issue} (h : Ready op w s c) (i : Nat)
    (hi : c.act.getLsbD i = true) : c.lanes.getLsbD i = true := by
  have hlt := lt_of_getLsbD c.act i hi
  have hissued := h.issued
  unfold State.issue at hissued
  split at hissued
  · cases hissued
  · next cur _ =>
    cases hissued
    simp only at hi ⊢
    cases hr : cur.replay <;> simp only [hr, BitVec.getLsbD_and, Gang.guard, getLsbD_maskIf _ _ _ hlt, Bool.and_eq_true] at hi
    · exact hi.1
    · exact hi.1.1

theorem Gang.live_iff (g : Gang) (i : Nat) (hi : i < 32) : g.live.getLsbD i = true ↔ (g.thread i).st ≠ .exited := by
  rw [Gang.live, Gang.getLsbD_lanesWhere _ _ _ hi, bne_iff_ne]

/-! ## Where threads wait, and which JOINs release (R20, R145) -/

/-- The mask number and the address of the JOIN at which a thread waits. -/
def Gang.joinsAt (g : Gang) (i : Nat) : Option (Nat × Word) :=
  match (g.thread i).st with
  | .joinWait n _ => some (n.toNat, (g.thread i).pc)
  | .exited | .exec | .parked => none

theorem Gang.joinsAt_eq_some (g : Gang) (i k : Nat) (pc : Word) :
    g.joinsAt i = some (k, pc) ↔ ∃ n seat, (g.thread i).st = .joinWait n seat ∧ n.toNat = k ∧ (g.thread i).pc = pc := by
  unfold Gang.joinsAt
  cases (g.thread i).st <;> simp

/-- A thread waits at a JOIN on one of the eight masks. -/
theorem Gang.joinsAt_lt (g : Gang) (i k : Nat) (pc : Word) (h : g.joinsAt i = some (k, pc)) : k < 8 := by
  obtain ⟨n, -, -, rfl, -⟩ := (g.joinsAt_eq_some i k pc).1 h
  exact n.isLt

theorem Gang.getLsbD_joinWaiters (g : Gang) (k : Nat) (pc : Word) (i : Nat) (hi : i < 32) :
    (g.joinWaiters k pc).getLsbD i = true ↔ g.joinsAt i = some (k, pc) := by
  rw [Gang.joinWaiters, Gang.getLsbD_lanesWhere _ _ _ hi, Gang.joinsAt_eq_some]
  cases (g.thread i).st <;> simp

/-- The JOIN on kN at an address releases when a thread waits there and every live lane of kN does. -/
theorem Gang.joinReady_iff (g : Gang) (k : Nat) (pc : Word) : g.joinReady k pc = true ↔
    (∃ i, i < 32 ∧ g.joinsAt i = some (k, pc)) ∧
    ∀ j, j < 32 → (g.kGet k).getLsbD j = true → g.live.getLsbD j = true → g.joinsAt j = some (k, pc) := by
  have hsome : g.joinWaiters k pc ≠ 0#32 ↔ ∃ i, i < 32 ∧ g.joinsAt i = some (k, pc) := by
    rw [mask_ne_zero_iff]
    exact exists_congr fun i => and_congr_right fun hi => g.getLsbD_joinWaiters k pc i hi
  have hall : g.kGet k &&& ~~~g.joinWaiters k pc &&& g.live = 0#32 ↔
      ∀ j, j < 32 → (g.kGet k).getLsbD j = true → g.live.getLsbD j = true → g.joinsAt j = some (k, pc) := by
    rw [← not_ne_iff, mask_ne_zero_iff]
    push Not
    refine forall_congr' fun j => forall_congr' fun hj => ?_
    rw [← g.getLsbD_joinWaiters k pc j hj]
    simp only [BitVec.getLsbD_and, BitVec.getLsbD_not, hj, decide_true, Bool.true_and]
    cases (g.kGet k).getLsbD j <;> cases (g.joinWaiters k pc).getLsbD j <;> cases g.live.getLsbD j <;> decide
  rw [← hsome, ← hall]
  simp only [Gang.joinReady, Bool.and_eq_true, bne_iff_ne, beq_iff_eq]

/-- Some JOIN on kN releases when one does at some address. -/
theorem Gang.joinPc_isSome_iff (g : Gang) (k : Nat) : (g.joinPc k).isSome = true ↔ ∃ pc, g.joinReady k pc = true := by
  constructor
  · intro h
    obtain ⟨pc, hpc⟩ := Option.isSome_iff_exists.1 h
    exact ⟨pc, List.find?_some (p := fun pc => g.joinReady k pc) hpc⟩
  · rintro ⟨pc, hpc⟩
    obtain ⟨i, hi, hat⟩ := ((g.joinReady_iff k pc).1 hpc).1
    obtain ⟨n, seat, hst, hn, hthread⟩ := (g.joinsAt_eq_some i k pc).1 hat
    rw [Gang.joinPc, List.find?_isSome]
    refine ⟨pc, List.mem_filterMap.2 ⟨i, List.mem_range.2 hi, ?_⟩, hpc⟩
    simp only [hst, hn, hthread, if_true]

theorem Gang.anyRelease_of_ready (g : Gang) (k : Nat) (pc : Word) (h : g.joinReady k pc = true) : g.anyRelease = true := by
  obtain ⟨i, -, hat⟩ := ((g.joinReady_iff k pc).1 h).1
  rw [Gang.anyRelease, Bool.or_eq_true]
  exact Or.inl (List.any_eq_true.2 ⟨k, List.mem_range.2 (g.joinsAt_lt i k pc hat), (g.joinPc_isSome_iff k).2 ⟨pc, h⟩⟩)

/-- A gang without parks in which no JOIN releases. -/
theorem Gang.anyRelease_eq_false (g : Gang) (hparks : g.parks = []) (h : ∀ k pc, g.joinReady k pc ≠ true) : g.anyRelease = false := by
  rw [Gang.anyRelease, hparks, List.any_nil, Bool.or_false, List.any_eq_false]
  intro k _ hk
  obtain ⟨pc, hpc⟩ := (g.joinPc_isSome_iff k).1 hk
  exact h k pc hpc

/-! ## A gang whose threads all wait at JOINs (R20) -/

theorem Gang.waitMask_of_joins (g : Gang) (i k : Nat) (pc : Word) (h : g.joinsAt i = some (k, pc)) : g.waitMask i = some k := by
  obtain ⟨n, seat, hst, rfl, -⟩ := (g.joinsAt_eq_some i k pc).1 h
  rw [Gang.waitMask, hst]

theorem Gang.barOf_of_joins (g : Gang) (i k : Nat) (pc : Word) (h : g.joinsAt i = some (k, pc)) : g.barOf i = none := by
  obtain ⟨n, seat, hst, -, -⟩ := (g.joinsAt_eq_some i k pc).1 h
  rw [Gang.barOf, hst]

/-- Every thread of the gang that has not exited waits at a JOIN. -/
def Gang.AllJoin (g : Gang) : Prop := ∀ i, i < 32 → g.live.getLsbD i = true → (g.joinsAt i).isSome = true

theorem Gang.AllJoin.waits {g : Gang} (h : g.AllJoin) {i : Nat} (hi : i ∈ lanesOf g.live) : ∃ k pc, g.joinsAt i = some (k, pc) := by
  rw [mem_lanesOf] at hi
  obtain ⟨⟨k, pc⟩, hat⟩ := Option.isSome_iff_exists.1 (h i hi.1 hi.2)
  exact ⟨k, pc, hat⟩

/-- While a JOIN can release, the gang settles nothing. -/
theorem State.settleGang_release (s : State) (w g : Nat) (hall : (s.gang w g).AllJoin) (hrel : (s.gang w g).anyRelease = true) :
    s.settleGang w g = s := by
  unfold State.settleGang
  cases hl : lanesOf (s.gang w g).live with
  | nil => simp only [hl, List.head?_nil]
  | cons l0 l =>
    obtain ⟨k, pc, hat⟩ := hall.waits (i := l0) (by rw [hl]; exact List.mem_cons_self)
    have hbar := (s.gang w g).barOf_of_joins _ _ _ hat
    have hbars : (s.gang w g).barAll = none := by
      rw [Gang.barAll, hl]
      simp only [hbar, ite_self]
    simp [hl, hrel, hbars, hbar]

/-- Where no JOIN can release, the gang traps with JOIN_DEADLOCK: its lowest thread's mask and address (R20). -/
theorem State.settleGang_deadlock (s : State) (w g l n : Nat) (q : Word) (hall : (s.gang w g).AllJoin)
    (hrel : (s.gang w g).anyRelease = false) (hl : (s.gang w g).live.getLsbD l = true)
    (hlow : ∀ i, i < l → (s.gang w g).live.getLsbD i = false) (hat : (s.gang w g).joinsAt l = some (n, q)) :
    s.settleGang w g = s.takeTrap w g (s.gang w g).nextId none cDEADLOCK (s.gang w g).live (word n) q := by
  have hhead := lowest_eq_some _ l hl hlow
  have hwait : (lanesOf (s.gang w g).live).all (fun i => ((s.gang w g).waitMask i).isSome) = true := by
    rw [List.all_eq_true]
    intro i hi
    obtain ⟨k, pc, hi⟩ := hall.waits hi
    rw [(s.gang w g).waitMask_of_joins _ _ _ hi, Option.isSome_some]
  obtain ⟨m, seat, hst, hm, hpc⟩ := ((s.gang w g).joinsAt_eq_some l n q).1 hat
  unfold State.settleGang
  rw [lowest] at hhead
  simp only [hhead, hwait, hrel, Bool.not_false, Bool.and_self, if_true, (s.gang w g).waitMask_of_joins _ _ _ hat, Option.getD_some, hpc]

/-! ## Threads and splits moved -/

/-- The gangs differ in threads and splits at most. -/
def Gang.Moved (g h : Gang) : Prop := ∃ t a, h = { g with thr := t, splits := a }

theorem Gang.Moved.trans {g h z : Gang} (hgh : g.Moved h) (hhz : h.Moved z) : g.Moved z := by
  obtain ⟨t, a, rfl⟩ := hgh
  obtain ⟨t', a', rfl⟩ := hhz
  exact ⟨t', a', rfl⟩

theorem Gang.Moved.modThreads (g : Gang) (m : Mask) (f : Thread → Thread) : g.Moved (g.modThreads m f) := by
  obtain ⟨t, h⟩ := Gang.modThreads_eq g m f
  exact ⟨t, g.splits, h⟩

theorem Gang.Moved.setLanes (g : Gang) (id : Nat) (m : Mask) : g.Moved (g.setLanes id m) := ⟨g.thr, _, rfl⟩

@[simp] theorem Gang.thread_setLanes (g : Gang) (id : Nat) (m : Mask) (i : Nat) : (g.setLanes id m).thread i = g.thread i := rfl

/-! ## JOIN (R145) -/

/-- The lanes of the split in issue go on to the next word. -/
def Issue.passGang (c : Issue) (g : Gang) : Gang :=
  let y := g.modThreads c.lanes (fun t => { t with pc := c.pc + 8 })
  y.setLanes c.split (y.lanesAt c.split)

/-- Where a thread stands when its split has gone on. -/
def Issue.passThread (c : Issue) (g : Gang) (i : Nat) : Thread :=
  if c.lanes.getLsbD i then { g.thread i with pc := c.pc + 8 } else g.thread i

theorem Issue.passGang_moved (c : Issue) (g : Gang) : g.Moved (c.passGang g) :=
  (Gang.Moved.modThreads _ _ _).trans (Gang.Moved.setLanes _ _ _)

theorem Issue.thread_passGang (c : Issue) (g : Gang) (i : Nat) (hi : i < 32) : (c.passGang g).thread i = c.passThread g i := by
  simp only [Issue.passGang, Issue.passThread, Gang.thread_modThreads _ _ _ _ hi, Gang.thread_setLanes]

/-- What JOIN does to its gang: the active lanes of its mask wait at the word, the others of the split pass. -/
def Issue.joinGang (c : Issue) (waits : Mask) (k : Nat) (g : Gang) : Gang :=
  ((c.passGang g).setLanes c.split (c.lanes &&& ~~~waits)).modThreads waits
    (fun t => { t with st := .joinWait (BitVec.ofNat 3 k) c.split, pc := c.pc })

/-- Where a thread stands after JOIN. -/
def Issue.joinThread (c : Issue) (waits : Mask) (k : Nat) (g : Gang) (i : Nat) : Thread :=
  if waits.getLsbD i then { g.thread i with st := .joinWait (BitVec.ofNat 3 k) c.split, pc := c.pc }
  else if c.lanes.getLsbD i then { g.thread i with pc := c.pc + 8 } else g.thread i

theorem Issue.joinThread_warn (c : Issue) (waits : Mask) (k : Nat) (g : Gang) (bits : Nat) (pc : Word) (i : Nat) :
    c.joinThread waits k (g.warn bits pc) i = c.joinThread waits k g i := by
  simp only [Issue.joinThread, Gang.thread_warn]

theorem Issue.joinGang_moved (c : Issue) (waits : Mask) (k : Nat) (g : Gang) : g.Moved (c.joinGang waits k g) :=
  ((c.passGang_moved g).trans (Gang.Moved.setLanes _ _ _)).trans (Gang.Moved.modThreads _ _ _)

theorem Issue.thread_joinGang (c : Issue) (waits : Mask) (k : Nat) (g : Gang) (i : Nat) (hi : i < 32) :
    (c.joinGang waits k g).thread i = c.joinThread waits k g i := by
  simp only [Issue.joinGang, Issue.joinThread, Gang.thread_modThreads _ _ _ _ hi, Gang.thread_setLanes, c.thread_passGang g i hi,
    Issue.passThread]
  cases waits.getLsbD i <;> cases c.lanes.getLsbD i <;> rfl

section Join
variable {w : FullWord} {s : State} {c : Issue} (h : Ready 0x0A w s c)
include h

/-- JOIN leaves a gang that differs in threads, splits and the run, and then the gang settles. -/
theorem exec_join :
    let k := w.sa.toNat % 8
    ∃ y, exec (.join w) s = .next ((s.setGang c.wg c.gang y).settleGang c.wg c.gang) ∧
      WordDone c s (s.setGang c.wg c.gang y) (c.g s) ∧ y.tvec = (c.g s).tvec ∧ y.parks = (c.g s).parks ∧ y.k = (c.g s).k ∧
      ∀ i, i < 32 → y.thread i = c.joinThread (c.act &&& (c.g s).kGet k) k (c.g s) i := by
  intro k
  let waits := c.act &&& (c.g s).kGet k
  obtain ⟨a, b, r, n, hcount⟩ := c.count_mod true s (fun g => c.joinGang waits k (g.warn (c.f.warns 0x0A w) c.pc))
  have hthread := c.thread_joinGang waits k ((c.g s).warn (c.f.warns 0x0A w) c.pc)
  obtain ⟨t, a', hy⟩ := c.joinGang_moved waits k ((c.g s).warn (c.f.warns 0x0A w) c.pc)
  rw [hy] at hthread hcount
  have hsys := SameSystem.warn (c.g s) (c.f.warns 0x0A w) c.pc
  have hregs := SameRegisters.warn (c.g s) (c.f.warns 0x0A w) c.pc
  refine ⟨{ (c.g s).warn (c.f.warns 0x0A w) c.pc with thr := t, splits := a, last := b, run := r, readyAt := n }, ?_,
    WordDone.setGang h { hsys with } { hregs with } rfl rfl, hsys.tvec, hsys.parks, hregs.k,
    fun i hi => (hthread i hi).trans (c.joinThread_warn _ _ _ _ _ _)⟩
  refine h.settles (Eq.trans ?_ hcount)
  simp only [Issue.g_warn, Gang.kGet_warn]
  rw [Issue.advance, Issue.warn, Issue.mod_mod, Issue.mod_mod]
  rfl

end Join

/-- Every lane of the issuing split stands in EXEC, as R18 has it. -/
def Issue.Stands (c : Issue) (s : State) : Prop := ∀ i, i < 32 → c.lanes.getLsbD i = true → ((c.g s).thread i).st = .exec

/-- Where a thread waits once JOIN kN has performed. -/
def Issue.joinsAfter (c : Issue) (g : Gang) (k i : Nat) : Option (Nat × Word) :=
  if (c.act &&& g.kGet k).getLsbD i then some (k, c.pc) else g.joinsAt i

section JoinStands
variable {w : FullWord} {s : State} {c : Issue} (h : Ready 0x0A w s c) (hs : c.Stands s) {y : Gang} {k : Nat}
  (hy : ∀ i, i < 32 → y.thread i = c.joinThread (c.act &&& (c.g s).kGet k) k (c.g s) i)
include hs hy

theorem Issue.Stands.joinsAt_eq (hk : k < 8) (i : Nat) (hi : i < 32) : y.joinsAt i = c.joinsAfter (c.g s) k i := by
  rw [Issue.joinsAfter, Gang.joinsAt, hy i hi, Issue.joinThread]
  cases hw : (c.act &&& (c.g s).kGet k).getLsbD i
  · cases hl : c.lanes.getLsbD i
    · rfl
    · simp [Gang.joinsAt, hs i hi hl]
  · simp [Nat.mod_eq_of_lt hk]

include h in
/-- JOIN ends no thread and brings none back. -/
theorem Ready.live_join : y.live = (c.g s).live := by
  apply BitVec.eq_of_getLsbD_eq
  intro i hi
  rw [Bool.eq_iff_iff, Gang.live_iff _ _ hi, Gang.live_iff _ _ hi, hy i hi, Issue.joinThread]
  cases hw : (c.act &&& (c.g s).kGet k).getLsbD i
  · cases c.lanes.getLsbD i <;> simp
  · rw [BitVec.getLsbD_and, Bool.and_eq_true] at hw
    simp [hs i hi (h.act_lanes i hw.1)]

end JoinStands

/-- What JOIN leaves where its gang has nothing to settle (R145). -/
def Issue.Joined (c : Issue) (s t : State) (k : Nat) : Prop :=
  WordDone c s t (c.g s) ∧ ∀ i, i < 32 → (c.g t).thread i = c.joinThread (c.act &&& (c.g s).kGet k) k (c.g s) i

section JoinEnds
variable {w : FullWord} {s : State} {c : Issue} (h : Ready 0x0A w s c)
include h

/-- With a thread still in EXEC, JOIN parks the active lanes of kN and lets the others pass (R145). -/
theorem join_passes (he : ∃ i, i < 32 ∧ (c.act &&& (c.g s).kGet (w.sa.toNat % 8)).getLsbD i = false ∧ ((c.g s).thread i).st = .exec) :
    ∃ t, exec (.join w) s = .next t ∧ c.Joined s t (w.sa.toNat % 8) := by
  obtain ⟨y, hexec, hdone, -, -, -, hy⟩ := exec_join h
  obtain ⟨i, hi, hwait, hst⟩ := he
  refine ⟨s.setGang c.wg c.gang y, hexec.trans (congrArg _ (State.settleGang_exec _ _ _ ⟨i, hi, ?_⟩)), hdone, ?_⟩
  · rw [State.gang_setGang, hy i hi, Issue.joinThread, hwait]
    cases c.lanes.getLsbD i <;> exact hst
  · rw [Issue.g_setGang]
    exact hy

/-- So it does when then every thread waits and one of the JOINs can release. -/
theorem join_completes (hs : c.Stands s)
    (hall : ∀ i, i < 32 → (c.g s).live.getLsbD i = true → (c.joinsAfter (c.g s) (w.sa.toNat % 8) i).isSome = true)
    (hrel : ∃ m pc, (∃ i, i < 32 ∧ c.joinsAfter (c.g s) (w.sa.toNat % 8) i = some (m, pc)) ∧
      ∀ j, j < 32 → ((c.g s).kGet m).getLsbD j = true → (c.g s).live.getLsbD j = true →
        c.joinsAfter (c.g s) (w.sa.toNat % 8) j = some (m, pc)) :
    ∃ t, exec (.join w) s = .next t ∧ c.Joined s t (w.sa.toNat % 8) := by
  obtain ⟨y, hexec, hdone, -, -, hk, hy⟩ := exec_join h
  have hjoins := hs.joinsAt_eq hy (Nat.mod_lt _ (by decide))
  have hlive := h.live_join hs hy
  have hallY : y.AllJoin := fun i hi hl => by rw [hjoins i hi]; exact hall i hi (hlive ▸ hl)
  obtain ⟨m, pc, ⟨i, hi, hat⟩, hm⟩ := hrel
  have hready : y.joinReady m pc = true := by
    rw [Gang.joinReady_iff]
    refine ⟨⟨i, hi, (hjoins i hi).trans hat⟩, fun j hj hkj hlj => ?_⟩
    rw [hjoins j hj]
    rw [Gang.kGet, hk] at hkj
    exact hm j hj hkj (hlive ▸ hlj)
  refine ⟨s.setGang c.wg c.gang y, hexec.trans (congrArg _ (State.settleGang_release _ _ _ ?_ ?_)), hdone, ?_⟩
  · rw [State.gang_setGang]; exact hallY
  · rw [State.gang_setGang]; exact y.anyRelease_of_ready m pc hready
  · rw [Issue.g_setGang]; exact hy

end JoinEnds

/-! ## Taking a trap with a handler (R296) -/

theorem Gang.releaseEach_none (k cycle n : Nat) (x : Gang) (h : (x.joinPc k).isSome = false) : Gang.releaseEach k cycle n x = x := by
  cases n
  · rfl
  · rw [Gang.releaseEach, h]; rfl

/-- Where no JOIN can release, the JOINs that can release leave the gang alone. -/
theorem Gang.releaseJoins_none (x : Gang) (cycle : Nat) (h : ∀ k pc, x.joinReady k pc ≠ true) : x.releaseJoins cycle = x := by
  refine List.foldl_fixed' (fun k => Gang.releaseEach_none k cycle 32 x ?_) _
  rw [Bool.eq_false_iff]
  intro hk
  obtain ⟨pc, hpc⟩ := (x.joinPc_isSome_iff k).1 hk
  exact h k pc hpc

theorem Tab.get_filter {α : Type} [Inhabited α] (m : Tab α) (p : Nat → Bool) (k : Nat) (h : p k = true) :
    Tab.get (m.filter (fun e => p e.1)) k = Tab.get m k := by
  induction m with
  | nil => rfl
  | cons e l ih =>
    obtain ⟨j, a⟩ := e
    by_cases hj : j = k
    · subst hj; simp [Tab.get, h]
    · cases hp : p j <;> simp [Tab.get, hp, hj, ih]

theorem Tab.get_setEach {α β : Type} [Inhabited α] [DecidableEq α] (l : List β) (key : β → Nat) (val : β → α) (m : Tab α) (k : Nat)
    (h : ∀ e ∈ l, key e ≠ k) : Tab.get (l.foldl (fun t e => Tab.set t (key e) (val e)) m) k = Tab.get m k := by
  induction l generalizing m with
  | nil => rfl
  | cons e l ih =>
    rw [List.foldl_cons, ih _ (fun e he => h e (List.mem_cons_of_mem _ he)),
      Tab.get_set_ne _ _ _ _ (Ne.symm (h e List.mem_cons_self))]

/-- The exchange with the trap bank leaves v0 to v119 alone. -/
theorem Gang.vGet_exchange (g : Gang) (i r : Nat) (hr : r < 120) : g.exchange.vGet i r = g.vGet i r := by
  have hkey : vKey i r % 128 < 120 := by unfold vKey; omega
  refine (Tab.get_setEach _ _ _ _ _ (fun e _ he => ?_)).trans (Tab.get_filter g.v (fun n => n % 128 < 120) _ (by simpa using hkey))
  rw [← he] at hkey
  omega

/-- Every thread that has not exited enters the handler in EXEC; threads and splits apart, latches, parks and the run are new. -/
theorem Gang.enter_eq (g : Gang) (pc : Word) :
    ∃ t, g.enter pc = { g with thr := t, splits := [{ id := g.nextId, lanes := g.live, replay := none }], parks := [], last := g.nextId,
                               run := none, b := [], nextId := g.nextId + 1 } ∧
      ∀ i, i < 32 → Tab.get t i = if g.live.getLsbD i then { g.thread i with st := .exec, pc := pc } else g.thread i := by
  obtain ⟨t, ht⟩ := Gang.modThreads_eq g g.live (fun t => { t with st := .exec, pc := pc })
  have hthread := Gang.thread_modThreads g g.live (fun t => { t with st := .exec, pc := pc })
  rw [ht] at hthread
  refine ⟨t, ?_, hthread⟩
  unfold Gang.enter
  simp only
  rw [ht]

/-- The trap registers written and the bank exchanged: the gang as it enters its handler (R296). -/
def Gang.beforeHandler (y : Gang) (cause : Nat) (mask : Mask) (tinfo pc : Word) : Gang :=
  ({ y with tpc := codeAddr pc, tcause := word cause, tmask := word mask.toNat, tinfo := tinfo } : Gang).exchange

theorem Gang.enterTrap_eq (y : Gang) (split : Nat) (run : Option Run) (cause : Nat) (mask : Mask) (tinfo pc : Word) (cycle : Nat)
    (h : ∀ k pc, y.joinReady k pc ≠ true) :
    y.enterTrap split run cause mask tinfo pc cycle =
      { (y.beforeHandler cause mask tinfo pc).enter (codeAddr y.tvec) with
        inTrap := true, saved := some (y.save split run), readyAt := cycle } := by
  unfold Gang.enterTrap
  rw [Gang.releaseJoins_none y cycle h]
  rfl

/-- A trap taken by a gang in which no JOIN can release (R296). -/
theorem Gang.enterTrap_trapped (c : Issue) (y : Gang) (split : Nat) (run : Option Run) (cause : Nat) (mask : Mask) (tinfo pc : Word)
    (cycle : Nat) (h : ∀ k pc, y.joinReady k pc ≠ true) :
    Trapped c cause mask tinfo pc y (y.enterTrap split run cause mask tinfo pc cycle) := by
  obtain ⟨t, ht, hthread⟩ := (y.beforeHandler cause mask tinfo pc).enter_eq (codeAddr y.tvec)
  rw [y.enterTrap_eq split run cause mask tinfo pc cycle h, ht]
  refine ⟨rfl, rfl, rfl, rfl, rfl, fun i hi hst => ?_, fun i r _ hr => Gang.vGet_exchange _ i r hr⟩
  have hat : Tab.get t i = { y.thread i with st := .exec, pc := codeAddr y.tvec } :=
    (hthread i hi).trans (if_pos ((y.live_iff i hi).2 hst))
  exact ⟨congrArg Thread.st hat, congrArg Thread.pc hat⟩

section Deadlock
variable {w : FullWord} {s : State} {c : Issue} (h : Ready 0x0A w s c)
include h

/-- When every thread waits and no JOIN can release, the gang traps with JOIN_DEADLOCK (R20): every live lane in tmask, the lowest
thread's mask number in tinfo, its address in tpc. -/
theorem join_deadlocks (hs : c.Stands s) (htrap : CanTrap c s) (hparks : (c.g s).parks = []) {l n : Nat} {q : Word}
    (hall : ∀ i, i < 32 → (c.g s).live.getLsbD i = true → (c.joinsAfter (c.g s) (w.sa.toNat % 8) i).isSome = true)
    (hstuck : ∀ m pc, (∃ i, i < 32 ∧ c.joinsAfter (c.g s) (w.sa.toNat % 8) i = some (m, pc)) →
      ∃ j, j < 32 ∧ ((c.g s).kGet m).getLsbD j = true ∧ (c.g s).live.getLsbD j = true ∧
        c.joinsAfter (c.g s) (w.sa.toNat % 8) j ≠ some (m, pc))
    (hl : (c.g s).live.getLsbD l = true) (hlow : ∀ i, i < l → (c.g s).live.getLsbD i = false)
    (hat : c.joinsAfter (c.g s) (w.sa.toNat % 8) l = some (n, q)) :
    ∃ t, exec (.join w) s = .next t ∧ OnlyGang c.wg c.gang s t ∧ Trapped c 0x11 (c.g s).live (word n) q (c.g s) (c.g t) := by
  obtain ⟨y, hexec, hdone, htvec, hyparks, hk, hy⟩ := exec_join h
  have hjoins := hs.joinsAt_eq hy (Nat.mod_lt _ (by decide))
  have hlive := h.live_join hs hy
  have hallY : y.AllJoin := fun i hi hl => by rw [hjoins i hi]; exact hall i hi (hlive ▸ hl)
  have hstuckY : ∀ k pc, y.joinReady k pc ≠ true := by
    intro k pc hready
    obtain ⟨⟨i, hi, hati⟩, hm⟩ := (y.joinReady_iff k pc).1 hready
    obtain ⟨j, hj, hkj, hlj, hne⟩ := hstuck k pc ⟨i, hi, (hjoins i hi).symm.trans hati⟩
    refine hne ((hjoins j hj).symm.trans (hm j hj ?_ (hlive.symm ▸ hlj)))
    rw [Gang.kGet, hk]; exact hkj
  have hsame : SameSystem (c.g s) y := by rw [← c.g_setGang s y]; exact hdone.system
  have hgang : (s.setGang c.wg c.gang y).gang c.wg c.gang = y := State.gang_setGang _ _ _ _
  obtain ⟨hmode, hui, hvec⟩ := htrap
  have hsettle : (s.setGang c.wg c.gang y).settleGang c.wg c.gang =
      s.setGang c.wg c.gang (y.enterTrap y.nextId none cDEADLOCK y.live (word n) q s.cycle) := by
    rw [State.settleGang_deadlock _ _ _ l n q (by rwa [hgang]) (by rw [hgang]; exact y.anyRelease_eq_false (hyparks.trans hparks) hstuckY)
      (by rwa [hgang, hlive]) (by rwa [hgang, hlive]) (by rw [hgang, hjoins l (lt_of_getLsbD _ _ hl)]; exact hat), hgang]
    simp only [State.takeTrap, hgang, hsame.inTrap, hsame.inUi, hsame.tvec, hmode, hui, hvec, Bool.or_self, Bool.false_eq_true, if_false,
      State.setGang_setGang]
    rfl
  refine ⟨_, hexec.trans (congrArg _ hsettle), OnlyGang.setGang _ _ _ _, ?_⟩
  rw [Issue.g_setGang, ← hlive]
  obtain ⟨h1, h2, h3, h4, h5, h6, h7⟩ := y.enterTrap_trapped c y.nextId none cDEADLOCK y.live (word n) q s.cycle hstuckY
  refine ⟨h1, h2, h3, h4, h5, fun i hi hst => ?_, fun i r hi hr => ?_⟩
  · rw [← htvec]
    exact h6 i hi ((y.live_iff i hi).1 (hlive ▸ ((c.g s).live_iff i hi).2 hst))
  · have hv : y.v = (c.g s).v := by rw [← c.g_setGang s y]; exact hdone.v
    rw [h7 i r hi hr, Gang.vGet, hv, Gang.vGet]

end Deadlock

/-! ## JOIN_RELEASE (R20) -/

theorem Gang.reseat_eq (g : Gang) (lanes : Mask) (pc : Word) (seat : Nat) :
    ∃ a n, g.reseat lanes pc seat = { g.modThreads lanes (fun t => { t with st := .exec, pc := pc }) with splits := a, nextId := n } := by
  unfold Gang.reseat
  simp only
  split
  · split
    · exact ⟨_, _, rfl⟩
    · exact ⟨_, _, rfl⟩
  · exact ⟨_, _, rfl⟩

/-- The JOIN that releases is the first that can, where all the waiters of kN wait at one address. -/
theorem Gang.joinPc_eq (g : Gang) (k : Nat) (pc : Word) (h : g.joinReady k pc = true) (honly : ∀ q, q ≠ pc → g.joinWaiters k q = 0#32) :
    g.joinPc k = some pc := by
  obtain ⟨q, hq⟩ := Option.isSome_iff_exists.1 ((g.joinPc_isSome_iff k).2 ⟨pc, h⟩)
  have hready : g.joinReady k q = true := List.find?_some (p := fun pc => g.joinReady k pc) hq
  by_cases e : q = pc
  · rw [hq, e]
  · rw [Gang.joinReady, honly q e] at hready
    simp at hready

/-- Waiters that are seated again leave a gang that differs in threads, splits, numbers and the ready time. -/
theorem Gang.reseated_eq (g : Gang) (lanes : Mask) (pc : Word) (seat cycle : Nat) :
    ∃ t a n r, ((g.reseat lanes pc seat).tidy).readyFrom g cycle = { g with thr := t, splits := a, nextId := n, readyAt := r } ∧
      ∀ i, i < 32 → Tab.get t i = if lanes.getLsbD i then { g.thread i with st := .exec, pc := pc } else g.thread i := by
  obtain ⟨a, n, hseat⟩ := g.reseat_eq lanes pc seat
  obtain ⟨t, ht⟩ := Gang.modThreads_eq g lanes (fun t => { t with st := .exec, pc := pc })
  have hthread := Gang.thread_modThreads g lanes (fun t => { t with st := .exec, pc := pc })
  rw [ht] at hseat hthread
  rw [hseat]
  exact ⟨t, _, n, _, rfl, hthread⟩

/-- JOIN_RELEASE (R20): every thread that waits at the JOIN goes on at the next word, the others stay. -/
theorem joinRelease_goesOn (s : State) (w g k : Nat) (pc : Word) :
    let x := s.gang w g
    x.joinWaiters k pc ≠ 0#32 →
    (∀ i, i < 32 → (x.kGet k).getLsbD i = true → (x.joinWaiters k pc).getLsbD i = true ∨ (x.thread i).st = .exited) →
    (∀ q, q ≠ pc → x.joinWaiters k q = 0#32) →
    ∃ t, exec (.joinRelease w g k) s = .next t ∧ OnlyGang w g s t ∧ SameRegisters x (t.gang w g) ∧ SameSystem x (t.gang w g) ∧
      ∀ i, i < 32 → (t.gang w g).thread i =
        if (x.joinWaiters k pc).getLsbD i then { x.thread i with st := .exec, pc := pc + 8 } else x.thread i := by
  intro x hsome hall honly
  have hready : x.joinReady k pc = true := by
    rw [Gang.joinReady_iff]
    obtain ⟨i, hi, hw⟩ := (mask_ne_zero_iff _).1 hsome
    refine ⟨⟨i, hi, (x.getLsbD_joinWaiters k pc i hi).1 hw⟩, fun j hj hkj hlj => ?_⟩
    exact (x.getLsbD_joinWaiters k pc j hj).1 ((hall j hj hkj).resolve_right ((x.live_iff j hj).1 hlj))
  have hpc := x.joinPc_eq k pc hready honly
  obtain ⟨t, a, n, r, heq, hthread⟩ : ∃ t a n r, x.releaseJoin k s.cycle = { x with thr := t, splits := a, nextId := n, readyAt := r } ∧
      ∀ i, i < 32 → Tab.get t i =
        if (x.joinWaiters k pc).getLsbD i then { x.thread i with st := .exec, pc := pc + 8 } else x.thread i := by
    rw [Gang.releaseJoin, hpc]
    exact x.reseated_eq _ _ _ _
  refine ⟨_, rfl, OnlyGang.modGang _ _ _ _, ?_⟩
  have hgang : ((s.modGang w g (fun x => x.releaseJoin k s.cycle)).gang w g) = { x with thr := t, splits := a, nextId := n, readyAt := r } :=
    (State.gang_modGang _ _ _ _).trans heq
  rw [hgang]
  exact ⟨by constructor <;> rfl, by constructor <;> rfl, hthread⟩

/-! ## EXIT (R143) -/

/-- The rejoin masks after lanes have left them. -/
theorem Tab.get_clear (t : Tab Mask) (m : Mask) (j n : Nat) :
    Tab.get ((List.range n).foldl (fun t n => Tab.set t n (Tab.get t n &&& ~~~m)) t) j =
      if j < n then Tab.get t j &&& ~~~m else Tab.get t j := by
  induction n with
  | zero => rfl
  | succ n ih =>
    rw [List.range_succ, List.foldl_append, List.foldl_cons, List.foldl_nil]
    by_cases e : j = n
    · subst e
      rw [Tab.get_set_same, ih]
      simp
    · rw [Tab.get_set_ne _ _ _ _ e, ih]
      simp [show j < n + 1 ↔ j < n by omega]

/-- Lanes that exit leave a gang that differs in threads, splits and rejoin masks. -/
theorem Gang.exitLanes_eq (g : Gang) (m : Mask) :
    ∃ t a k, g.exitLanes m = { g with thr := t, splits := a, k := k } ∧
      (∀ i, i < 32 → Tab.get t i = if m.getLsbD i then { g.thread i with st := .exited } else g.thread i) ∧
      ∀ n, n < 8 → Tab.get k n = g.kGet n &&& ~~~m := by
  obtain ⟨t, ht⟩ := Gang.modThreads_eq g m (fun t => { t with st := .exited })
  have hthread := Gang.thread_modThreads g m (fun t => { t with st := .exited })
  rw [ht] at hthread
  unfold Gang.exitLanes
  simp only [ht]
  exact ⟨t, _, _, rfl, hthread, fun n hn => (Tab.get_clear _ _ _ _).trans (if_pos hn)⟩

/-- A gang whose threads have all exited settles nothing. -/
theorem State.settleGang_exited (s : State) (w g : Nat) (h : ∀ i, i < 32 → ((s.gang w g).thread i).st = .exited) :
    s.settleGang w g = s := by
  have hnone : lanesOf (s.gang w g).live = [] := by
    rw [List.eq_nil_iff_forall_not_mem]
    intro i hi
    rw [mem_lanesOf] at hi
    exact ((s.gang w g).live_iff i hi.1).1 hi.2 (h i hi.1)
  unfold State.settleGang
  simp only [hnone, List.head?_nil]

section Exit
variable {w : FullWord} {s : State} {c : Issue} (h : Ready 0x08 w s c)
include h

/-- EXIT outside trap mode: the active threads are exited, the others of the split pass, and then the gang settles. -/
theorem exec_exit (hmode : (c.g s).inTrap = false) :
    ∃ y, exec (.exit w) s = .next ((s.setGang c.wg c.gang y).settleGang c.wg c.gang) ∧
      SameSystem (c.g s) y ∧ SameValues (c.g s) y ∧ y.p = (c.g s).p ∧ y.d = (c.g s).d ∧
      (∀ i, i < 32 → y.thread i = if c.act.getLsbD i then { c.passThread (c.g s) i with st := .exited } else c.passThread (c.g s) i) ∧
      ∀ n, n < 8 → y.kGet n = (c.g s).kGet n &&& ~~~c.act := by
  obtain ⟨a, b, r, n, hcount⟩ := c.count_mod true s (fun g => (c.passGang (g.warn (c.f.warns 0x08 w) c.pc)).exitLanes c.act)
  obtain ⟨t', a', hpass⟩ := c.passGang_moved ((c.g s).warn (c.f.warns 0x08 w) c.pc)
  have hthread := c.thread_passGang ((c.g s).warn (c.f.warns 0x08 w) c.pc)
  rw [hpass] at hcount hthread
  obtain ⟨t, a'', k, hexit, hexited, hk⟩ := Gang.exitLanes_eq
    { (c.g s).warn (c.f.warns 0x08 w) c.pc with thr := t', splits := a' } c.act
  rw [hexit] at hcount
  have hsys := SameSystem.warn (c.g s) (c.f.warns 0x08 w) c.pc
  have hregs := SameRegisters.warn (c.g s) (c.f.warns 0x08 w) c.pc
  refine ⟨{ (c.g s).warn (c.f.warns 0x08 w) c.pc with thr := t, k := k, splits := a, last := b, run := r, readyAt := n }, ?_,
    { hsys with }, ⟨hregs.v, hregs.b⟩, hregs.p, hregs.d, fun i hi => ?_, 
    fun n hn => (hk n hn).trans (congrArg (· &&& ~~~c.act) (Gang.kGet_warn (c.g s) (c.f.warns 0x08 w) c.pc n))⟩
  · refine h.settles (Eq.trans ?_ hcount)
    simp only [Issue.g_warn, hsys.inTrap, hmode, Bool.false_eq_true, if_false]
    rw [Issue.advance, Issue.warn, Issue.mod_mod, Issue.mod_mod]
    rfl
  · refine (hexited i hi).trans ?_
    rw [hthread i hi, Issue.passThread, Gang.thread_warn, Issue.passThread]

/-- EXIT (R143): the active threads end and leave every rejoin mask, where the gang has nothing to settle afterwards. -/
theorem exit_ends (hmode : (c.g s).inTrap = false)
    (hrest : (∃ i, i < 32 ∧ ¬c.on i ∧ ((c.g s).thread i).st = .exec) ∨ ∀ i, i < 32 → ((c.g s).thread i).st ≠ .exited → c.on i) :
    ∃ t, exec (.exit w) s = .next t ∧ OnlyGang c.wg c.gang s t ∧ SameSystem (c.g s) (c.g t) ∧ SameValues (c.g s) (c.g t) ∧
      (c.g t).p = (c.g s).p ∧ (c.g t).d = (c.g s).d ∧ (∀ i, c.on i → ((c.g t).thread i).st = .exited) ∧
      (∀ i, i < 32 → ¬c.on i → (c.g t).thread i =
        if c.lanes.getLsbD i then { (c.g s).thread i with pc := c.pc + 8 } else (c.g s).thread i) ∧
      ∀ n, n < 8 → (c.g t).kGet n = (c.g s).kGet n &&& ~~~c.act := by
  obtain ⟨y, hexec, hsys, hvals, hp, hd, hthread, hk⟩ := exec_exit h hmode
  have hon : ∀ i, c.on i → (y.thread i).st = .exited := by
    rintro i ⟨hi, hact⟩
    rw [hthread i hi, if_pos hact]
  have hoff : ∀ i, i < 32 → ¬c.on i → y.thread i = c.passThread (c.g s) i := by
    intro i hi hact
    rw [hthread i hi, if_neg fun e => hact ⟨hi, e⟩]
  have hsettle : (s.setGang c.wg c.gang y).settleGang c.wg c.gang = s.setGang c.wg c.gang y := by
    rcases hrest with ⟨i, hi, hact, hst⟩ | hall
    · refine State.settleGang_exec _ _ _ ⟨i, hi, ?_⟩
      rw [State.gang_setGang, hoff i hi hact, Issue.passThread]
      split <;> exact hst
    · refine State.settleGang_exited _ _ _ fun i hi => ?_
      rw [State.gang_setGang]
      by_cases hact : c.on i
      · exact hon i hact
      · have hst : ((c.g s).thread i).st = .exited := not_not.1 fun e => hact (hall i hi e)
        rw [hoff i hi hact, Issue.passThread]
        split <;> exact hst
  refine ⟨_, hexec.trans (congrArg _ hsettle), OnlyGang.setGang _ _ _ _, ?_⟩
  rw [Issue.g_setGang]
  exact ⟨hsys, hvals, hp, hd, hon, hoff, hk⟩

end Exit

/-! ## Reports withdrawn (R299) -/

theorem State.sendReport_wgs (s t : State) (r : Report) (h : s.sendReport r = some t) : t.wgs = s.wgs := by
  unfold State.sendReport at h
  split at h
  · cases h
  · split at h
    · simp only [State.ctxRing] at h
      split at h
      · cases h
      · cases h; rfl
    · simp only [State.vifRing] at h
      split at h
      · cases h
      · cases h; rfl

theorem State.flushReports_wgs (s : State) : s.flushReports.wgs = s.wgs := by
  unfold State.flushReports
  generalize s.sched.reports.map Report.num = l
  induction l generalizing s with
  | nil => rfl
  | cons n l ih =>
    rw [List.foldl_cons, ih]
    split
    · rfl
    · split
      · rfl
      · split
        · rfl
        · next t ht => exact State.sendReport_wgs s t _ ht

/-- Reports of parks are no part of the workgroups. -/
theorem State.withdrawReports_wgs (s : State) (p : Report → Bool) : (s.withdrawReports p).wgs = s.wgs :=
  State.flushReports_wgs _

theorem State.wg_of_wgs {s t : State} (h : t.wgs = s.wgs) (v : Nat) : t.wg v = s.wg v := by rw [State.wg, h, State.wg]

theorem State.gang_of_wgs {s t : State} (h : t.wgs = s.wgs) (v k : Nat) : t.gang v k = s.gang v k := by
  rw [State.gang, State.wg_of_wgs h, State.gang]

theorem SameGangs.of_wgs (w g : Nat) {s t : State} (h : t.wgs = s.wgs) : SameGangs w g s t :=
  ⟨fun v k _ => State.gang_of_wgs h v k, fun v => by rw [State.wg_of_wgs h]⟩

theorem SameGangs.trans {w g : Nat} {s t u : State} (hst : SameGangs w g s t) (htu : SameGangs w g t u) : SameGangs w g s u :=
  ⟨fun v k hne => (htu.gangs v k hne).trans (hst.gangs v k hne), fun v => (htu.wgs v).trans (hst.wgs v)⟩

/-- EXIT in trap mode ends every thread of the gang and trap mode (R143). -/
theorem exit_inTrap {w : FullWord} {s : State} {c : Issue} (h : Ready 0x08 w s c) (hmode : (c.g s).inTrap = true) :
    ∃ t, exec (.exit w) s = .next t ∧ (c.g t).inTrap = false ∧ (c.g t).saved = none ∧ (c.g t).parks = [] ∧
      (∀ i, i < 32 → ((c.g t).thread i).st = .exited) ∧ (∀ n, n < 8 → (c.g t).kGet n = (c.g s).kGet n &&& ~~~(c.g s).live) ∧
      SameValues (c.g s) (c.g t) ∧ (c.g t).p = (c.g s).p ∧ (c.g t).d = (c.g s).d ∧ SameGangs c.wg c.gang s t := by
  let warned := c.warn (c.f.warns 0x08 w) s
  let y := (c.g s).warn (c.f.warns 0x08 w) c.pc
  let s1 := warned.withdrawReports (fun r => r.wg == c.wg && r.gang == c.gang)
  have hwgs : s1.wgs = warned.wgs := warned.withdrawReports_wgs _
  have hg1 : c.g s1 = y := (State.gang_of_wgs hwgs _ _).trans (c.g_warn _ _)
  obtain ⟨a, b, r, n, hcount⟩ := c.count_mod true s1
    (fun g => { g.exitLanes g.live with inTrap := false, saved := none, parks := [] })
  obtain ⟨t, a', k, hexit, hthread, hk⟩ := y.exitLanes_eq y.live
  rw [hg1, hexit] at hcount
  have hall : ∀ i, i < 32 → (Tab.get t i).st = .exited := by
    intro i hi
    rw [hthread i hi]
    cases hl : y.live.getLsbD i
    · by_contra e
      exact Bool.false_ne_true (hl.symm.trans ((y.live_iff i hi).2 e))
    · rfl
  have hregs : SameRegisters (c.g s) y := SameRegisters.warn _ _ _
  let z : Gang := { y with thr := t, k := k, inTrap := false, saved := none, parks := [], splits := a, last := b, run := r, readyAt := n }
  have hsettle : (s1.setGang c.wg c.gang z).settleGang c.wg c.gang = s1.setGang c.wg c.gang z := by
    refine State.settleGang_exited _ _ _ fun i hi => ?_
    rw [State.gang_setGang]
    exact hall i hi
  have hgangs : SameGangs c.wg c.gang s (s1.setGang c.wg c.gang z) :=
    ((OnlyGang.modGang s _ _ _).gangs.trans (SameGangs.of_wgs _ _ hwgs)).trans (OnlyGang.setGang s1 _ _ z).gangs
  refine ⟨s1.setGang c.wg c.gang z, (h.settles (Eq.trans ?_ hcount)).trans (congrArg _ hsettle), ?_⟩
  · simp only [Issue.g_warn, (SameSystem.warn (c.g s) (c.f.warns 0x08 w) c.pc).inTrap, hmode, if_true]
    rfl
  · rw [Issue.g_setGang]
    refine ⟨rfl, rfl, rfl, hall, fun n hn => (hk n hn).trans ?_, ⟨hregs.v, hregs.b⟩, hregs.p, hregs.d, hgangs⟩
    rw [Gang.kGet_warn, Gang.live_warn]

end Sys2Proof.Machine

/-! SUPPORT. O15 fails: its JOIN clauses hold where the lanes of the issuing split stand in EXEC (R18), which Ready does not ask for. -/

namespace Sys2Proof.Machine

open Sys2Proof

/-! ## A thread that waits at the JOIN in issue -/

/-- JOIN k0, guarded by p1. -/
def guardedJoin : FullWord :=
  { h := false, gp := 1, gi := false, nw := false, dst := 0, sa := 0, sb := 0, sc := 0, mod := 0 }

/-- Two threads, both lanes of k0: lane 0 in EXEC at 0x10000 with p1 = 1, lane 1 waiting at a JOIN on k0. The split in issue has the lanes
given. A trap handler is installed. -/
def waiterGang (lanes : Mask) (pc1 : Word) : Gang :=
  { (default : Gang) with
    thr := [(0, { st := .exec, pc := 0x10000, rstack := [], refused := 0 }),
      (1, { st := .joinWait 0 0, pc := pc1, rstack := [], refused := 0 })]
    splits := [{ id := 0, lanes := lanes, replay := none }], nextId := 1
    p := [(0, 2#8)], k := [(0, 3#32)], tvec := 0x20000 }

/-- The machine with that gang alone, the word at 0x10000 in issue. -/
def waiterState (lanes : Mask) (pc1 : Word) : State :=
  { State.reset with
    wgs := [(0, { (default : Workgroup) with status := .running, gangs := [(0, waiterGang lanes pc1)] })]
    aux := { State.reset.aux with cur := some { wg := 0, gang := 0, split := 0, pc := 0x10000, replay := none } } }

/-- The JOIN in issue there: lane 0 alone is active. -/
def waiterIssue (lanes : Mask) : Issue :=
  { wg := 0, gang := 0, split := 0, pc := 0x10000, lanes := lanes, act := 1, op := 0x0A, w := guardedJoin,
    f := (form 0x0A guardedJoin).getD default }

/-- The state as a check of what Ready asks for. -/
theorem waiter_ready (lanes : Mask) (pc1 : Word) (h : (waiterState lanes pc1).issue 0x0A guardedJoin = some (waiterIssue lanes)) :
    Ready 0x0A guardedJoin (waiterState lanes pc1) (waiterIssue lanes) where
  issued := h
  formed := rfl
  legal  := rfl
  regs   := rfl
  active := show (1#32 : Mask) ≠ 0#32 by decide
  exec   := ⟨0, by decide, rfl⟩
  now    := by rintro x ⟨⟩; rfl

/-! ## The split holds the waiting thread -/

/-- The split in issue holds lane 1, which is not in EXEC. -/
theorem waiter_not_stands : ¬(waiterIssue 3).Stands (waiterState 3 0x10000) := fun h =>
  absurd (h 1 (by decide) (by decide)) (by decide +kernel)

/-- JOIN moves lane 1 on to the next word as it waits, so that no JOIN can release: the gang traps. -/
theorem waiter_traps (t : State) (ht : exec (.join guardedJoin) (waiterState 3 0x10000) = .next t) : (t.gang 0 0).inTrap = true := by
  have h : (match exec (.join guardedJoin) (waiterState 3 0x10000) with
      | .next t => (t.gang 0 0).inTrap
      | _ => false) = true := by decide +kernel
  rwa [ht] at h

/-- Refutes O15: a split holds a thread that waits at the JOIN in issue and is not active there. As the statement counts, both threads
then wait at that JOIN and it can release; but the thread has gone on with its split, and the gang traps with JOIN_DEADLOCK. No split
of R18 holds a waiting thread, and Ready asks for one thread in EXEC only: with `Issue.Stands` the clauses of JOIN hold (`join_passes`,
`join_completes`, `join_deadlocks`), and the other clauses hold as they are (`kop_ready`, `krd_ready`, `exit_ends`, `exit_inTrap`,
`joinRelease_goesOn`). -/
theorem not_masksAndJoins : ¬ Obligations.MasksAndJoins := by
  unfold Obligations.MasksAndJoins
  rintro ⟨-, -, -, -, hjoin, -⟩
  obtain ⟨t, ht, hdone, -⟩ := hjoin guardedJoin (waiterState 3 0x10000) (waiterIssue 3) (waiter_ready _ _ (by decide +kernel))
    (Or.inr ⟨by decide +kernel, 0, 0x10000#64, ⟨0, by decide, by decide +kernel⟩, by decide +kernel⟩)
  have htrap : (t.gang 0 0).inTrap = true := waiter_traps t ht
  have hsame : (t.gang 0 0).inTrap = false := hdone.system.inTrap
  exact absurd (htrap.symm.trans hsame) (by decide)

/-! ## The split holds the thread in EXEC alone -/

theorem waiter_stands (pc1 : Word) : (waiterIssue 1).Stands (waiterState 1 pc1) := by
  intro i _ hlane
  obtain rfl : i = 0 := by
    by_contra h
    rw [show (waiterIssue 1).lanes = 1#32 from rfl] at hlane
    simp [h] at hlane
  rfl

/-- Where lane 1 waits at the JOIN in issue, that JOIN completes. -/
theorem waiter_completes : ∃ t, exec (.join guardedJoin) (waiterState 1 0x10000) = .next t ∧
    (waiterIssue 1).Joined (waiterState 1 0x10000) t 0 :=
  join_completes (waiter_ready _ _ (by decide +kernel)) (waiter_stands _) (by decide +kernel)
    ⟨0, 0x10000#64, ⟨0, by decide, by decide +kernel⟩, by decide +kernel⟩

/-- Where the threads then wait: lane 0 at the JOIN in issue, lane 1 at its own. -/
theorem waiter_joins : ∀ i, i < 32 → (waiterIssue 1).joinsAfter ((waiterIssue 1).g (waiterState 1 0x10040)) 0 i =
    if i = 0 then some (0, 0x10000#64) else if i = 1 then some (0, 0x10040#64) else none := by
  decide +kernel

/-- Where lane 1 waits at another JOIN on k0, the gang traps. -/
theorem waiter_deadlocks : ∃ t, exec (.join guardedJoin) (waiterState 1 0x10040) = .next t ∧
    OnlyGang 0 0 (waiterState 1 0x10040) t ∧
    Trapped (waiterIssue 1) 0x11 (waiterGang 1 0x10040).live 0 0x10000#64 (waiterGang 1 0x10040) (t.gang 0 0) := by
  refine join_deadlocks (l := 0) (n := 0) (q := 0x10000#64) (waiter_ready 1 0x10040 (by decide +kernel)) (waiter_stands _)
    ⟨rfl, rfl, by decide +kernel⟩ rfl (by decide +kernel) ?_ (by decide +kernel) (by decide) (by decide +kernel)
  rintro m pc ⟨i, hi, hat⟩
  have hat := (waiter_joins i hi).symm.trans hat
  split at hat
  · cases hat
    exact ⟨1, by decide, by decide +kernel⟩
  · split at hat
    · cases hat
      exact ⟨0, by decide, by decide +kernel⟩
    · cases hat

end Sys2Proof.Machine

/-! SUPPORT. Packed words, element by element: registers built from sub-elements, results read and delivered in the word's type (R15, R33, R191,
R193, R195). -/

namespace Sys2Proof.Machine

open Sys2Proof

/-! ## Sub-elements of a register (R15) -/

/-- A register built from its sub-elements, lowest first: what stands above has not been reached, what stands below stays. -/
theorem packEls_fold (w n : Nat) (f : Nat → Nat) :
    let a := (List.range n).foldl (fun a j => a + f j % 2 ^ w * 2 ^ (w * j)) 0
    a < 2 ^ (w * n) ∧ ∀ j, j < n → a / 2 ^ (w * j) % 2 ^ w = f j % 2 ^ w := by
  induction n with
  | zero => simp
  | succ n ih =>
    obtain ⟨hlt, hels⟩ := ih
    simp only [List.range_succ, List.foldl_append, List.foldl_cons, List.foldl_nil]
    generalize (List.range n).foldl _ 0 = a at hlt hels
    have hx : f n % 2 ^ w < 2 ^ w := Nat.mod_lt _ (Nat.two_pow_pos w)
    refine ⟨?_, fun j hj => ?_⟩
    · calc a + f n % 2 ^ w * 2 ^ (w * n) < (f n % 2 ^ w + 1) * 2 ^ (w * n) := by rw [Nat.succ_mul]; omega
        _ ≤ 2 ^ w * 2 ^ (w * n) := Nat.mul_le_mul_right _ hx
        _ = 2 ^ (w * (n + 1)) := by rw [← Nat.pow_add, Nat.mul_succ, Nat.add_comm]
    · rcases Nat.lt_succ_iff_lt_or_eq.1 hj with hj | rfl
      · have hpow : 2 ^ (w * n) = 2 ^ (w * (n - j - 1)) * 2 ^ w * 2 ^ (w * j) := by
          rw [← Nat.pow_add, ← Nat.pow_add, ← Nat.mul_succ, ← Nat.mul_add]; congr 2; omega
        rw [hpow, ← Nat.mul_assoc, Nat.add_mul_div_right _ _ (Nat.two_pow_pos _), ← Nat.mul_assoc, Nat.add_mul_mod_self_right]
        exact hels j hj
      · rw [Nat.add_mul_div_right _ _ (Nat.two_pow_pos _), Nat.div_eq_of_lt hlt, Nat.zero_add, Nat.mod_mod]

/-- The sub-elements of a register that is built from them. -/
theorem elements_packEls {w n : Nat} (hwn : w * n ≤ 64) (f : Nat → Nat) : Elements w n (packEls w n f) (fun j => f j % 2 ^ w) := by
  obtain ⟨hlt, hels⟩ := packEls_fold w n f
  have h64 := Nat.lt_of_lt_of_le hlt (Nat.pow_le_pow_right (by decide) hwn)
  intro j hj
  rw [packEls, word, BitVec.toNat_ofNat, Nat.mod_eq_of_lt h64]
  exact hels j hj

theorem subEl_lt (w x j : Nat) : subEl w x j < 2 ^ w := Nat.mod_lt _ (Nat.two_pow_pos w)

theorem ewidth_cases (ty : Nat) : ewidth ty = 8 ∨ ewidth ty = 16 ∨ ewidth ty = 32 ∨ ewidth ty = 64 := by
  unfold ewidth esize
  split
  · have : ty % 4 < 4 := Nat.mod_lt _ (by decide)
    interval_cases ty % 4 <;> simp
  · split
    · simp
    · split
      · simp
      · split <;> simp

/-! ## Results read and delivered (R33, R191) -/

theorem lowBits_mod (n : Nat) (x : Int) : lowBits n x % 2 ^ n = lowBits n x := by
  have hpos : (0 : Int) < (2 ^ n : Nat) := by exact_mod_cast Nat.two_pow_pos n
  have hnn := Int.emod_nonneg x hpos.ne'
  have hlt := Int.emod_lt_of_pos x hpos
  unfold lowBits
  exact Nat.mod_eq_of_lt (by omega)

/-- Low bits of a value read in two's complement are those of the pattern. -/
theorem lowBits_sextN {m n : Nat} (hmn : m ≤ n) (x : Nat) : lowBits m (sextN n x) = x % 2 ^ m := by
  have hdvd : 2 ^ m ∣ 2 ^ n := Nat.pow_dvd_pow 2 hmn
  have hz : (2 ^ m : Int) ∣ 2 ^ n := by exact_mod_cast hdvd
  have h : sextN n x % (2 ^ m : Int) = (x % 2 ^ m : Nat) := by
    unfold sextN
    push_cast
    split
    · exact Int.emod_emod_of_dvd _ hz
    · rw [Int.sub_emod, Int.emod_eq_zero_of_dvd hz, Int.sub_zero, Int.emod_emod, Int.emod_emod_of_dvd _ hz]
  rw [lowBits, Nat.cast_pow, Nat.cast_two, h]
  rfl

theorem lowBits_natCast (n x : Nat) : lowBits n (x : Int) = x % 2 ^ n := rfl

/-- A sub-element read in its type is the pattern modulo 2^w. -/
theorem lowBits_readIn (ty x : Nat) : lowBits (ewidth ty) (readIn ty x) = x % 2 ^ ewidth ty := by
  unfold readIn
  split
  · exact lowBits_sextN le_rfl x
  · rw [lowBits_natCast, Nat.mod_mod]

theorem lowBits_eq (n : Nat) (x : Int) : lowBits n x = (x % 2 ^ n).toNat := by
  simp only [lowBits, Nat.cast_pow, Nat.cast_two]

/-- Least and greatest value of a type, as the statements write them (R33). -/
def typeMin (ty : Nat) : Int := if 4 ≤ ty ∧ ty < 8 then -2 ^ (ewidth ty - 1) else 0
def typeMax (ty : Nat) : Int := if 4 ≤ ty ∧ ty < 8 then 2 ^ (ewidth ty - 1) - 1 else 2 ^ ewidth ty - 1

theorem intMin_eq (ty : Nat) : intMin ty = typeMin ty := by
  simp only [intMin, typeMin, Nat.cast_pow, Nat.cast_two]

theorem intMax_eq (ty : Nat) : intMax ty = typeMax ty := by
  simp only [intMax, typeMax, Nat.cast_pow, Nat.cast_two]

theorem typeMin_le_typeMax (ty : Nat) : typeMin ty ≤ typeMax ty := by
  have h1 : (0 : Int) < 2 ^ (ewidth ty - 1) := by positivity
  have h2 : (0 : Int) < 2 ^ ewidth ty := by positivity
  unfold typeMin typeMax
  split <;> omega

/-- Sat(x, T) is the nearest value of the type. -/
theorem satInt_eq_clamp (ty : Nat) (x : Int) : satInt ty x = max (typeMin ty) (min (typeMax ty) x) := by
  have h := typeMin_le_typeMax ty
  rw [← intMin_eq, ← intMax_eq] at h ⊢
  exact satInt_eq ty x h

/-- An exact result as R191 delivers it: the nearest value of the type, or the result modulo 2^w. -/
def delivered (ty : Nat) (sat : Bool) (x : Int) : Nat :=
  ((if sat then max (typeMin ty) (min (typeMax ty) x) else x) % 2 ^ ewidth ty).toNat

theorem deliver_eq (ty : Nat) (sat : Bool) (x : Int) : deliver ty sat x = delivered ty sat x := by
  rw [deliver, lowBits_eq, satInt_eq_clamp, delivered]

/-! ## Packed words, from what each sub-element gives (R191) -/

section Packed
variable {op : Nat} {w : FullWord} {s : State} {c : Issue} (h : Ready op w s c)
include h

/-- A ready lane-wise word whose v result is built from m sub-elements of n bits. -/
theorem laneVal_packEls {n m : Nat} (hnm : n * m ≤ 64) {f : Issue → Gang → Nat → Word} {e r : Nat → Nat → Nat}
    (hf : ∀ a b, f c { c.g s with warns := a, warnpc := b } = f c (c.g s)) (he : ∀ i, f c (c.g s) i = packEls n m (e i))
    (hr : ∀ i j, e i j % 2 ^ n = r i j) :
    ∃ t, laneVal op w s f = .next t ∧ LaneElements c s t n m r := by
  obtain ⟨t, ht, hdone⟩ := laneVal_gives h hf he
  exact ⟨t, ht, _, hdone, fun i j hj => (elements_packEls hnm (e i) j hj).trans (hr i j)⟩

/-- The same for the sub-elements of the word's type. -/
theorem laneVal_each {e : Issue → Gang → Nat → Nat → Nat} {r : Nat → Nat → Nat}
    (hf : ∀ a b, e c { c.g s with warns := a, warnpc := b } = e c (c.g s)) (hr : ∀ i j, e c (c.g s) i j % 2 ^ ewidth c.ty = r i j) :
    ∃ t, laneVal op w s (fun c g i => c.each (e c g i)) = .next t ∧ LaneElements c s t (ewidth c.ty) (64 / ewidth c.ty) r :=
  laneVal_packEls h (Nat.mul_div_le 64 _) (fun a b => by simp only [hf a b]) (fun _ => rfl) hr

/-- The same for exact results that never saturate. -/
theorem laneVal_eachLow {e : Issue → Gang → Nat → Nat → Int} {r : Nat → Nat → Int}
    (hf : ∀ a b, e c { c.g s with warns := a, warnpc := b } = e c (c.g s)) (hr : ∀ i j, e c (c.g s) i j = r i j) :
    ∃ t, laneVal op w s (fun c g i => c.eachLow (e c g i)) = .next t ∧
      LaneElements c s t (ewidth c.ty) (64 / ewidth c.ty) (fun i j => (r i j % 2 ^ ewidth c.ty).toNat) :=
  laneVal_each h (fun a b => by simp only [hf a b]) (fun i j => by rw [Issue.ew, lowBits_mod, lowBits_eq, hr])

/-- The same for exact results, which the word delivers saturated or modulo 2^w. -/
theorem laneVal_eachRes {e : Issue → Gang → Nat → Nat → Int} {r : Nat → Nat → Int}
    (hf : ∀ a b, e c { c.g s with warns := a, warnpc := b } = e c (c.g s)) (hr : ∀ i j, e c (c.g s) i j = r i j) :
    ∃ t, laneVal op w s (fun c g i => c.eachRes (e c g i)) = .next t ∧
      LaneElements c s t (ewidth c.ty) (64 / ewidth c.ty) (fun i j => delivered c.ty c.sat (r i j)) :=
  laneVal_each h (fun a b => by simp only [hf a b]) (fun i j => by
    rw [← deliver_eq, hr]
    exact lowBits_mod _ _)

end Packed

/-! ## Sub-elements chosen, shifted and compared (R193, R195) -/

/-- The lesser of two sub-elements, as a pattern. -/
theorem min_readIn (ty x y : Nat) : (if readIn ty x ≤ readIn ty y then x else y) % 2 ^ ewidth ty =
    (min (readIn ty x) (readIn ty y) % 2 ^ ewidth ty).toNat := by
  rw [← lowBits_eq, min_def]
  split <;> rw [lowBits_readIn]

/-- The greater of two sub-elements, as a pattern. -/
theorem max_readIn (ty x y : Nat) : (if readIn ty x ≤ readIn ty y then y else x) % 2 ^ ewidth ty =
    (max (readIn ty x) (readIn ty y) % 2 ^ ewidth ty).toNat := by
  rw [← lowBits_eq, max_def]
  split <;> rw [lowBits_readIn]

/-- A comparison by its condition code (R148). -/
theorem compareInt_eq (cc : Nat) (x y : Int) : compareInt cc x y = match cc with
    | 0 => decide (x = y)
    | 1 => decide (x ≠ y)
    | 2 => decide (x < y)
    | 3 => decide (x ≤ y)
    | 4 => decide (y < x)
    | _ => decide (y ≤ x) := by
  rcases cc with _ | _ | _ | _ | _ | n
  · rfl
  · exact (decide_not (p := x = y)).symm
  all_goals rfl

/-- All ones, or 0. -/
theorem ones_mod (n : Nat) (p : Bool) : (if p then 2 ^ n - 1 else 0) % 2 ^ n = if p then 2 ^ n - 1 else 0 := by
  have := Nat.two_pow_pos n
  cases p
  · exact Nat.zero_mod _
  · exact Nat.mod_eq_of_lt (Nat.sub_lt this Nat.one_pos)

/-! ## Settling the statement -/

/-- Settles O18: each word is a lane-wise word that builds its result from sub-elements, each of them what R193 or R195 says. -/
theorem packedArithmetic : Obligations.PackedArithmetic := by
  unfold Obligations.PackedArithmetic
  refine ⟨fun w s c => ?_, fun w s c => ?_⟩
  · refine ⟨fun h => ?_, fun h => ?_, fun h => ?_, fun h => ?_, fun h => ?_, fun h => ?_, fun h => ?_, fun h => ?_, fun h => ?_⟩
    · exact laneVal_eachRes h (e := fun c g i j => c.xA g i j + c.xB g i j) (fun _ _ => rfl) (fun _ _ => rfl)
    · exact laneVal_eachRes h (e := fun c g i j => c.xA g i j - c.xB g i j) (fun _ _ => rfl) (fun _ _ => rfl)
    · exact laneVal_eachRes h (e := fun c g i j => c.xA g i j * c.xB g i j) (fun _ _ => rfl) (fun _ _ => rfl)
    · refine laneVal_eachLow h (e := fun c g i j => c.xA g i j * c.xB g i j / (2 ^ c.ew : Nat)) (fun _ _ => rfl) (fun i j => ?_)
      rw [Nat.cast_pow, Nat.cast_two]; rfl
    · exact laneVal_eachRes h (e := fun c g i j => c.xA g i j * c.xB g i j + c.xC g i j) (fun _ _ => rfl) (fun _ _ => rfl)
    · exact laneVal_each h (e := fun c g i j => if c.xA g i j ≤ c.xB g i j then c.eA g i j else c.eB g i j) (fun _ _ => rfl)
        (fun i j => min_readIn _ _ _)
    · exact laneVal_each h (e := fun c g i j => if c.xA g i j ≤ c.xB g i j then c.eB g i j else c.eA g i j) (fun _ _ => rfl)
        (fun i j => max_readIn _ _ _)
    · exact laneVal_eachRes h (e := fun c g i j => ((c.xA g i j).natAbs : Int)) (fun _ _ => rfl) (fun i j => Int.natCast_natAbs _)
    · obtain rfl := h.word_eq
      exact laneVal_eachLow h (e := fun c g i j => (c.xA g i j + c.xB g i j + (if c.w.xa % 2 = 1 then 0 else 1)) / 2)
        (fun _ _ => rfl) (fun _ _ => rfl)
  · refine ⟨fun h => ?_, fun h => ?_, fun h => ?_, fun h => ?_, fun h => ?_⟩ <;> obtain rfl := h.word_eq
    · refine laneVal_eachRes h (e := fun c g i j => c.xA g i j * (2 ^ c.eCount g i j : Nat)) (fun _ _ => rfl) (fun i j => ?_)
      rw [Nat.cast_pow, Nat.cast_two]; rfl
    · exact laneVal_each h (e := fun c g i j => c.eA g i j / 2 ^ c.eCount g i j) (fun _ _ => rfl)
        (fun i j => Nat.mod_eq_of_lt (Nat.lt_of_le_of_lt (Nat.div_le_self _ _) (subEl_lt _ _ _)))
    · refine laneVal_eachLow h (e := fun c g i j => sextN c.ew (c.eA g i j) / (2 ^ c.eCount g i j : Nat)) (fun _ _ => rfl) (fun i j => ?_)
      rw [Nat.cast_pow, Nat.cast_two]; rfl
    · refine laneVal_each h (e := fun c g i j => if compareInt c.w.sop (c.xA g i j) (c.xB g i j) then 2 ^ c.ew - 1 else 0)
        (fun _ _ => rfl) (fun i j => ?_)
      rw [compareInt_eq]
      exact ones_mod _ _
    · exact laneVal_gives (f := Issue.vselLane) h (fun _ _ => rfl) (fun _ => rfl)

end Sys2Proof.Machine

/-! SUPPORT. Packed words that sum over sub-elements, change their width or rearrange them (R194, R196, R197). -/

namespace Sys2Proof.Machine

open Sys2Proof

/-! ## Sums over sub-elements (R194) -/

theorem sumInt_eq (n : Nat) (f : Nat → Int) : sumInt n f = ((List.range n).map f).sum := by
  induction n with
  | zero => rfl
  | succ n ih =>
    rw [sumInt] at ih ⊢
    rw [List.range_succ, List.foldl_append, ih, List.map_append, List.sum_append]
    simp

theorem sextN_mod (n x : Nat) : sextN n (x % 2 ^ n) = sextN n x := by
  have h : ∀ y : Nat, sextN n y = if y % 2 ^ n < 2 ^ (n - 1) then ((y % 2 ^ n : Nat) : Int) else ((y % 2 ^ n : Nat) : Int) - 2 ^ n :=
    fun y => by simp [sextN]
  rw [h, h, Nat.mod_mod]

/-- An accumulator of 32 or 64 bits is read in its own type. -/
theorem readIn_accType (signed : Bool) {m : Nat} (hm : m = 32 ∨ m = 64) (z i : Nat) :
    readIn (accType signed m) (subEl m z i) =
      if signed then sextN m (z / 2 ^ (m * i)) else ((z / 2 ^ (m * i) % 2 ^ m : Nat) : Int) := by
  rw [subEl, fld, ← sextN_mod m (z / 2 ^ (m * i)), readIn]
  rcases hm with rfl | rfl <;> cases signed <;> simp [accType, ewidth, esize]

/-- A sum is delivered in the type of its accumulator. -/
theorem deliver_accType (signed sat : Bool) {m : Nat} (hm : m = 32 ∨ m = 64) (x : Int) :
    deliver (accType signed m) sat x % 2 ^ m = ((if sat then max (if signed then -2 ^ (m - 1) else 0)
      (min (if signed then 2 ^ (m - 1) - 1 else 2 ^ m - 1) x) else x) % 2 ^ m).toNat := by
  have hw : ewidth (accType signed m) = m := by rcases hm with rfl | rfl <;> cases signed <;> rfl
  have hs : (4 ≤ accType signed m ∧ accType signed m < 8) = (signed = true) := by
    rcases hm with rfl | rfl <;> cases signed <;> simp [accType]
  rw [deliver, hw, lowBits_mod, lowBits_eq, satInt_eq_clamp, typeMin, typeMax, hw]
  simp only [hs]

/-- The width of an accumulator of VDOT. -/
def Issue.accBits (c : Issue) : Nat := if c.ew ≤ 16 then 32 else 64

theorem Issue.accBits_cases (c : Issue) : c.accBits = 32 ∨ c.accBits = 64 := by
  unfold Issue.accBits; split <;> simp

/-- VDOT: each accumulator takes the sum of the products of its own sub-elements (R194). -/
theorem Issue.vdotLane_eq (c : Issue) (g : Gang) (i : Nat) :
    let m := c.accBits
    let signed := decide (4 ≤ c.ty ∧ c.ty < 8)
    let z := (c.srcC g c.ew i).toNat
    c.vdotLane g i = packEls m (64 / m) (fun h => deliver (accType signed m) c.sat
      ((if signed then sextN m (z / 2 ^ (m * h)) else ((z / 2 ^ (m * h) % 2 ^ m : Nat) : Int)) +
        ((List.range (m / c.ew)).map (fun q => c.xA g i (m / c.ew * h + q) *
          (if c.w.xa % 2 = 1 then (c.eB g i (m / c.ew * h + q) : Int) else c.xB g i (m / c.ew * h + q)))).sum)) := by
  simp only [← readIn_accType _ c.accBits_cases, ← sumInt_eq, ← beq_iff_eq (a := c.w.xa % 2)]
  rfl

/-- A sum of 64 bits that is not below 0 saturates above only. -/
theorem word_deliver_n64 (sat : Bool) {x : Int} (hx : 0 ≤ x) :
    word (deliver 11 sat x) = BitVec.ofInt 64 (if sat then min (2 ^ 64 - 1) x else x) := by
  rw [deliver, show ewidth 11 = 64 from rfl, word_lowBits, satInt_eq_clamp]
  congr 2
  exact max_eq_right (le_min (by decide) hx)

/-- VSAD: the absolute differences of the sub-elements are added to c (R194). -/
theorem Issue.vsadLane_eq (c : Issue) (g : Gang) (i : Nat) :
    let r : Int := (c.srcC g c.ew i).toNat + ((List.range c.en).map (fun j => |c.xA g i j - c.xB g i j|)).sum
    c.vsadLane g i = BitVec.ofInt 64 (if c.sat then min (2 ^ 64 - 1) r else r) := by
  intro r
  have hr : (0 : Int) ≤ r := Int.add_nonneg (Int.natCast_nonneg _) (List.sum_nonneg (by simp))
  rw [← word_deliver_n64 _ hr, Issue.vsadLane, sumInt_eq]
  simp only [Int.natCast_natAbs, r]

/-! ## Narrowing (R196) -/

/-- The type of a ready word stands in its opcode's list, which the fallback of R132 does not leave. -/
theorem Ready.ty_mem {op : Nat} {w : FullWord} {s : State} {c : Issue} (h : Ready op w s c) {l : List Nat}
    (hf : (form op w).bind Form.types = some l) (hl : ∀ t ∈ l, t < 4 → t + 8 ∈ l) : c.ty ∈ l := by
  have htypes : c.f.types = some l := by simpa [h.formed] using hf
  have hlegal := h.legal
  simp only [Form.illegal, htypes, Bool.or_eq_false_iff, Bool.not_eq_false'] at hlegal
  obtain ⟨⟨⟨-, hmem⟩, -⟩, -⟩ := hlegal
  have hmem : w.type ∈ l := by simpa using hmem
  rw [Issue.ty, Form.typeEff, h.word_eq]
  split
  · next hb =>
    simp only [Form.bSubst, Bool.and_eq_true, decide_eq_true_eq] at hb
    exact hl _ hmem hb.2
  · exact hmem

/-- The types of VPACK: those with a type of half the width below them. -/
def packTypes : List Nat := [1, 2, 3, 5, 6, 7, 9, 10, 11]

/-- Half the width, the same signedness. -/
theorem packTypes_half {ty : Nat} (h : ty ∈ packTypes) :
    ewidth (ty - 1) = ewidth ty / 2 ∧ (4 ≤ ty - 1 ∧ ty - 1 < 8 ↔ 4 ≤ ty ∧ ty < 8) := by
  revert ty; decide

section Narrow
variable (c : Issue) (x : Nat)

/-- Without SAT the low half of the pattern is left. -/
theorem Issue.narrow_wrap (hsat : c.sat = false) : c.narrow x = x % 2 ^ (ewidth c.ty / 2) := by
  simp only [Issue.narrow, hsat, Bool.false_eq_true, if_false, Issue.ew]

/-- .us reads two's complement and saturates in the unsigned type of half the width. -/
theorem Issue.narrow_us (hsat : c.sat = true) (hus : c.w.xa % 2 = 1) :
    c.narrow x = lowBits (ewidth c.ty / 2) (max 0 (min (2 ^ (ewidth c.ty / 2) - 1) (sextN (ewidth c.ty) x))) := by
  have hpow : (0 : Int) < 2 ^ (ewidth c.ty / 2) := by positivity
  simp only [Issue.narrow, hsat, hus, if_true, Issue.ew, Nat.cast_pow, Nat.cast_two]
  congr 1
  split
  · omega
  · split <;> omega

/-- Otherwise SAT takes the nearest value of the type of half the width. -/
theorem Issue.narrow_sat (hsat : c.sat = true) (hus : c.w.xa % 2 = 0) (hty : c.ty ∈ packTypes) :
    c.narrow x = lowBits (ewidth c.ty / 2) (max (if 4 ≤ c.ty ∧ c.ty < 8 then -2 ^ (ewidth c.ty / 2 - 1) else 0)
      (min (if 4 ≤ c.ty ∧ c.ty < 8 then 2 ^ (ewidth c.ty / 2 - 1) - 1 else 2 ^ (ewidth c.ty / 2) - 1) (readIn c.ty x))) := by
  obtain ⟨hwidth, hsigned⟩ := packTypes_half hty
  simp only [Issue.narrow, hsat, hus, if_true, zero_ne_one, if_false, Issue.ew, satInt_eq_clamp, typeMin, typeMax, hwidth, hsigned]

/-- VPACK of one source value, as R196 says. -/
theorem Issue.narrow_eq (hty : c.ty ∈ packTypes) (hx : x < 2 ^ ewidth c.ty) :
    let n := ewidth c.ty
    let signed := 4 ≤ c.ty ∧ c.ty < 8
    let v : Int := if c.w.xa % 2 = 1 ∨ signed then sextN n x else x
    let lo : Int := if c.w.xa % 2 = 0 ∧ signed then -2 ^ (n / 2 - 1) else 0
    let hi : Int := if c.w.xa % 2 = 0 ∧ signed then 2 ^ (n / 2 - 1) - 1 else 2 ^ (n / 2) - 1
    c.narrow x % 2 ^ (n / 2) = ((if c.sat then max lo (min hi v) else v) % 2 ^ (n / 2)).toNat := by
  intro n signed v lo hi
  rw [← lowBits_eq]
  cases hsat : c.sat
  · rw [c.narrow_wrap x hsat, Nat.mod_mod, if_neg Bool.false_ne_true]
    simp only [v]
    split
    · exact (lowBits_sextN (Nat.div_le_self n 2) x).symm
    · rfl
  · rw [if_pos rfl]
    rcases Nat.mod_two_eq_zero_or_one c.w.xa with hus | hus
    · have hread : readIn c.ty x = v := by simp only [readIn, v, hus, zero_ne_one, false_or, Nat.mod_eq_of_lt hx, signed, n]
      rw [c.narrow_sat x hsat hus hty, lowBits_mod, hread]
      simp only [lo, hi, hus, true_and, signed, n]
    · rw [c.narrow_us x hsat hus, lowBits_mod]
      simp only [lo, hi, v, hus, one_ne_zero, false_and, true_or, if_true, if_false, n]

end Narrow

/-! ## Rearranging (R197) -/

/-- An entry of the table of VTBL is a byte. -/
theorem tblByte_lt (a b k : Nat) : tblByte a b k < 2 ^ 8 := by
  unfold tblByte
  split <;> exact subEl_lt _ _ _

/-- The top bit of a pattern of 8 bits. -/
theorem testBit_seven {x : Nat} (hx : x < 256) : x.testBit 7 = decide (128 ≤ x) := by
  rw [Nat.testBit_eq_decide_div_mod_eq]
  congr 1
  apply propext
  omega

/-- VTBL by its form: a byte, or one of its halves, names the entry (R197). -/
theorem Issue.vtblLane_eq (c : Issue) (g : Gang) (i : Nat) :
    let x := fun j => subEl 8 (c.uC g i) j
    c.vtblLane g i = packEls 8 8 (fun j => if c.w.xa = 0 ∧ 128 ≤ x j then 0
      else tblByte (c.uA g i) (c.uB g i) (if c.w.xa ≤ 1 then x j % 16 else x j / 16)) := by
  intro x
  refine congrArg (packEls 8 8) (funext fun j => ?_)
  have hbit : (subEl 8 (c.uC g i) j).testBit 7 = decide (128 ≤ subEl 8 (c.uC g i) j) := testBit_seven (subEl_lt 8 _ _)
  dsimp only [x]
  rcases c.w.xa with _ | _ | n
  · simp [hbit]
  · simp
  · simp

/-- VSWZ by the width: 1 bit of the immediate for each of two sub-elements, or 2 bits for each of four (R197). -/
theorem Issue.vswzLane_eq (c : Issue) (g : Gang) (i : Nat) :
    let n := c.ew
    let imm := c.w.sb.toNat
    c.vswzLane g i = packEls n (64 / n) (fun j => if n = 32 then c.eA g i (imm / 2 ^ j % 2)
      else if n = 16 then c.eA g i (imm / 4 ^ j % 4) else c.eA g i (j / 4 * 4 + imm / 4 ^ (j % 4) % 4)) := by
  have hpow : ∀ j, 4 ^ j = 2 ^ (2 * j) := fun j => Nat.pow_mul 2 2 j |>.symm
  simp only [hpow]
  refine congrArg (packEls c.ew c.en) (funext fun j => ?_)
  rcases ewidth_cases c.ty with e | e | e | e <;> rw [Issue.ew, e] <;> rfl

/-! ## Settling the statement -/

/-- Settles O19: each word is a lane-wise word that builds its result from sub-elements of the widths that R194, R196 and R197 give. -/
theorem packedDotsAndMoves : Obligations.PackedDotsAndMoves := by
  unfold Obligations.PackedDotsAndMoves
  refine ⟨fun w s c => ⟨fun h => ?_, fun h => ?_⟩, fun w s c => ⟨fun h => ?_, fun h => ?_, fun h => ?_, fun h => ?_, fun h => ?_⟩⟩ <;>
    obtain rfl := h.word_eq
  · exact laneVal_packEls h (f := Issue.vdotLane) (Nat.mul_div_le 64 _) (fun _ _ => rfl) (c.vdotLane_eq (c.g s))
      (fun i j => deliver_accType _ _ c.accBits_cases _)
  · exact laneVal_gives (f := Issue.vsadLane) h (fun _ _ => rfl) (fun i => c.vsadLane_eq (c.g s) i)
  · have hcount : 64 / (ewidth c.ty / 2) = 2 * c.en := by
      rw [Issue.en, Issue.ew]
      rcases ewidth_cases c.ty with e | e | e | e <;> rw [e]
    rw [hcount]
    refine laneVal_packEls h (f := Issue.vpackLane) (hcount ▸ Nat.mul_div_le 64 _) (fun _ _ => rfl) (fun _ => rfl) (fun i j => ?_)
    refine c.narrow_eq _ (h.ty_mem rfl (by decide)) ?_
    split <;> exact subEl_lt _ _ _
  · have hcount : 64 / (2 * ewidth c.ty) = c.en / 2 := by rw [Nat.mul_comm, ← Nat.div_div_eq_div_mul]; rfl
    rw [hcount]
    exact laneVal_packEls h (f := Issue.vunpkLane) (hcount ▸ Nat.mul_div_le 64 _) (fun _ _ => rfl) (fun _ => rfl)
      (fun i j => (lowBits_mod _ _).trans (lowBits_eq _ _))
  · refine laneVal_packEls h (f := Issue.vpermLane) (Nat.mul_div_le 64 _) (fun _ _ => rfl) (fun _ => rfl)
      (fun i j => Nat.mod_eq_of_lt ?_)
    dsimp only
    split
    · exact Nat.two_pow_pos _
    · split <;> exact subEl_lt _ _ _
  · refine laneVal_packEls h (f := Issue.vtblLane) (by decide) (fun _ _ => rfl) (c.vtblLane_eq (c.g s))
      (fun i j => Nat.mod_eq_of_lt ?_)
    split
    · decide
    · exact tblByte_lt _ _ _
  · refine laneVal_packEls h (f := Issue.vswzLane) (Nat.mul_div_le 64 _) (fun _ _ => rfl) (c.vswzLane_eq (c.g s))
      (fun i j => Nat.mod_eq_of_lt ?_)
    split
    · exact subEl_lt _ _ _
    · split <;> exact subEl_lt _ _ _

end Sys2Proof.Machine

/-! SUPPORT. Cross-lane words over the contributors, and O25, which fails where threads have arrived before at the member form in issue (R208 to
R213). -/

namespace Sys2Proof.Machine

open Sys2Proof

/-! ## What the contributors bring (R209) -/

/-- What a lane of the mask brings to a cross-lane word. -/
theorem Issue.get_arrivals (c : Issue) (g : Gang) (m : Mask) (i : Nat) (hi : i < 32) (hm : m.getLsbD i = true) :
    Tab.get (c.arrivals g m) i =
      { act := c.act.getLsbD i, a := c.srcA g i, b := c.srcBz g i, ps := g.pGet i (c.w.sa.toNat % 8) } := by
  obtain ⟨before, after, hl⟩ := List.append_of_mem ((mem_lanesOf m i).2 ⟨hi, hm⟩)
  have hafter : ∀ e ∈ after, e ≠ i := by
    have hnodup := lanesOf_nodup m
    rw [hl, List.nodup_append] at hnodup
    rintro e he rfl
    exact (List.nodup_cons.1 hnodup.2.1).1 he
  rw [Issue.arrivals, hl, List.foldl_append, List.foldl_cons]
  refine (Tab.get_setEach after id _ _ i hafter).trans ?_
  rw [Tab.get_set_same]
  rfl

/-- The word over the contributors of a mask, with what they bring from the issuing split. -/
def Issue.crossOf (c : Issue) (g : Gang) (m : Mask) : Cross := ({ c with act := m } : Issue).cross g m

section Cross
variable (c : Issue) (g : Gang) {m : Mask}

theorem Issue.crossOf_has (l : Nat) : (c.crossOf g m).has l = true ↔ l < 32 ∧ m.getLsbD l = true := by
  rw [Cross.has, Bool.and_eq_true, decide_eq_true_eq]; rfl

theorem Issue.crossOf_a {l : Nat} (hl : l < 32 ∧ m.getLsbD l = true) : (c.crossOf g m).a l = c.srcA g l := by
  rw [Cross.a, Issue.crossOf, Issue.cross, Issue.get_arrivals _ _ _ _ hl.1 hl.2]; rfl

theorem Issue.crossOf_b {l : Nat} (hl : l < 32 ∧ m.getLsbD l = true) : (c.crossOf g m).b l = c.srcBz g l := by
  rw [Cross.b, Issue.crossOf, Issue.cross, Issue.get_arrivals _ _ _ _ hl.1 hl.2]; rfl

/-- The sub-element that a contributor brings. -/
theorem Issue.crossOf_el {l : Nat} (hl : l < 32 ∧ m.getLsbD l = true) (j : Nat) :
    (c.crossOf g m).el l j = (c.srcA g l).toNat / 2 ^ (ewidth c.ty * j) % 2 ^ ewidth c.ty := by
  rw [Cross.el, c.crossOf_a g hl]; rfl

theorem Issue.crossOf_yes {l : Nat} (hl : l < 32) :
    (c.crossOf g m).yes.getLsbD l = (m.getLsbD l && g.pGet l (c.w.sa.toNat % 8)) := by
  rw [Cross.yes, getLsbD_maskIf _ _ _ hl]
  show (m.getLsbD l && _) = _
  cases hm : m.getLsbD l
  · rfl
  · rw [Issue.crossOf, Issue.cross, Issue.get_arrivals _ _ _ _ hl hm]

end Cross

/-! ## A cross-lane word that performs at once (R209, R210) -/

section Out
variable (x : Cross)

theorem Cross.out_shf (h : x.op = 0x90) : x.out = fun i => .v (x.shf i) := by
  cases x; cases h; rfl
theorem Cross.out_shfi (h : x.op = 0x91) : x.out = fun i => .v (x.shfi i) := by
  cases x; cases h; rfl
theorem Cross.out_vote (h : x.op = 0x92) : x.out = x.vote := by
  cases x; cases h; rfl
theorem Cross.out_bcast (h : x.op = 0x95) : x.out = fun i => .v (x.bcast i) := by
  cases x; cases h; rfl
theorem Cross.out_matches (h : x.op = 0x96) : x.out = fun i => .v (x.matches i) := by
  cases x; cases h; rfl
theorem Cross.out_elect (h : x.op = 0x97) : x.out = fun i => .p (x.w.dst.toNat % 8) (x.elect i) := by
  cases x; cases h; rfl

end Out

/-- No thread has arrived at the member form in issue before. -/
def Issue.NoArrivals (c : Issue) (s : State) : Prop := c.w.xa % 2 = 1 → (c.g s).memberParks c.pc = []

section Performs
variable {op : Nat} {w : FullWord} {s : State} {c : Issue} {m : Mask} (h : Ready op w s c) (hm : Contributes c s m)
  (hno : c.NoArrivals s)
include h hm hno

/-- Where no thread has arrived at the member form in issue before, the contributors of the issuing split receive their results. -/
theorem crossWord_performs {out : Nat → LaneOut} (ho : (c.crossOf (c.g s) m).out = out) (hf : ∀ i, (out i).flags = 0)
    (hp : ∀ i n x, (out i).pred = some (n, x) → n < 8) :
    ∃ t, crossWord op w s = .next t ∧ LaneDone { c with act := m } s t out := by
  obtain ⟨rfl, rfl, -⟩ := State.issue_form op w s c h.issued
  let c' : Issue := { c with act := m }
  have hquiet : Quiet c' s out := fun i _ => by rw [hf i]; exact Nat.zero_and _
  obtain ⟨t, ht, honly, hsystem, hk, hd, hvalues, hpreds, hfpctl, hwarned, hnext⟩ := c'.commit_quiet s out (c.f.warns c.op c.w) hquiet hp
  have hcross : c'.cross (c.g (c.warn (c.f.warns c.op c.w) s)) m = c.crossOf (c.g s) m := by
    rw [Issue.g_warn, Gang.warn_eq]; rfl
  have hparks : (c.g (c.warn (c.f.warns c.op c.w) s)).memberParks c.pc = (c.g s).memberParks c.pc := by
    rw [Issue.g_warn, Gang.warn_eq]; rfl
  have hcommit : c'.commit (c'.cross (c.g (c.warn (c.f.warns c.op c.w) s)) m).out (c.warn (c.f.warns c.op c.w) s) = t := by
    rw [hcross, ho]; exact ht
  refine ⟨t, ?_, honly, hsystem, hk, hd, hvalues, hpreds, hfpctl, hwarned, hnext⟩
  rw [crossWord, runWord_ready _ _ s c h]
  have hsettle := State.settleGang_exec t c.wg c.gang (NextWord.exec c' _ _ hnext h.exec)
  dsimp only
  rcases hm with ⟨hsplit, rfl⟩ | ⟨hmember, hwithin, rfl⟩
  · rw [if_pos hsplit]
    exact congrArg Host.Outcome.next ((congrArg (State.settleGang · c.wg c.gang) hcommit).trans hsettle)
  · rw [if_neg (by omega), hparks, hno hmember, Issue.g_warn, Gang.kGet_warn, memberK, if_neg (by simp), if_pos hwithin, ← Issue.g_warn]
    exact congrArg Host.Outcome.next ((congrArg (State.settleGang · c.wg c.gang) hcommit).trans hsettle)

/-- The same for a v result alone. -/
theorem crossWord_val {x : Nat → Word} (ho : (c.crossOf (c.g s) m).out = fun i => .v (x i)) :
    ∃ t, crossWord op w s = .next t ∧ LaneDone { c with act := m } s t (fun i => .v (x i)) :=
  crossWord_performs h hm hno ho (fun _ => rfl) (fun _ _ _ e => nomatch e)

end Performs

/-- The opcode of a ready word is the one that exec was given. -/
theorem Ready.op_eq {op : Nat} {w : FullWord} {s : State} {c : Issue} (h : Ready op w s c) : c.op = op :=
  (State.issue_form op w s c h.issued).1

/-! ## Moves (R212) -/

/-- The place within its group from which a lane reads in SHFI: up, down, exclusive or, rotated. -/
def shfiSource (sop imm i : Nat) : Option Nat :=
  let wid := 2 ^ (5 - imm / 32)
  match sop with
  | 0 => if imm % 32 ≤ i % wid then some (i % wid - imm % 32) else none
  | 1 => some (i % wid + imm % 32)
  | 2 => some (Nat.xor (i % wid) (imm % 32))
  | _ => some ((i % wid + imm % 32) % wid)

section Moves
variable (c : Issue) (g : Gang) {m : Mask} {i : Nat} (hi : i < 32 ∧ m.getLsbD i = true)
include hi

theorem Issue.crossOf_shf : Elements (ewidth c.ty) (64 / ewidth c.ty) ((c.crossOf g m).shf i) (fun j =>
    let n := ewidth c.ty
    let k := 64 / n
    let sel := (c.srcBz g i).toNat / 2 ^ (8 * j) % 256 % (32 * k)
    if sel / k < 32 ∧ m.getLsbD (sel / k) = true then (c.srcA g (sel / k)).toNat / 2 ^ (n * (sel % k)) % 2 ^ n
    else (c.srcA g i).toNat / 2 ^ (n * j) % 2 ^ n) := by
  intro j hj
  refine (elements_packEls (Nat.mul_div_le 64 (ewidth c.ty)) _ j hj).trans ?_
  simp only [c.crossOf_has, c.crossOf_b g hi, c.crossOf_el g hi]
  split
  · next hl => rw [c.crossOf_el g hl, Nat.mod_mod]; exact (if_pos hl).symm
  · next hl => rw [Nat.mod_mod]; exact (if_neg hl).symm

theorem Issue.crossOf_shfi : (c.crossOf g m).shfi i =
    let wid := 2 ^ (5 - c.w.sb.toNat / 32)
    match shfiSource c.w.sop c.w.sb.toNat i with
    | some q => if q < wid ∧ (i / wid * wid + q < 32 ∧ m.getLsbD (i / wid * wid + q) = true) then c.srcA g (i / wid * wid + q)
      else c.srcA g i
    | none => c.srcA g i := by
  show (match shfiSource c.w.sop c.w.sb.toNat i with | some q => _ | none => _) = _
  cases shfiSource c.w.sop c.w.sb.toNat i with
  | none => exact c.crossOf_a g hi
  | some q =>
    simp only [c.crossOf_has, c.crossOf_a g hi]
    split
    · next hq => exact (c.crossOf_a g hq.2).trans (if_pos hq).symm
    · next hq => exact (if_neg hq).symm

theorem Issue.crossOf_bcast : (c.crossOf g m).bcast i =
    let l := (c.srcBz g i).toNat % 32
    if l < 32 ∧ m.getLsbD l = true then c.srcA g l else c.srcA g i := by
  simp only [Cross.bcast, c.crossOf_has, c.crossOf_b g hi, c.crossOf_a g hi]
  split
  · next hl => exact c.crossOf_a g hl
  · rfl

end Moves

/-! ## Masks counted and compared -/

section Masks
variable {p m : Mask} {f : Nat → Bool} (hf : ∀ l, l < 32 → p.getLsbD l = f l)
include hf

theorem lanesOf_eq_filter : lanesOf p = (List.range 32).filter f :=
  List.filter_congr fun l hl => hf l (List.mem_range.1 hl)

theorem mask_bne_zero : (p != 0#32) = (List.range 32).any f := by
  rw [Bool.eq_iff_iff, bne_iff_ne, mask_ne_zero_iff, List.any_eq_true]
  exact exists_congr fun l => by rw [List.mem_range]; exact and_congr_right fun hl => by rw [hf l hl]

/-- A mask within another is that other one when it leaves no lane of it out. -/
theorem mask_beq (hsub : ∀ l, f l = true → m.getLsbD l = true) :
    (p == m) = (List.range 32).all (fun l => !m.getLsbD l || f l) := by
  rw [Bool.eq_iff_iff, beq_iff_eq, List.all_eq_true]
  constructor
  · rintro rfl l hl
    rw [hf l (List.mem_range.1 hl), Bool.not_or_self]
  · intro hall
    refine BitVec.eq_of_getLsbD_eq fun l hl => ?_
    have hl' := hall l (List.mem_range.2 hl)
    rw [hf l hl, Bool.eq_iff_iff]
    refine ⟨hsub l, fun hml => ?_⟩
    rwa [hml, Bool.not_true, Bool.false_or] at hl'

end Masks

/-- A mask as a number: the sum of its bits, which the mask reversed lists from the highest down. -/
theorem setWidth_eq_sumBits {p : Mask} {f : Nat → Bool} (hf : ∀ l, l < 32 → p.getLsbD l = f l) :
    p.setWidth 64 = word (((List.range 32).filter f).foldl (fun x l => x + 2 ^ l) 0) := by
  obtain ⟨-, hbit⟩ := revBits_fold 32 p.reverse.toNat 32
  have hrev : ∀ l, l < 32 → p.reverse.toNat.testBit (32 - 1 - l) = f l := fun l hl => by
    rw [← hf l hl, BitVec.testBit_toNat, BitVec.getLsbD_reverse, BitVec.getMsbD]
    simp [show 31 - l < 32 by omega, show 31 - (31 - l) = l by omega]
  have hfold : ((List.range 32).filter f).foldl (fun x l => x + 2 ^ l) 0 =
      (List.range 32).foldl (fun a j => if p.reverse.toNat.testBit (32 - 1 - j) then a + 2 ^ j else a) 0 := by
    rw [List.foldl_filter]
    exact List.foldl_ext _ _ _ fun a l hl => by rw [hrev l (List.mem_range.1 hl)]
  refine BitVec.eq_of_getLsbD_eq fun l hl => ?_
  rw [BitVec.getLsbD_setWidth, word, BitVec.getLsbD_ofNat, hfold, hbit]
  by_cases h32 : l < 32
  · rw [hrev l h32, hf l h32]; simp [hl, h32]
  · rw [BitVec.getLsbD_of_ge _ _ (by omega)]; simp [h32]

/-! ## Votes, matches, elections (R213) -/

/-- A contributor with pS = 1. -/
def Issue.voter (c : Issue) (g : Gang) (m : Mask) (l : Nat) : Bool := m.getLsbD l && g.pGet l (c.w.sa.toNat % 8)

section Votes
variable (c : Issue) (g : Gang) (m : Mask)

theorem Issue.crossOf_vote (i : Nat) : (c.crossOf g m).vote i =
    let d := c.w.dst.toNat % 8
    let yes := c.voter g m
    let l32 := List.range 32
    match c.w.sop with
    | 0 => .p d (l32.any yes)
    | 1 => .p d (l32.all (fun l => !m.getLsbD l || yes l))
    | 2 => .p d (!l32.any yes || l32.all (fun l => !m.getLsbD l || yes l))
    | 3 => .v (word ((l32.filter yes).foldl (fun x l => x + 2 ^ l) 0))
    | 4 => .v (word (l32.filter yes).length)
    | _ => .v (word ((l32.filter yes).filter (· < i)).length) := by
  have hyes : ∀ l, l < 32 → (c.crossOf g m).yes.getLsbD l = c.voter g m l := fun l hl => c.crossOf_yes g hl
  have hsub : ∀ l, c.voter g m l = true → m.getLsbD l = true := fun l hl => (Bool.and_eq_true _ _ ▸ hl : _ ∧ _).1
  have hnone : ((c.crossOf g m).yes == 0#32) = !(List.range 32).any (c.voter g m) := by
    rw [← mask_bne_zero hyes, bne, Bool.not_not]
  unfold Cross.vote
  dsimp only
  rw [mask_bne_zero hyes, hnone, setWidth_eq_sumBits hyes, lanesOf_eq_filter hyes, show (c.crossOf g m).who = m from rfl,
    mask_beq hyes hsub]
  rfl

theorem Cross.vote_flags (x : Cross) (i : Nat) : (x.vote i).flags = 0 := by
  unfold Cross.vote
  dsimp only
  split <;> rfl

/-- VOTE names one of the eight predicates. -/
theorem Cross.vote_pred (x : Cross) (i n : Nat) (b : Bool) (h : (x.vote i).pred = some (n, b)) : n < 8 := by
  unfold Cross.vote at h
  dsimp only at h
  split at h <;> cases h <;> exact Nat.mod_lt _ (by decide)

/-- MATCH compares the lowest sub-element of the contributors as a pattern. -/
theorem Issue.crossOf_matches {i : Nat} (hi : i < 32 ∧ m.getLsbD i = true) {l : Nat} (hl : l < 64) :
    ((c.crossOf g m).matches i).getLsbD l =
      (m.getLsbD l && ((c.srcA g l).toNat % 2 ^ ewidth c.ty == (c.srcA g i).toNat % 2 ^ ewidth c.ty)) := by
  rw [Cross.matches, BitVec.getLsbD_setWidth]
  by_cases h32 : l < 32
  · rw [getLsbD_maskIf _ _ _ h32]
    show (_ && (m.getLsbD l && _)) = _
    cases hml : m.getLsbD l
    · simp
    · simp [hl, c.crossOf_el g ⟨h32, hml⟩, c.crossOf_el g hi]
  · rw [BitVec.getLsbD_of_ge _ _ (by omega), BitVec.getLsbD_of_ge m _ (by omega), Bool.and_false, Bool.false_and]

/-- ELECT finds the lowest contributor, or the lowest with pS = 1. -/
theorem Issue.crossOf_elect (i : Nat) : (c.crossOf g m).elect i =
    ((List.range 32).find? (fun l => if c.w.sop = 1 then c.voter g m l else m.getLsbD l) == some i) := by
  have hyes : ∀ l, l < 32 → (c.crossOf g m).yes.getLsbD l = c.voter g m l := fun l hl => c.crossOf_yes g hl
  show (lowest (if c.w.sop = 1 then (c.crossOf g m).yes else m) == some i) = _
  split
  · rw [lowest, lanesOf_eq_filter hyes, List.head?_filter]
  · rw [lowest, lanesOf, List.head?_filter]

end Votes

/-! ## The words, where no thread has arrived before -/

section Words
variable {w : FullWord} {s : State} {c : Issue} {m : Mask} (hm : Contributes c s m) (hno : c.NoArrivals s)
include hm hno

/-- SHF: each sub-element of a contributor is the one that its selector names, or its own (R208, R212). -/
theorem shf_performs (h : Ready 0x90 w s c) :
    let g := c.g s
    let n := ewidth c.ty
    let k := 64 / n
    ∃ t, ∃ x : Nat → Word, exec (.shf w) s = .next t ∧ LaneDone { c with act := m } s t (fun i => .v (x i)) ∧
      ∀ i, i < 32 ∧ m.getLsbD i = true → Elements n k (x i) (fun j =>
        let sel := (c.srcBz g i).toNat / 2 ^ (8 * j) % 256 % (32 * k)
        if sel / k < 32 ∧ m.getLsbD (sel / k) = true then (c.srcA g (sel / k)).toNat / 2 ^ (n * (sel % k)) % 2 ^ n
        else (c.srcA g i).toNat / 2 ^ (n * j) % 2 ^ n) := by
  obtain ⟨t, ht, hdone⟩ := crossWord_val h hm hno (Cross.out_shf _ h.op_eq)
  exact ⟨t, _, ht, hdone, fun i hi => c.crossOf_shf _ hi⟩

/-- SHFI: a contributor receives the register of the lane that the immediate names within its group, or keeps its own (R212). -/
theorem shfi_performs (h : Ready 0x91 w s c) :
    let g := c.g s
    let wid := 2 ^ (5 - c.w.sb.toNat / 32)
    ∃ t, ∃ x : Nat → Word, exec (.shfi w) s = .next t ∧ LaneDone { c with act := m } s t (fun i => .v (x i)) ∧
      ∀ i, i < 32 ∧ m.getLsbD i = true → x i = match shfiSource c.w.sop c.w.sb.toNat i with
        | some q => if q < wid ∧ (i / wid * wid + q < 32 ∧ m.getLsbD (i / wid * wid + q) = true) then c.srcA g (i / wid * wid + q)
          else c.srcA g i
        | none => c.srcA g i := by
  obtain ⟨t, ht, hdone⟩ := crossWord_val h hm hno (Cross.out_shfi _ h.op_eq)
  exact ⟨t, _, ht, hdone, fun i hi => c.crossOf_shfi _ hi⟩

/-- BCAST: a contributor receives the register of the lane that b names, or keeps its own (R212). -/
theorem bcast_performs (h : Ready 0x95 w s c) :
    let g := c.g s
    ∃ t, ∃ x : Nat → Word, exec (.bcast w) s = .next t ∧ LaneDone { c with act := m } s t (fun i => .v (x i)) ∧
      ∀ i, i < 32 ∧ m.getLsbD i = true → x i =
        let l := (c.srcBz g i).toNat % 32
        if l < 32 ∧ m.getLsbD l = true then c.srcA g l else c.srcA g i := by
  obtain ⟨t, ht, hdone⟩ := crossWord_val h hm hno (Cross.out_bcast _ h.op_eq)
  exact ⟨t, _, ht, hdone, fun i hi => c.crossOf_bcast _ hi⟩

/-- VOTE: what the contributors with pS = 1 are among the contributors (R213). -/
theorem vote_performs (h : Ready 0x92 w s c) :
    let d := c.w.dst.toNat % 8
    let yes := c.voter (c.g s) m
    let l32 := List.range 32
    ∃ t, exec (.vote w) s = .next t ∧ LaneDone { c with act := m } s t (fun i => match c.w.sop with
      | 0 => .p d (l32.any yes)
      | 1 => .p d (l32.all (fun l => !m.getLsbD l || yes l))
      | 2 => .p d (!l32.any yes || l32.all (fun l => !m.getLsbD l || yes l))
      | 3 => .v (word ((l32.filter yes).foldl (fun x l => x + 2 ^ l) 0))
      | 4 => .v (word (l32.filter yes).length)
      | _ => .v (word ((l32.filter yes).filter (· < i)).length)) := by
  obtain ⟨t, ht, hdone⟩ := crossWord_performs h hm hno (Cross.out_vote _ h.op_eq) (Cross.vote_flags _) (Cross.vote_pred _)
  rw [funext (c.crossOf_vote (c.g s) m)] at hdone
  exact ⟨t, ht, hdone⟩

/-- MATCH: each contributor receives the mask of those with its pattern (R213). -/
theorem matchLanes_performs (h : Ready 0x96 w s c) :
    let g := c.g s
    let n := ewidth c.ty
    ∃ t, ∃ x : Nat → Word, exec (.matchLanes w) s = .next t ∧ LaneDone { c with act := m } s t (fun i => .v (x i)) ∧
      ∀ i, i < 32 ∧ m.getLsbD i = true → ∀ l, l < 64 → (x i).getLsbD l =
        (m.getLsbD l && ((c.srcA g l).toNat % 2 ^ n == (c.srcA g i).toNat % 2 ^ n)) := by
  obtain ⟨t, ht, hdone⟩ := crossWord_val h hm hno (Cross.out_matches _ h.op_eq)
  exact ⟨t, _, ht, hdone, fun i hi l hl => c.crossOf_matches _ m hi hl⟩

/-- ELECT: one contributor is the lowest, or the lowest with pS = 1 (R213). -/
theorem elect_performs (h : Ready 0x97 w s c) :
    ∃ t, exec (.elect w) s = .next t ∧ LaneDone { c with act := m } s t (fun i => .p (c.w.dst.toNat % 8)
      ((List.range 32).find? (fun l => if c.w.sop = 1 then c.voter (c.g s) m l else m.getLsbD l) == some i)) := by
  refine crossWord_performs h hm hno ((Cross.out_elect _ h.op_eq).trans ?_) (fun _ => rfl) ?_
  · exact funext fun i => by rw [c.crossOf_elect (c.g s) m i]; rfl
  · rintro i n x ⟨⟩
    exact Nat.mod_lt _ (by decide)

end Words

/-! ## A thread that has arrived before -/

/-- ELECT p1 in the member form over k0. -/
def memberElect : FullWord :=
  { h := false, gp := 0, gi := false, nw := false, dst := 1, sa := 0, sb := 0, sc := 0, mod := 1 }

/-- Lane 1 waits in that word at 0x10000. -/
def electPark : Park :=
  { id := 1, lanes := 2, todo := 2, act := 2, pc := 0x10000, lat := []
    why := .member 0x97 memberElect 0 [(1, { act := true, a := 0, b := 0, ps := true })], since := 0, left := none, ready := none }

/-- Lane 0 in EXEC at 0x10000, alone in its split and alone in k0; lane 1 parked, with the parks given. -/
def electGang (parks : List Park) : Gang :=
  { (default : Gang) with
    thr := [(0, { st := .exec, pc := 0x10000, rstack := [], refused := 0 }),
      (1, { st := .parked, pc := 0x10000, rstack := [], refused := 0 })]
    splits := [{ id := 0, lanes := 1, replay := none }], parks := parks, nextId := 2, k := [(0, 1#32)] }

/-- The machine with that gang alone, the word at 0x10000 in issue. -/
def electState (parks : List Park) : State :=
  { State.reset with
    wgs := [(0, { (default : Workgroup) with status := .running, gangs := [(0, electGang parks)] })]
    aux := { State.reset.aux with cur := some { wg := 0, gang := 0, split := 0, pc := 0x10000, replay := none } } }

/-- The ELECT in issue there: lane 0 is active. -/
def electIssue : Issue :=
  { wg := 0, gang := 0, split := 0, pc := 0x10000, lanes := 1, act := 1, op := 0x97, w := memberElect,
    f := (form 0x97 memberElect).getD default }

theorem elect_ready (parks : List Park) (h : (electState parks).issue 0x97 memberElect = some electIssue) :
    Ready 0x97 memberElect (electState parks) electIssue where
  issued := h
  formed := rfl
  legal  := rfl
  regs   := rfl
  active := show (1#32 : Mask) ≠ 0#32 by decide
  exec   := ⟨0, by decide, rfl⟩
  now    := by rintro x ⟨⟩; rfl

/-- Every lane of k0 stands in the issuing split. -/
theorem elect_contributes (parks : List Park) : Contributes electIssue (electState parks) 1#32 :=
  Or.inr ⟨by decide, show (1#32 : Mask) &&& ~~~1#32 = 0#32 by decide, show (1#32 : Mask) = 1#32 &&& (1#32 &&& 1#32) by decide⟩

/-- The word performs over the arrived thread too, which goes on: its park is gone (R210 item 4). -/
theorem elect_unparks (t : State) (ht : exec (.elect memberElect) (electState [electPark]) = .next t) : (t.gang 0 0).parks = [] := by
  have h : (match exec (.elect memberElect) (electState [electPark]) with
      | .next t => (t.gang 0 0).parks.isEmpty
      | _ => false) = true := by decide +kernel
  rw [ht] at h
  exact List.isEmpty_iff.1 h

/-- Refutes O25: kN lies within the issuing split, but another thread has arrived at the member form before, when kN still held its
lane. As the statement counts, the word then performs over the issuing split and leaves every park; but a member form performs over
every arrived thread (R210 item 4), and the thread that waited goes on. Contributes does not ask that none has arrived: with
`Issue.NoArrivals`, which the split form has of itself, every clause holds (`shf_performs`, `shfi_performs`, `bcast_performs`,
`vote_performs`, `matchLanes_performs`, `elect_performs`). -/
theorem not_crossLaneWords : ¬ Obligations.CrossLaneWords := by
  unfold Obligations.CrossLaneWords
  rintro ⟨-, hvotes⟩
  obtain ⟨-, -, helect⟩ := hvotes memberElect (electState [electPark]) electIssue 1#32 (elect_contributes _)
  obtain ⟨t, x, ht, hdone, -⟩ := helect (elect_ready _ (by decide +kernel))
  have hgone : (t.gang 0 0).parks = [] := elect_unparks t ht
  have hkept : (t.gang 0 0).parks = [electPark] := hdone.system.parks
  exact absurd (hgone.symm.trans hkept) (by decide)

/-- Where nobody waits at the word, the same ELECT leaves its gang as the clauses say. -/
theorem elect_alone : ∃ t, exec (.elect memberElect) (electState []) = .next t ∧
    LaneDone { electIssue with act := 1#32 } (electState []) t (fun i => .p 1
      ((List.range 32).find? (fun l => (1#32 : Mask).getLsbD l) == some i)) :=
  elect_performs (elect_contributes []) (fun _ => rfl) (elect_ready [] (by decide +kernel))

end Sys2Proof.Machine
